-- ==== Sys2Proof/Word.lean ====
section
/-! DEFINITION. The word types of the TU36-A and the sparse table every indexed group of state uses. -/

namespace Sys2Proof

/-- A byte of package or host memory (R3). -/
abbrev Byte := BitVec 8

/-- A 64-bit register, descriptor word or postmark. -/
abbrev Word := BitVec 64

/-- A postmark (R25): beat [63:24], tick [23:12], sub-tick [11:0]. -/
abbrev Pm := BitVec 64

/-- A logical core number (R12): die [16:12], cluster [11:4], core [3:0]. -/
abbrev CoreId := BitVec 17

/-- The bits [55:0] of an instruction word; bits [63:56], the opcode, are the command's own row (R54). -/
abbrev W56 := BitVec 56

/-- A 48-bit package-physical address (R210). -/
abbrev Addr := BitVec 48

/-- An error code (R469). -/
abbrev Err := BitVec 8

/-- A sparse table: (key, value) pairs with strictly rising keys, none holding the value that an unlisted key has. -/
abbrev Tab (α : Type) := List (Nat × α)

end Sys2Proof
end

