-- ==== Sys2Proof/Syntax.lean ====
section
/-! DEFINITION. The commands of the TU36-A: one constructor of `Instr` per row of spec/opcode_table.json, with the
operands the row's rule gives it, and the plain data those operands are made of. -/

namespace Sys2Proof

/-! ### The Dexvin image (R35) as data

The entries keep the bit layouts the spec gives them; the byte offsets of the sections' own headers are not given. -/

/-- The envelope block of a core in section 0x02 (R167): a 128-bit header and 64 handler entries of 16 bits. -/
structure EnvBlock where
  hdr  : BitVec 128
  ents : Tab (BitVec 16)
  deriving DecidableEq, Repr

/-- A layer record of section 0x0D (R119 to R122). -/
structure Layer where
  hdr     : BitVec 256
  bounds  : List (BitVec 64)
  rescale : List (BitVec 64)
  deriving DecidableEq, Repr

/-- Section 0x0E, the update section (R186): reserved bytes are `rsv`. -/
structure UpdSection where
  seed    : BitVec 64
  version : BitVec 8
  lsInit  : BitVec 8
  rsv     : BitVec 144
  commit  : BitVec 256
  progs   : Tab (BitVec 32)
  hyper   : Tab (BitVec 32)
  entries : List (BitVec 512)
  deriving DecidableEq, Repr

/-- A Dexvin image (R35): the section identifiers present, then each section's entries. -/
structure Image where
  sections  : List Nat
  secBytes  : Nat
  placement : BitVec 128
  needCores : Nat
  needDies  : Nat
  needHbm   : BitVec 4
  stepBeats : BitVec 32
  streams   : Tab (BitVec 64)
  envBlocks : Tab EnvBlock
  rels      : List (BitVec 256)
  umbels    : Tab (BitVec 256)
  plans     : Tab (BitVec 256)
  collHubs  : List (BitVec 256)
  colls     : List (BitVec 512)
  budgets   : List (BitVec 64)
  queues    : List (BitVec 256)
  rcptDescs : List (BitVec 128)
  ckptRec   : Option (BitVec 256)
  editions  : List (BitVec 256)
  guars     : List (BitVec 128)
  rtHdr     : BitVec 512
  flows     : Tab (BitVec 128)
  consFlow  : Tab (BitVec 16)
  xferFlow  : Tab (BitVec 16)
  hostFlow  : Tab (BitVec 16)
  hkeys     : List (BitVec 64)
  spareMap  : List (BitVec 64)
  layers    : List Layer
  upd       : Option UpdSection
  latitude  : BitVec 256
  signature : Nat
  deriving DecidableEq, Repr

/-! ### What arrives from outside -/

/-- A packet of the torus or of a hub bundle (R256): its 128-bit header and the bytes after it. -/
structure Packet where
  hdr  : BitVec 128
  data : List Byte
  deriving DecidableEq, Repr

/-- A flit as it arrives (R255, R261): its header, whether its codewords could be corrected and how many were, whether its CRC-64 and
GCM tag verify, and its seven payload slots, decrypted. -/
structure Flit where
  hdr     : BitVec 512
  fecOk   : Bool
  fecFix  : Nat
  crcOk   : Bool
  gcmOk   : Bool
  slots   : List (List Byte)
  deriving DecidableEq, Repr

/-- The channels of an HDI port (R240). -/
inductive HdiChan where
  | ctl | rsp | req
  deriving DecidableEq, Repr

/-- A unit of 64 bytes on its way over a bundle (R238, R240): its channel, the hub it goes to where hubs exchange it (R244), and
what it carries. -/
structure HdiUnit where
  chan : HdiChan
  dst  : BitVec 2
  data : BitVec 512
  deriving DecidableEq, Repr

/-- What a link's training found (R252, R280, R281, R282, R427): `secret` of the ECDH exchange, `authNs` the time that authentication
took. -/
structure TrainResult where
  lanesOk  : BitVec 8
  framing  : Bool
  peerAddr : BitVec 15
  peerLink : BitVec 4
  partOk   : Bool
  chainOk  : Bool
  serial   : BitVec 64
  svnFw    : BitVec 8
  sigOk    : Bool
  ecdhOk   : Bool
  gcmPeer  : Bool
  secret   : BitVec 384
  authNs   : Nat
  deriving DecidableEq, Repr

/-- A guest die's request (R248, R249). -/
inductive GuestReq where
  | envelope (ep : BitVec 4) (hdr : BitVec 512) (payload : List Byte)
  | rcptAdd (ep : BitVec 4) (remote : Bool) (pkg : BitVec 15) (rcpt : BitVec 14) (inc : BitVec 64)
  | read (addr : Addr) (len : Nat)
  | write (addr : Addr) (data : List Byte)
  | mso (addr : Addr) (mop mtype : BitVec 2) (sat : Bool) (data : List Byte)
  deriving DecidableEq, Repr

/-- The answer to commit.query (R203). -/
inductive RoundOutcome where
  | committed | rolledBack | inDoubt | notVoted
  deriving DecidableEq, Repr

/-- Why a consignment in transit is Returned (R147): the causes that arise outside the consignment's own checks. -/
inductive ReturnCause where
  | key | retired | linkDown | range | state
  deriving DecidableEq, Repr

/-- The kind of a firmware slot's verdict at boot (R418, R419). -/
structure FwSlot where
  accepted : Bool
  version  : BitVec 30
  svn      : BitVec 8
  keySlot  : BitVec 2
  digest   : Nat
  deriving DecidableEq, Repr

/-- A record that the flash holds in two copies, each with its sequence number (R404, R422); none: its CRC does not hold. -/
structure Copies (α : Type) where
  a : Option (BitVec 32 × α)
  b : Option (BitVec 32 × α)
  deriving DecidableEq, Repr

/-- What Shordo reads from fuses and flash at stage 2 (R417, R422, R442): as they were made, before any boot of the model;
`crcBad` names the copies whose CRC does not hold at this boot (R404): 0 and 1 the repair record's, 2 and 3 the placement record's, 4 and 5
the key store's. `factory` is the channels of the fused factory repairs (R406). -/
structure BootRead where
  slotA      : FwSlot
  slotB      : FwSlot
  serial     : BitVec 64
  svnFused   : BitVec 8
  revoked    : BitVec 4
  debugLock  : Bool
  repair     : Copies (List (BitVec 128))
  place      : Copies (BitVec 36)
  keys       : Copies (List Nat)
  crcBad     : List Nat
  peerRevoked : List (BitVec 64)
  factory  : List (BitVec 32)
  deriving DecidableEq, Repr

/-- A site's capability block as the hub read it (R245): block and whether its CRC-16 held within two reads. -/
structure CapBlock where
  site  : Nat
  crcOk : Bool
  block : BitVec 256
  deriving DecidableEq, Repr

/-- A die-rail of a Teasel tile (R381, R405): the group code of `rr_kind` 0x04, or a cluster's own VCL. -/
inductive Rail where
  | standby | transit | core | hub | hbm | vcl (cluster : BitVec 8)
  deriving DecidableEq, Repr

/-- A temperature sensor (R389): a cluster's (logical die and cluster), a hub's or a Teasel tile's. -/
inductive Sensor where
  | cluster (die : BitVec 5) (cl : BitVec 8)
  | hub (h : Fin 4)
  | teasel (tile : Fin 40) (i : Fin 2)
  deriving DecidableEq, Repr

/-- The two groups of the imbalance monitor (R227). -/
inductive MonGroup where
  | cache | hbm
  deriving DecidableEq, Repr

/-- The transports of SPDM (R425): each keeps its own negotiation state (R426). -/
inductive Transport where
  | doe0 | doe1 | i3c | smbus | vdm0 | vdm1
  deriving DecidableEq, Repr

/-- A source or destination of VCVT: a vector register or scratchpad bytes. -/
inductive VOp where
  | reg (v : BitVec 5)
  | sp (addr : BitVec 17)
  deriving DecidableEq, Repr

namespace Machine

/-- A slot's state (R150). -/
inductive SlotSt where
  | empty | filling | full | draining
  deriving DecidableEq, Repr

/-- A slot's state word (R149, R151, R152). `claim`: the micro-batch a POST in transit has claimed it for. -/
structure Slot where
  st    : SlotSt
  mb    : BitVec 8
  got   : Nat
  taken : Nat
  b0    : Bool
  b1    : Bool
  claim : Option (BitVec 8)
  parts : List (BitVec 20)
  deriving DecidableEq, Repr

/-- The states of an edition slot (R159). -/
inductive EdSt where
  | free | pending | published | superseded
  deriving DecidableEq, Repr

/-- An edition slot (R158, R159): `pins` is the checkpoint pin count, `step` the step a pending edition belongs to. -/
structure Edition where
  st    : EdSt
  epoch : BitVec 32
  pins  : Nat
  step  : BitVec 40
  born  : Nat
  deriving DecidableEq, Repr

/-- A record of an edition for a micro-batch (R158). -/
structure EdRec where
  num   : BitVec 3
  valid : Bool
  tentative : Bool
  dropPend  : Bool
  madeIn  : BitVec 40
  dropIn  : BitVec 40
  deriving DecidableEq, Repr

/-- A stage's edition unit (R156 to R162). `frames` counts the frames taken from the pool in the step. -/
structure Stage where
  eds    : Tab Edition
  recs   : Tab EdRec
  frames : BitVec 32
  serial : Nat
  deriving DecidableEq, Repr

/-- A half of a step statistics block (R195), keyed stage * 2 + half: `ovf` at code, `van` at 16 + code, grad_nf at 32. -/
abbrev StatHalf := Tab (BitVec 32)

/-- The boundary state taken at a step's beginning (R205); `qstats`: the quantiser statistics halves by address (R135). -/
structure Boundary where
  step   : BitVec 40
  counts : Tab (BitVec 32)
  slots  : Tab Slot
  reruns : BitVec 8
  forceExp : BitVec 8
  qstats : List (Nat × List Byte)
  deriving DecidableEq, Repr

end Machine

/-- A restore's data when it comes from the buddy (R325, R326, R329, R333): the header, whether every frame passed its check,
the boundary block, the carried slots by address, the granule tables, owned arrays and working arrays as bytes. -/
structure BuddyData where
  reachable  : Bool
  hdr        : BitVec 512
  frameOk    : Bool
  block      : Machine.Boundary
  settledExp : BitVec 8
  lsClean    : BitVec 32
  stats      : Tab Machine.StatHalf
  stages     : Tab Machine.Stage
  pinBounds  : Tab (Tab (BitVec 32))
  carried    : List (Nat × List Byte)
  tables     : List (Nat × List Byte)
  owned      : List (Nat × List Byte)
  working    : List (Nat × List Byte)
  deriving DecidableEq, Repr

/-- What the error-correcting codes met while a transfer's bytes moved (R213, R397 to R400): nothing, a corrected error,
an error that one repeat cured, or one that it did not; in the cache slice before the HBM, a corrected error, one that a
repeat or a refetch cured, or a dirty line that was lost (R400). -/
inductive EccOutcome where
  | clean | corrected | transient | lasting | lineCorrected | lineTransient | lineLost
  deriving DecidableEq, Repr

/-- What the codes met, and at which package address of the accesses that a command makes. -/
structure EccAt where
  outcome : EccOutcome
  addr    : Addr
  deriving DecidableEq, Repr

/-- Nothing met. -/
def noEcc : EccAt := ⟨.clean, 0⟩

/-- An adder lane's residues disagree (R302): the lane, and whether the repeat disagreed too. -/
structure LaneFault where
  lane  : BitVec 5
  again : Bool
  deriving DecidableEq, Repr

/-- What the processing of a PIECE packet met: at its adder lanes (R302) and at the memory it reaches (R213). -/
structure PieceMet where
  lane : Option LaneFault
  ecc  : EccAt
  deriving DecidableEq, Repr

/-- Nothing met. -/
def pieceClean : PieceMet := ⟨none, noEcc⟩

/-- The commands: one constructor per row of the table, in the table's order. -/
inductive Instr where
  -- SCU (R472, R54, R166): logical core and bits [55:0] of the word
  | add (c : CoreId) (w : W56)
  | sub (c : CoreId) (w : W56)
  | and (c : CoreId) (w : W56)
  | or (c : CoreId) (w : W56)
  | xor (c : CoreId) (w : W56)
  | shl (c : CoreId) (w : W56)
  | shr (c : CoreId) (w : W56)
  | sar (c : CoreId) (w : W56)
  | mul (c : CoreId) (w : W56)
  | addi (c : CoreId) (w : W56)
  | li (c : CoreId) (w : W56)
  | lih (c : CoreId) (w : W56)
  | cmpEq (c : CoreId) (w : W56)
  | cmpLt (c : CoreId) (w : W56)
  | cmpLtu (c : CoreId) (w : W56)
  | beqz (c : CoreId) (w : W56)
  | bnez (c : CoreId) (w : W56)
  | jmp (c : CoreId) (w : W56)
  | jr (c : CoreId) (w : W56)
  | loop (c : CoreId) (w : W56)
  | ldS (c : CoreId) (w : W56)
  | stS (c : CoreId) (w : W56)
  | pmNow (c : CoreId) (w : W56)
  | pmStep (c : CoreId) (w : W56)
  | nop (c : CoreId) (w : W56)
  | halt (c : CoreId) (w : W56)
  | fence (c : CoreId) (w : W56)
  | waitPm (c : CoreId) (w : W56)
  | waitRcpt (c : CoreId) (w : W56)
  | send (c : CoreId) (w : W56)
  | arm (c : CoreId) (w : W56)
  | rcptAdd (c : CoreId) (w : W56)
  | rcptRead (c : CoreId) (w : W56)
  | hmask (c : CoreId) (w : W56)
  | hret (c : CoreId) (w : W56)
  -- MXA, drain unit (R60, R67, R112)
  | mma (c : CoreId) (w : W56)
  | mmaAccumulate (c : CoreId)
  | accSwap (c : CoreId) (w : W56)
  | swap (c : CoreId)
  | accDrain (c : CoreId) (w : W56)
  | drainStart (c : CoreId)
  | drainDone (c : CoreId)
  -- VXE (R68, R70)
  | vldx (c : CoreId) (fmt : BitVec 4) (mxs : Bool) (src : BitVec 17) (len : BitVec 14) (sAddr : BitVec 17) (xOff : BitVec 7)
  | mv (c : CoreId) (w : W56)
  | mvSt (c : CoreId) (fmt : BitVec 4) (sat : Bool) (rows : BitVec 8) (dst : BitVec 17)
  | vld (c : CoreId) (vd : BitVec 5) (addr : BitVec 17)
  | vst (c : CoreId) (vs : BitVec 5) (addr : BitVec 17)
  | vfma (c : CoreId) (vd va vb vc : BitVec 5)
  | vadd (c : CoreId) (vd va vb : BitVec 5)
  | vmul (c : CoreId) (vd va vb : BitVec 5)
  | vmax (c : CoreId) (vd va vb : BitVec 5)
  | vmin (c : CoreId) (vd va vb : BitVec 5)
  | vcvt (c : CoreId) (sf df : BitVec 4) (smx dmx sat sr : Bool) (src : VOp) (sSc : BitVec 17) (dst : VOp) (dSc : BitVec 17)
  -- XFER (R221, R223)
  | xferIn (c : CoreId) (w : W56)
  | xferOut (c : CoreId) (w : W56)
  | xferComplete (c : CoreId) (ecc : EccAt) (atMem : Bool)
  | memorySideOperation (h : Fin 4) (reach : List Nat) (bad : Option LaneFault) (ecc : EccAt)
  -- release actions (R38, R40): the umbel whose next entry fires
  | streamStart (u : BitVec 16)
  | consign (u : BitVec 16)
  | collStart (u : BitVec 16)
  | envRelease (u : BitVec 16)
  | receiptAdd (u : BitVec 16)
  | commit (u : BitVec 16)
  | ckptCut (u : BitVec 16)
  | stepEnd (u : BitVec 16)
  | schedStall (u : BitVec 16)
  -- preemption (R372 to R374): the evicted umbel
  | preemptSave (u : BitVec 16)
  | handOver (u : BitVec 16)
  | umbelRestore (u : BitVec 16)
  | ctxResume (u : BitVec 16)
  -- envelopes (R169 to R173, R248, R249): index of the message on its way
  | envelopeArrival (i : Nat)
  | acknowledgementArrival (i : Nat)
  | deadLetterArrival (i : Nat)
  | envelopeRetry (c : CoreId) (e : Fin 16)
  | dispatch (c : CoreId)
  | guestAnswerTimeout (i : Nat)
  | guestRequest (die : BitVec 5) (r : GuestReq)
  -- receipts (R179, R182): receipt, how many adds reach it in the hub cycle, and the subscriber (dies 0 to 31, hubs 32 to 35)
  | receiptAddApplied (r : BitVec 14) (n : Nat)
  | countUpdate (sub : Fin 36) (r : BitVec 14)
  -- consignments (R146, R147)
  | consignStart (n : BitVec 20) (ecc : EccAt)
  | consignDelivered (n : BitVec 20) (ecc : EccAt)
  | consignReturned (n : BitVec 20) (cause : ReturnCause) (bytes : Nat)
  | remotePostAck (n : BitVec 20)
  -- update engines (R188 to R192): the hub whose engine steps
  | updateEntryStart (h : Fin 4)
  | updateEntryDone (h : Fin 4)
  | upEnd (h : Fin 4)
  | upLd (h : Fin 4) (ecc : EccAt)
  | upSt (h : Fin 4) (ecc : EccAt)
  | upAdd (h : Fin 4)
  | upSub (h : Fin 4)
  | upMul (h : Fin 4)
  | upFma (h : Fin 4)
  | upDiv (h : Fin 4)
  | upSqrt (h : Fin 4)
  | upMax (h : Fin 4)
  | upMin (h : Fin 4)
  | upAbs (h : Fin 4)
  | upPows (h : Fin 4)
  | upRand (h : Fin 4)
  | upBsum (h : Fin 4)
  | upBmax (h : Fin 4)
  | upBar (h : Fin 4)
  -- commit (R202, R203, R476)
  | memberReady
  | voteWindowExpiry
  | confirmDeadline
  | doubtDeadline
  | commitVote (h : Fin 4) (p : Packet)
  | commitConfirm (h : Fin 4) (p : Packet)
  | commitAbort (h : Fin 4) (p : Packet)
  | commitQuery (h : Fin 4) (p : Packet)
  | commitQueryAnswer (h : Fin 4) (p : Packet)
  | rollbackRestore
  | generationSealed
  -- collectives (R297, R298, R300)
  | collectiveStarts (h : Fin 4) (met : PieceMet)
  | piece (h : Fin 4) (p : Packet) (met : PieceMet)
  | collAbort (h : Fin 4) (p : Packet)
  | collTimeout (h : Fin 4) (id : BitVec 32)
  -- HDI (R238 to R242): bundle and port; `up` is the direction toward the hub, or the lower hub of a pair
  | hdiFrameReceived (b : Fin 40) (p : Fin 4) (up crcOk : Bool) (units : List HdiUnit)
  | hdiRetrainDone (b : Fin 40) (p : Fin 4) (badWires : List (Bool × BitVec 10)) (clockBad : Bool)
  -- torus links (R261 to R268, R280)
  | flitReceived (l : Fin 12) (f : Flit)
  | ackTimeout (l : Fin 12)
  | retrainDone (l : Fin 12) (lanesOk : BitVec 8) (rate : BitVec 2) (gcmPeer : Bool)
  | retrainTimeout (l : Fin 12)
  | trainingStart (l : Fin 12)
  | trainingDone (l : Fin 12) (r : TrainResult)
  | trainingTimeout (l : Fin 12)
  | widthChangeDone (l : Fin 12) (ok : Bool)
  -- end to end (R270 to R273): the hub
  | writePacket (h : Fin 4) (p : Packet)
  | envelopePacket (h : Fin 4) (p : Packet)
  | rcptAddPacket (h : Fin 4) (p : Packet)
  | e2eAck (h : Fin 4) (p : Packet)
  | rsp (h : Fin 4) (p : Packet)
  | packetTransit (l : Fin 12) (cls : Bool) (p : Packet)
  | busyResendTimer (h : Fin 4) (i : Nat)
  | requestTimeout (h : Fin 4) (i : Nat)
  | e2eAckTimer (h : Fin 4) (i : Nat)
  | streamWindowIdle (h : Fin 4) (i : Nat)
  -- courier lanes and timebase (R28, R29, R277, R265, R411, R278): whether a frame's CRC-16 matches (R275); a record's frame is its body
  | timing (l : Fin 12) (crcOk : Bool) (root : BitVec 15) (period : BitVec 26) (pm : Pm)
  | timingFrameSend
  | probeSend
  | probe (l : Fin 12) (crcOk : Bool) (t1 : Pm)
  | probeReply (l : Fin 12) (crcOk : Bool) (t1 t2 t3 : Pm)
  | stop (l : Fin 12) (crcOk : Bool) (origin : BitVec 15) (count : BitVec 16) (pm : Pm) (scope : BitVec 2)
  | quiesce (l : Fin 12) (crcOk : Bool) (origin : BitVec 15) (count : BitVec 16) (pm : Pm) (scope : BitVec 2)
  | linkCtl (l : Fin 12) (crcOk : Bool) (kind : BitVec 3) (lanes rate : BitVec 2)
  | alarm (l : Fin 12) (crcOk : Bool) (body : BitVec 224)
  | log (l : Fin 12) (crcOk : Bool) (body : BitVec 224)
  | trace (l : Fin 12) (crcOk : Bool) (body : BitVec 224)
  | courierLost (l : Fin 12)
  | correctionPulse
  | tbLock
  | tbInLoss
  | holdoverExpiry
  -- records (R47, R362, R363)
  | recordRelease
  | recordDelivery (c : Fin 64)
  | interruptGapExpiry (c : Fin 64)
  -- doorbells (R342, R343): context, PCIe port of the write, value; whether the read of the next descriptor meets a PCIe error
  | mbDoorbell (c : Fin 64) (port : Bool) (v : BitVec 32) (readFault : Bool)
  | evHeadWrite (c : Fin 64) (port : Bool) (v : BitVec 32)
  | mbCtlWrite (c : Fin 64) (v : BitVec 32)
  | evCtlWrite (c : Fin 64) (v : BitVec 32)
  -- mailbag commands (R344 to R356): context and bits [503:0] of the descriptor
  | mbNop (c : Fin 64) (d : BitVec 504)
  | mbCopy (c : Fin 64) (d : BitVec 504)
  | mbLoad (c : Fin 64) (d : BitVec 504) (img again : Image)
  | mbUnload (c : Fin 64) (d : BitVec 504)
  | mbStart (c : Fin 64) (d : BitVec 504)
  | mbResume (c : Fin 64) (d : BitVec 504)
  | mbRegion (c : Fin 64) (d : BitVec 504)
  | mbGuaranteeAdd (c : Fin 64) (d : BitVec 504)
  | mbGuaranteeRemove (c : Fin 64) (d : BitVec 504)
  | mbColl (c : Fin 64) (d : BitVec 504) (entry : BitVec 512) (startBeat : BitVec 40)
  | mbLinkDown (c : Fin 64) (d : BitVec 504)
  | mbLinkRetrain (c : Fin 64) (d : BitVec 504)
  | mbLinkSetWidth (c : Fin 64) (d : BitVec 504)
  | mbLinkCourierRetrain (c : Fin 64) (d : BitVec 504)
  | mbCkptHdr (c : Fin 64) (d : BitVec 504)
  | mbBuddyLost (c : Fin 64) (d : BitVec 504)
  | mbRestoreLocal (c : Fin 64) (d : BitVec 504)
  | mbRestoreBuddy (c : Fin 64) (d : BitVec 504) (g : BuddyData)
  | mbConsignReset (c : Fin 64) (d : BitVec 504)
  | mbCoreClear (c : Fin 64) (d : BitVec 504)
  | mbCoreRetire (c : Fin 64) (d : BitVec 504)
  | mbStateReady (c : Fin 64) (d : BitVec 504)
  | mbStateDormant (c : Fin 64) (d : BitVec 504)
  | longCommandComplete (i : Nat) (err : Err) (moved : Nat) (ecc : EccAt)
  | cmdTimeout (c : Fin 64)
  | urgentQuiesce (scope : BitVec 2)
  | urgentStop (scope : BitVec 2)
  | bar2Access (isWrite : Bool) (off : BitVec 33) (len : Nat) (data : List Byte) (ecc : EccAt)
  -- setup registers (R455 to R468)
  | setupLock (port : Bool)
  | lockHitClear
  | sysPlaceWrite (port : Bool) (v : BitVec 64)
  | tbCfgWrite (v : BitVec 64)
  | tbUpstreamWrite (v : BitVec 32)
  | llmModeWrite (port : Bool) (v : BitVec 32)
  | ctxCfgWrite (port : Bool) (c : Fin 64) (v : BitVec 64)
  | hiStickyClear (q : BitVec 12)
  | loStickyClear (q : BitVec 12)
  | wmStickyClear (r : BitVec 14)
  | registerWrite (port : Bool) (off : BitVec 25) (size : Nat) (v : BitVec 64)
  | pcieReset (port perst : Bool)
  -- power and thermal (R380 to R393)
  | inputUndervolt
  | inputOvervolt
  | bladeOvercurrent
  | bladeLost (blade : Bool)
  | capPeriod (pIn vIn : Nat)
  | currentPeriod (i0 i1 : Nat)
  | dvfsPeriod
  | droop (die : BitVec 5) (cl : BitVec 8)
  | droopRecovery (die : BitVec 5) (cl : BitVec 8)
  | sensorRead (sn : Sensor) (t : Nat)
  | level1Step (sn : Sensor)
  | criticalTemperature (hbm : Bool)
  | hbmTempReport (st : Fin 16) (t : Nat)
  | flowOkDeassert
  | flowOkAssert
  | coolantClear
  | flowLossTimeout
  | thermalTrip (asserted : Bool)
  | haltComplete
  | throttleOngoing (r : Fin 7)
  | pwrgdLow
  | rstNLow
  | rstNHigh (autoOn : Bool)
  | softStartOvercurrent (tile : Fin 40) (rail : Rail)
  | railRetry (tile : Fin 40) (rail : Rail) (ok : Bool)
  | phaseOvercurrent (tile : Fin 40) (rail : Rail)
  -- memory units (R227 to R235)
  | imbalanceWindow (h : Fin 4) (g : MonGroup) (total largest : Nat)
  | llmFlushDone (h : Fin 4)
  | migrationChunkDone (h : Fin 4)
  | shortfallPeriodic (h : Fin 4)
  -- start-up (R442 to R450)
  | repairRecordWrite
  | powerGood (autoOn : Bool)
  | shordoBoot (b : BootRead)
  | railRamp
  | hdiStage (hubFwOk : Bool) (blocks : List CapBlock) (badPorts : List (Nat × Nat)) (badWires : List (Nat × Nat × Bool × BitVec 10))
  | spareMapStage
  | hbmTraining (lanes again : List (BitVec 2 × BitVec 8 × BitVec 6))
  | selfTest (transient lasting : List (Nat × Nat × Nat)) (adders : List (Fin 4 × Nat × Nat))
  | linkStage
  | timebaseStage
  | hostStage
  -- management (R430 to R432)
  | placeRead
  | placeWrite (place : BitVec 36)
  | repairRead (i : Nat)
  | repairClear (i : Nat)
  | extLimit (v : BitVec 8)
  | keystoreWrite (key : Nat) (revoked : Bool) (sig : Nat)
  | stateReady
  | stateStandby
  | debugUnlock
  | debugUnlockResponse (slot : BitVec 2) (sig : Nat)
  | getVersion (t : Transport)
  | getCapabilities (t : Transport)
  | negotiateAlgorithms (t : Transport) (p384 sha384 : Bool)
  | getDigests (t : Transport)
  | getCertificate (t : Transport) (slot : Nat)
  | challenge (t : Transport) (slot nonce : Nat)
  | getMeasurements (t : Transport) (index nonce : Nat) (signed : Bool)
  | firmwareUpdate (agent : Nat) (pkg : FwSlot)
  | bypass
  | idcode
  | samplePreload
  | extest
  | clamp
  | highz
  | tbInReturn
  | sysclkLost
  | clusterClockLoss (die : BitVec 5) (cl : BitVec 8) (relocked : Bool)
  | vclSlewComplete (die : BitVec 5) (cl : BitVec 8)
  | localWriteComplete
  | newEpoch (l : Fin 12)
  | smbusFallback
  | perstnDeassert (port : Bool)
  deriving DecidableEq, Repr

end Sys2Proof
end

