-- ==== Sys2Proof/Decode.lean ====
section
/-! DEFINITION. spec/opcode_table.json gives no row of this block any bits, so no word spells a command of the table. The spec's
own opcode table of a core's 64-bit instruction words (R54, R166, R472) stands beside it. -/

namespace Sys2Proof

/-- The command that a word of `nbits` bits spells by the table's bits: no row gives bits, so none. -/
def decodeTableWord (_nbits _w : Nat) : Option Instr := none

/-- The opcode, bits [63:56], of a core's instruction command (R54, R60, R68, R112, R166, R221, R472); none for the other commands. -/
def opcodeOf : Instr → Option (BitVec 8)
  | .add .. => some 0x00
  | .sub .. => some 0x01
  | .and .. => some 0x02
  | .or .. => some 0x03
  | .xor .. => some 0x04
  | .shl .. => some 0x05
  | .shr .. => some 0x06
  | .sar .. => some 0x07
  | .mul .. => some 0x08
  | .addi .. => some 0x09
  | .li .. => some 0x0A
  | .lih .. => some 0x0B
  | .cmpEq .. => some 0x0C
  | .cmpLt .. => some 0x0D
  | .cmpLtu .. => some 0x0E
  | .beqz .. => some 0x10
  | .bnez .. => some 0x11
  | .jmp .. => some 0x12
  | .jr .. => some 0x13
  | .loop .. => some 0x14
  | .ldS .. => some 0x15
  | .stS .. => some 0x16
  | .pmNow .. => some 0x17
  | .pmStep .. => some 0x18
  | .nop .. => some 0x20
  | .halt .. => some 0x21
  | .fence .. => some 0x22
  | .waitPm .. => some 0x23
  | .waitRcpt .. => some 0x24
  | .send .. => some 0x30
  | .arm .. => some 0x31
  | .rcptAdd .. => some 0x32
  | .rcptRead .. => some 0x33
  | .hmask .. => some 0x34
  | .hret .. => some 0x35
  | .mma .. => some 0x40
  | .accSwap .. => some 0x41
  | .accDrain .. => some 0x42
  | .vldx .. => some 0x60
  | .mv .. => some 0x61
  | .mvSt .. => some 0x62
  | .vld .. => some 0x63
  | .vst .. => some 0x64
  | .vfma .. => some 0x65
  | .vadd .. => some 0x66
  | .vmul .. => some 0x67
  | .vmax .. => some 0x68
  | .vmin .. => some 0x69
  | .vcvt .. => some 0x6A
  | .xferIn .. => some 0x80
  | .xferOut .. => some 0x81
  | _ => none

/-- The command that core `c` is given when its SCU issues the word `x` (R54): its opcode picks the command and bits [55:0] are its
fields. None for a reserved opcode, and for the VXE words but MV, whose fields the spec does not lay out (LOG 6). -/
def decodeCore (c : CoreId) (x : BitVec 64) : Option Instr :=
  let w : W56 := x.extractLsb' 0 56
  match (x.extractLsb' 56 8).toNat with
  | 0x00 => some (.add c w)
  | 0x01 => some (.sub c w)
  | 0x02 => some (.and c w)
  | 0x03 => some (.or c w)
  | 0x04 => some (.xor c w)
  | 0x05 => some (.shl c w)
  | 0x06 => some (.shr c w)
  | 0x07 => some (.sar c w)
  | 0x08 => some (.mul c w)
  | 0x09 => some (.addi c w)
  | 0x0A => some (.li c w)
  | 0x0B => some (.lih c w)
  | 0x0C => some (.cmpEq c w)
  | 0x0D => some (.cmpLt c w)
  | 0x0E => some (.cmpLtu c w)
  | 0x10 => some (.beqz c w)
  | 0x11 => some (.bnez c w)
  | 0x12 => some (.jmp c w)
  | 0x13 => some (.jr c w)
  | 0x14 => some (.loop c w)
  | 0x15 => some (.ldS c w)
  | 0x16 => some (.stS c w)
  | 0x17 => some (.pmNow c w)
  | 0x18 => some (.pmStep c w)
  | 0x20 => some (.nop c w)
  | 0x21 => some (.halt c w)
  | 0x22 => some (.fence c w)
  | 0x23 => some (.waitPm c w)
  | 0x24 => some (.waitRcpt c w)
  | 0x30 => some (.send c w)
  | 0x31 => some (.arm c w)
  | 0x32 => some (.rcptAdd c w)
  | 0x33 => some (.rcptRead c w)
  | 0x34 => some (.hmask c w)
  | 0x35 => some (.hret c w)
  | 0x40 => some (.mma c w)
  | 0x41 => some (.accSwap c w)
  | 0x42 => some (.accDrain c w)
  | 0x61 => some (.mv c w)
  | 0x80 => some (.xferIn c w)
  | 0x81 => some (.xferOut c w)
  | _ => none

end Sys2Proof
end

