-- ==== Sys2Proof/Config.lean ====
section
/-! DEFINITION. What the spec leaves open: free values (constants with no body) and the uninterpreted cryptography. -/

namespace Sys2Proof.Config

/-- The code of the core fault of a third nested LOOP, which R54 forbids and gives no code (LOG 11). -/
opaque loopErr : Nat → BitVec 8

/-- The bits that FP32 work leaves open where the spec states no value, by the free counter (LOG 11). -/
opaque freeWord : Nat → BitVec 64

/-- By how much a clock domain trims its rate value: its new rate, from the error it measured and the old rate (R33, LOG 21). -/
opaque trimRate : BitVec 64 → BitVec 64 → BitVec 64

/-- The predicted package power, in W, of a frequency level in 25 MHz units (R386, LOG 16). -/
opaque predictedPower : Nat → Nat → Nat

/-- The CRC-32 of a record in the flash (R404, LOG 9). -/
opaque crc32 : List Byte → BitVec 32

/-- What the fuses hold of a cluster's voltage at a frequency in 25 MHz units (R385, LOG 16). -/
opaque vclFuse : Nat → Nat → Nat

/-- The digest of an image (R350, R426): SHA-384, of which a field of 64 bits takes 64 (LOG 9). -/
opaque imageDigest : Image → BitVec 64

/-- Does `signature` over the image verify under public key `key` (R350, LOG 9)? -/
opaque imageSigned : Image → Nat → Bool

/-- Does signature `sig` of a management command over `msg` verify under key `key` (R430, R432, LOG 9)? -/
opaque signed : Nat → Nat → Nat → Bool

/-- The contents of SPDM answers, by request, argument and measured state (R425, R426, LOG 15). -/
opaque spdmAnswer : Nat → Nat → Nat → Nat

/-- A random challenge (R432, LOG 9). -/
opaque nonce : Nat → Nat

/-- The hub of a destination package that executes a stream's requests, by source, destination and flow (R256, LOG 23). -/
opaque dstHub : BitVec 15 → BitVec 15 → BitVec 12 → BitVec 2

/-- The flow of a request for which no map names one, by kind: 0 commit adds, 1 envelopes and receipt adds of a core
with no stream (R470, LOG 23). -/
opaque unitFlow : Nat → BitVec 12

/-- The CRC-16 of a courier frame, over its type, length and body (R275); the polynomial is not given (LOG 9). -/
opaque crc16 : BitVec 8 → BitVec 8 → BitVec 224 → BitVec 16

/-- The CRC-64 of a flit, over header bits [511:64] and its slots (R255); the polynomial is not given (LOG 9). -/
opaque crc64 : BitVec 448 → List (List Byte) → BitVec 64

/-- The AES-256-GCM key stream of a link (R282), by ECDH secret, link, key epoch, flits sent under the epoch, byte (LOG 9). -/
opaque gcmStream : BitVec 384 → Nat → BitVec 8 → Nat → Nat → Byte

/-- The AES-256-GCM tag (R282), by the same, then header bits [511:192] and the encrypted slots (LOG 9). -/
opaque gcmTag : BitVec 384 → Nat → BitVec 8 → Nat → BitVec 320 → List (List Byte) → BitVec 128

/-- The 8-bit lane-alignment pattern of a codeword (R254, LOG 89). -/
opaque alignPattern : BitVec 8

/-- Parity symbol `i` of an RS(544,514) codeword, as IEEE 802.3 generates it (R253, R254, LOG 89). -/
opaque rsParity : List (BitVec 10) → Nat → BitVec 10

end Sys2Proof.Config
end

