-- ==== Sys2Proof/Machine/Bits.lean ====
section
/-! DEFINITION. Sparse tables, bit fields, byte order, byte memory and postmark comparison: the helpers every meaning
is written with. -/

namespace Sys2Proof.Machine

/-! ### Sparse tables -/

/-- The value of key `i`; `d` where the table lists none. -/
def tget {α : Type} (d : α) : Tab α → Nat → α
  | [], _ => d
  | (k, v) :: t, i => if k = i then v else tget d t i

/-- Set key `i`; a value equal to the default `d` removes the entry, so equal tables are equal data. -/
def tput {α : Type} [DecidableEq α] (d : α) : Tab α → Nat → α → Tab α
  | [], i, x => if x = d then [] else [(i, x)]
  | (k, v) :: t, i, x =>
    if i < k then (if x = d then (k, v) :: t else (i, x) :: (k, v) :: t)
    else if i = k then (if x = d then t else (i, x) :: t)
    else (k, v) :: tput d t i x

/-- Set consecutive keys from `i`. -/
def tputs {α : Type} [DecidableEq α] (d : α) (t : Tab α) (i : Nat) : List α → Tab α
  | [] => t
  | x :: xs => tputs d (tput d t i x) (i + 1) xs

/-- Read `n` consecutive keys from `i`. -/
def tgets {α : Type} (d : α) (t : Tab α) (i n : Nat) : List α :=
  (List.range n).map (fun j => tget d t (i + j))

/-- Every listed key is above `lo`, keys rise strictly, and no entry holds the default. -/
def tabWfFrom {α : Type} [DecidableEq α] (d : α) : Option Nat → Tab α → Bool
  | _, [] => true
  | lo, (k, v) :: t => (match lo with | none => true | some l => decide (l < k)) && decide (v ≠ d) && tabWfFrom d (some k) t

/-- The canonical form of a table with default `d`. -/
def tabWf {α : Type} [DecidableEq α] (d : α) (t : Tab α) : Bool := tabWfFrom d none t

/-- The keys listed. -/
def tkeys {α : Type} (t : Tab α) : List Nat := t.map Prod.fst

/-- Apply `f` to every listed value, keeping the canonical form. -/
def tmap {α : Type} [DecidableEq α] (d : α) (f : Nat → α → α) (t : Tab α) : Tab α :=
  t.filterMap fun kv => let v := f kv.1 kv.2; if v = d then none else some (kv.1, v)

/-! ### Bit fields -/

/-- The field of width `n` whose lowest bit is `lo`. -/
def fld {w : Nat} (x : BitVec w) (lo n : Nat) : BitVec n := x.extractLsb' lo n

/-- Bit `i`. -/
def bit {w : Nat} (x : BitVec w) (i : Nat) : Bool := x.getLsbD i

/-- `x` with the field of width `n` at `lo` replaced by `v`. -/
def putFld {w n : Nat} (x : BitVec w) (lo : Nat) (v : BitVec n) : BitVec w :=
  (x &&& ~~~((BitVec.allOnes n).setWidth w <<< lo)) ||| (v.setWidth w <<< lo)

/-- `x` with bit `i` set to `b`. -/
def putBit {w : Nat} (x : BitVec w) (i : Nat) (b : Bool) : BitVec w := putFld x i (BitVec.ofBool b)

/-- Sign extension of a field to 64 bits. -/
def sext {n : Nat} (x : BitVec n) : BitVec 64 := x.signExtend 64

/-- A 1-bit number. -/
def b2n (b : Bool) : Nat := if b then 1 else 0

/-- Saturating increment of a counter (R415: where no rule states otherwise a counter saturates). -/
def satInc {w : Nat} (x : BitVec w) : BitVec w := if x = BitVec.allOnes w then x else x + 1

/-- Saturating addition of a counter. -/
def satAdd {w : Nat} (x : BitVec w) (n : Nat) : BitVec w :=
  if x.toNat + n < 2 ^ w then BitVec.ofNat w (x.toNat + n) else BitVec.allOnes w

/-! ### Bytes, little-endian (R3) -/

/-- The `n` low bytes of `x`, bits [7:0] first. -/
def leBytes {w : Nat} (n : Nat) (x : BitVec w) : List Byte := (List.range n).map (fun i => fld x (8 * i) 8)

/-- The number whose bytes are `l`, the lowest first. -/
def leNat : List Byte → Nat
  | [] => 0
  | b :: t => b.toNat + 256 * leNat t

/-- The word of width `w` whose bytes are `l`. -/
def leWord (w : Nat) (l : List Byte) : BitVec w := BitVec.ofNat w (leNat l)

/-- The byte at `a`; an unlisted byte reads 0. -/
def memByte (m : Tab Byte) (a : Nat) : Byte := tget 0 m a

/-- The `n` bytes from `a`. -/
def memRead (m : Tab Byte) (a n : Nat) : List Byte := tgets 0 m a n

/-- Write the bytes `l` from `a`. -/
def memWrite (m : Tab Byte) (a : Nat) (l : List Byte) : Tab Byte := tputs 0 m a l

/-- The 64-bit word at `a`. -/
def memWord (m : Tab Byte) (a : Nat) : BitVec 64 := leWord 64 (memRead m a 8)

/-! ### Postmarks (R25, R26) -/

/-- Postmark `a` is earlier than `b` (R26). -/
def pmLt (a b : Pm) : Bool := (b - a) != 0 && (b - a).toNat < 2 ^ 63

/-- The counter `now` has reached `t`: `now` is not earlier than `t`. -/
def pmReached (now t : Pm) : Bool := !pmLt now t

/-- The postmark of tick 0, sub-tick 0 of a beat (R25). -/
def pmOfBeat (b : BitVec 40) : Pm := b.setWidth 64 <<< 24

/-- The beat field of a postmark. -/
def pmBeat (p : Pm) : BitVec 40 := fld p 24 40

/-- `n` ticks after `p`. -/
def pmAddTicks (p : Pm) (n : Nat) : Pm := p + BitVec.ofNat 64 (n * 4096)

/-- Whole ticks from `a` to `b`. -/
def pmTicks (a b : Pm) : Nat := (b - a).toNat / 4096

/-- Beat `a` is later than beat `b`, in serial arithmetic modulo 2^40 (R351). -/
def beatLater (a b : BitVec 40) : Bool := (a - b) != 0 && (a - b).toNat < 2 ^ 39

end Sys2Proof.Machine
end

