-- ==== Sys2Proof/Machine/Codes.lean ====
section
/-! DEFINITION. The error codes (R469) and the event codes with their classes (R408). -/

namespace Sys2Proof.Machine

/-! ### Error codes (R469) -/

/-- E_OK. -/
def eOk : Err := 0x00
/-- E_RESERVED. -/
def eReserved : Err := 0x01
/-- E_RANGE. -/
def eRange : Err := 0x02
/-- E_ALIGN. -/
def eAlign : Err := 0x03
/-- E_FORMAT. -/
def eFormat : Err := 0x04
/-- E_MODE. -/
def eMode : Err := 0x05
/-- E_KEY. -/
def eKey : Err := 0x06
/-- E_STATE. -/
def eState : Err := 0x07
/-- E_BUSY. -/
def eBusy : Err := 0x08
/-- E_CAPACITY. -/
def eCapacity : Err := 0x09
/-- E_IMAGE. -/
def eImage : Err := 0x0A
/-- E_SHAPE. -/
def eShape : Err := 0x0B
/-- E_GUARANTEE. -/
def eGuarantee : Err := 0x0C
/-- E_RETIRED. -/
def eRetired : Err := 0x0D
/-- E_LINK_DOWN. -/
def eLinkDown : Err := 0x0E
/-- E_TIMEOUT. -/
def eTimeout : Err := 0x0F
/-- E_ACC_OVF. -/
def eAccOvf : Err := 0x10
/-- E_COLL_ORDER. -/
def eCollOrder : Err := 0x11
/-- E_LOCKED. -/
def eLocked : Err := 0x12
/-- E_INTERNAL. -/
def eInternal : Err := 0x13

/-! ### Event codes (R408) -/

/-- tb.mismatch, class A. -/
def evTbMismatch : BitVec 16 := 0x0100
/-- tb.dual_root, class A. -/
def evTbDualRoot : BitVec 16 := 0x0101
/-- tb.holdover, class A. -/
def evTbHoldover : BitVec 16 := 0x0102
/-- tb.lock, class L. -/
def evTbLock : BitVec 16 := 0x0103
/-- tb.lost, class A. -/
def evTbLost : BitVec 16 := 0x0104
/-- sched.slip, class L. -/
def evSchedSlip : BitVec 16 := 0x0200
/-- sched.stall, class A. -/
def evSchedStall : BitVec 16 := 0x0201
/-- sched.urgent, class L. -/
def evSchedUrgent : BitVec 16 := 0x0202
/-- adapt.dvfs, class L. -/
def evAdaptDvfs : BitVec 16 := 0x0300
/-- adapt.spare, class L. -/
def evAdaptSpare : BitVec 16 := 0x0301
/-- adapt.link_width, class L. -/
def evAdaptLinkWidth : BitVec 16 := 0x0302
/-- adapt.rekey, class L. -/
def evAdaptRekey : BitVec 16 := 0x0303
/-- adapt.loss_scale, class L. -/
def evAdaptLossScale : BitVec 16 := 0x0304
/-- adapt.calib, class L. -/
def evAdaptCalib : BitVec 16 := 0x0305
/-- adapt.checkpoint, class L. -/
def evAdaptCheckpoint : BitVec 16 := 0x0306
/-- adapt.denied, class L. -/
def evAdaptDenied : BitVec 16 := 0x0307
/-- adapt.pin_scale, class L. -/
def evAdaptPinScale : BitVec 16 := 0x0308
/-- core.fault, class A. -/
def evCoreFault : BitVec 16 := 0x0400
/-- mxa.acc_ovf, class L. -/
def evMxaAccOvf : BitVec 16 := 0x0401
/-- calib.misfit, class L. -/
def evCalibMisfit : BitVec 16 := 0x0402
/-- consign.returned, class A. -/
def evConsignReturned : BitVec 16 := 0x0500
/-- consign.busy, class A. -/
def evConsignBusy : BitVec 16 := 0x0501
/-- queue.wm_high, class L. -/
def evQueueWmHigh : BitVec 16 := 0x0502
/-- queue.wm_low, class L. -/
def evQueueWmLow : BitVec 16 := 0x0503
/-- edition.flip, class L. -/
def evEditionFlip : BitVec 16 := 0x0504
/-- edition.pool_empty, class A. -/
def evEditionPoolEmpty : BitVec 16 := 0x0505
/-- edition.full, class A. -/
def evEditionFull : BitVec 16 := 0x0506
/-- env.undeliverable, class A. -/
def evEnvUndeliverable : BitVec 16 := 0x0600
/-- rcpt.lost, class A. -/
def evRcptLost : BitVec 16 := 0x0601
/-- rcpt.refused, class A. -/
def evRcptRefused : BitVec 16 := 0x0602
/-- rcpt.wm, class L. -/
def evRcptWm : BitVec 16 := 0x0603
/-- update.fault, class A. -/
def evUpdateFault : BitVec 16 := 0x0700
/-- update.skipped, class L. -/
def evUpdateSkipped : BitVec 16 := 0x0701
/-- commit.done, class L. -/
def evCommitDone : BitVec 16 := 0x0702
/-- commit.rollback, class A. -/
def evCommitRollback : BitVec 16 := 0x0703
/-- mem.pc_retired, class A. -/
def evMemPcRetired : BitVec 16 := 0x0800
/-- mem.rekey_done, class L. -/
def evMemRekeyDone : BitVec 16 := 0x0801
/-- mem.guarantee_shortfall, class L. -/
def evMemGuaranteeShortfall : BitVec 16 := 0x0802
/-- mem.hbm_throttle, class L. -/
def evMemHbmThrottle : BitVec 16 := 0x0803
/-- hdi.replay, class L. -/
def evHdiReplay : BitVec 16 := 0x0900
/-- hdi.retrain, class L. -/
def evHdiRetrain : BitVec 16 := 0x0901
/-- hdi.port_retired, class A. -/
def evHdiPortRetired : BitVec 16 := 0x0902
/-- hdi.hub_split, class A. -/
def evHdiHubSplit : BitVec 16 := 0x0903
/-- hdi.reject, class A. -/
def evHdiReject : BitVec 16 := 0x0904
/-- hdi.guest, class L. -/
def evHdiGuest : BitVec 16 := 0x0905
/-- hdi.guest_err, class L. -/
def evHdiGuestErr : BitVec 16 := 0x0906
/-- link.up, class L. -/
def evLinkUp : BitVec 16 := 0x0A00
/-- link.miswire, class A. -/
def evLinkMiswire : BitVec 16 := 0x0A01
/-- link.pkt_bad, class A. -/
def evLinkPktBad : BitVec 16 := 0x0A02
/-- link.replay, class L. -/
def evLinkReplay : BitVec 16 := 0x0A03
/-- link.retrain, class L. -/
def evLinkRetrain : BitVec 16 := 0x0A04
/-- link.down, class A. -/
def evLinkDown : BitVec 16 := 0x0A05
/-- link.failover, class L. -/
def evLinkFailover : BitVec 16 := 0x0A06
/-- link.reroute, class L. -/
def evLinkReroute : BitVec 16 := 0x0A07
/-- link.misroute, class A. -/
def evLinkMisroute : BitVec 16 := 0x0A08
/-- link.courier_down, class A. -/
def evLinkCourierDown : BitVec 16 := 0x0A09
/-- link.auth_fail, class A. -/
def evLinkAuthFail : BitVec 16 := 0x0A0A
/-- coll.order, class A. -/
def evCollOrder : BitVec 16 := 0x0B00
/-- coll.fault, class A. -/
def evCollFault : BitVec 16 := 0x0B01
/-- coll.residue, class L. -/
def evCollResidue : BitVec 16 := 0x0B02
/-- coll.lane_retired, class A. -/
def evCollLaneRetired : BitVec 16 := 0x0B03
/-- coll.done, class L. -/
def evCollDone : BitVec 16 := 0x0B04
/-- sys.unplaced, class A. -/
def evSysUnplaced : BitVec 16 := 0x0C00
/-- ckpt.warning, class L. -/
def evCkptWarning : BitVec 16 := 0x0C01
/-- ckpt.skipped, class L. -/
def evCkptSkipped : BitVec 16 := 0x0C02
/-- ckpt.done, class L. -/
def evCkptDone : BitVec 16 := 0x0C03
/-- ckpt.fallback, class A. -/
def evCkptFallback : BitVec 16 := 0x0C04
/-- ckpt.restore_lossy, class A. -/
def evCkptRestoreLossy : BitVec 16 := 0x0C05
/-- ckpt.fault, class A. -/
def evCkptFault : BitVec 16 := 0x0C06
/-- ckpt.restore_fail, class A. -/
def evCkptRestoreFail : BitVec 16 := 0x0C07
/-- ckpt.restore_done, class L. -/
def evCkptRestoreDone : BitVec 16 := 0x0C08
/-- host.bar2_refused, class L. -/
def evHostBar2Refused : BitVec 16 := 0x0D00
/-- host.doorbell_bad, class L. -/
def evHostDoorbellBad : BitVec 16 := 0x0D01
/-- host.mb_fault, class A. -/
def evHostMbFault : BitVec 16 := 0x0D02
/-- host.cmd_timeout, class A. -/
def evHostCmdTimeout : BitVec 16 := 0x0D03
/-- host.load_changed, class A. -/
def evHostLoadChanged : BitVec 16 := 0x0D04
/-- ev.dropped, class L. -/
def evEvDropped : BitVec 16 := 0x0D05
/-- ctx.preempt, class L. -/
def evCtxPreempt : BitVec 16 := 0x0D06
/-- ctx.resume, class L. -/
def evCtxResume : BitVec 16 := 0x0D07
/-- ctx.discard, class L. -/
def evCtxDiscard : BitVec 16 := 0x0D08
/-- pwr.undervolt, class A. -/
def evPwrUndervolt : BitVec 16 := 0x0E00
/-- pwr.overvolt, class A. -/
def evPwrOvervolt : BitVec 16 := 0x0E01
/-- pwr.overcurrent, class A. -/
def evPwrOvercurrent : BitVec 16 := 0x0E02
/-- pwr.blade_lost, class A. -/
def evPwrBladeLost : BitVec 16 := 0x0E03
/-- pwr.rail_retired, class A. -/
def evPwrRailRetired : BitVec 16 := 0x0E04
/-- pwr.flow_lost, class A. -/
def evPwrFlowLost : BitVec 16 := 0x0E05
/-- pwr.halted, class A. -/
def evPwrHalted : BitVec 16 := 0x0E06
/-- pwr.throttle, class L. -/
def evPwrThrottle : BitVec 16 := 0x0E07
/-- fault.transient, class L. -/
def evFaultTransient : BitVec 16 := 0x0F00
/-- fault.retired, class A. -/
def evFaultRetired : BitVec 16 := 0x0F01
/-- repair.full, class A. -/
def evRepairFull : BitVec 16 := 0x0F02
/-- repair.write_fail, class A. -/
def evRepairWriteFail : BitVec 16 := 0x0F03
/-- trace.release, class T. -/
def evTraceRelease : BitVec 16 := 0x1000
/-- trace.consign, class T. -/
def evTraceConsign : BitVec 16 := 0x1001
/-- trace.envelope, class T. -/
def evTraceEnvelope : BitVec 16 := 0x1002
/-- trace.piece, class T. -/
def evTracePiece : BitVec 16 := 0x1003
/-- trace.xfer, class T. -/
def evTraceXfer : BitVec 16 := 0x1004

/-- The codes of class alarm. -/
def evAlarms : List (BitVec 16) :=
  [0x0100, 0x0101, 0x0102, 0x0104, 0x0201, 0x0400, 0x0500, 0x0501, 0x0505, 0x0506,
   0x0600, 0x0601, 0x0602, 0x0700, 0x0703, 0x0800, 0x0902, 0x0903, 0x0904, 0x0A01,
   0x0A02, 0x0A05, 0x0A08, 0x0A09, 0x0A0A, 0x0B00, 0x0B01, 0x0B03, 0x0C00, 0x0C04,
   0x0C05, 0x0C06, 0x0C07, 0x0D02, 0x0D03, 0x0D04, 0x0E00, 0x0E01, 0x0E02, 0x0E03,
   0x0E04, 0x0E05, 0x0E06, 0x0F01, 0x0F02, 0x0F03]

/-- The class of an event code: completion 0x0000, traces from 0x1000, alarms as listed, every other code a log. -/
def evClassOf (c : BitVec 16) : Nat :=
  if c = 0 then 0 else if c.toNat ≥ 0x1000 then 3 else if evAlarms.contains c then 1 else 2

end Sys2Proof.Machine
end

