-- ==== Sys2Proof/Machine/Layout.lean ====
section
/-! DEFINITION. The bit layouts of the spec's tables, words and registers: one accessor per field, `<prefix><Field>`.
`<prefix>Rsv` says that no reserved bit is set (R4). -/

namespace Sys2Proof.Machine

/-! #### Release entry (R37), 256 bits -/

def relOffset (x : BitVec 256) : BitVec 64 := fld x 192 64
def relAction (x : BitVec 256) : BitVec 8 := fld x 184 8
def relNoWait (x : BitVec 256) : Bool := bit x 183
def relReceipt (x : BitVec 256) : BitVec 14 := fld x 162 14
def relTarget (x : BitVec 256) : BitVec 32 := fld x 128 32
def relObject (x : BitVec 256) : BitVec 32 := fld x 96 32
def relArg (x : BitVec 256) : BitVec 64 := fld x 0 64
def relRsv (x : BitVec 256) : Bool := fld x 176 7 == 0 && fld x 160 2 == 0 && fld x 64 32 == 0

/-! #### Latitude block (R43), 256 bits -/

def latVersion (x : BitVec 256) : BitVec 8 := fld x 248 8
def latFMin (x : BitVec 256) : BitVec 8 := fld x 240 8
def latFMax (x : BitVec 256) : BitVec 8 := fld x 232 8
def latPMax (x : BitVec 256) : BitVec 16 := fld x 216 16
def latRekeyMin (x : BitVec 256) : BitVec 16 := fld x 200 16
def latLsMin (x : BitVec 256) : BitVec 8 := fld x 192 8
def latLsMax (x : BitVec 256) : BitVec 8 := fld x 184 8
def latLsGrowth (x : BitVec 256) : BitVec 16 := fld x 168 16
def latMaxReruns (x : BitVec 256) : BitVec 8 := fld x 160 8
def latCkptMin (x : BitVec 256) : BitVec 16 := fld x 144 16
def latHoldover (x : BitVec 256) : BitVec 24 := fld x 120 24
def latSlipTicks (x : BitVec 256) : BitVec 16 := fld x 104 16
def latStallBeats (x : BitVec 256) : BitVec 16 := fld x 88 16
def latSpareMax (x : BitVec 256) : BitVec 4 := fld x 84 4
def latMinLanes (x : BitVec 256) : BitVec 2 := fld x 82 2
def latMinRate (x : BitVec 256) : BitVec 2 := fld x 80 2
def latSpareCore (x : BitVec 256) : Bool := bit x 79
def latSpareCluster (x : BitVec 256) : Bool := bit x 78
def latRekeyLlm (x : BitVec 256) : Bool := bit x 77
def latRekeyHbm (x : BitVec 256) : Bool := bit x 76
def latCalib (x : BitVec 256) : Bool := bit x 75
def latCkptAuto (x : BitVec 256) : Bool := bit x 74
def latDvfsAuto (x : BitVec 256) : Bool := bit x 73
def latRsv (x : BitVec 256) : Bool := fld x 0 73 == 0

/-! #### Umbel table entry (R139), 256 bits -/

def umAddr (x : BitVec 256) : BitVec 16 := fld x 240 16
def umParent (x : BitVec 256) : BitVec 16 := fld x 224 16
def umKind (x : BitVec 256) : BitVec 2 := fld x 222 2
def umIsStage (x : BitVec 256) : Bool := bit x 221
def umStage (x : BitVec 256) : BitVec 10 := fld x 211 10
def umFirst (x : BitVec 256) : BitVec 17 := fld x 194 17
def umCount (x : BitVec 256) : BitVec 17 := fld x 177 17
def umRcptBase (x : BitVec 256) : BitVec 14 := fld x 163 14
def umRcptCount (x : BitVec 256) : BitVec 15 := fld x 148 15
def umFirstChild (x : BitVec 256) : BitVec 16 := fld x 132 16
def umChildCount (x : BitVec 256) : BitVec 16 := fld x 116 16
def umRelOff (x : BitVec 256) : BitVec 32 := fld x 84 32
def umRelCount (x : BitVec 256) : BitVec 17 := fld x 67 17
def umRsv (x : BitVec 256) : Bool := fld x 0 67 == 0

/-! #### Plan entry (R143), 256 bits -/

def plKind (x : BitVec 256) : BitVec 4 := fld x 252 4
def plEdSel (x : BitVec 256) : BitVec 2 := fld x 250 2
def plEdDrop (x : BitVec 256) : Bool := bit x 249
def plQuant (x : BitVec 256) : Bool := bit x 248
def plRemote (x : BitVec 256) : Bool := bit x 247
def plQueue (x : BitVec 256) : BitVec 12 := fld x 231 12
def plStage (x : BitVec 256) : BitVec 10 := fld x 221 10
def plMb (x : BitVec 256) : BitVec 8 := fld x 213 8
def plRcpt (x : BitVec 256) : BitVec 14 := fld x 199 14
def plDstPkg (x : BitVec 256) : BitVec 15 := fld x 184 15
def plLayer (x : BitVec 256) : BitVec 16 := fld x 168 16
def plSrc (x : BitVec 256) : BitVec 48 := fld x 120 48
def plDst (x : BitVec 256) : BitVec 48 := fld x 72 48
def plRows (x : BitVec 256) : BitVec 16 := fld x 56 16
def plRowBytes (x : BitVec 256) : BitVec 24 := fld x 32 24
def plSrcStride (x : BitVec 256) : BitVec 16 := fld x 16 16
def plDstStride (x : BitVec 256) : BitVec 16 := fld x 0 16
def plRsv (x : BitVec 256) : Bool := fld x 243 4 == 0

/-! #### Queue descriptor (R148), 256 bits -/

def qdQueue (x : BitVec 256) : BitVec 12 := fld x 244 12
def qdHub (x : BitVec 256) : BitVec 2 := fld x 242 2
def qdDepth (x : BitVec 256) : BitVec 8 := fld x 232 8
def qdParts (x : BitVec 256) : BitVec 8 := fld x 224 8
def qdWmHigh (x : BitVec 256) : BitVec 9 := fld x 215 9
def qdWmLow (x : BitVec 256) : BitVec 9 := fld x 206 9
def qdHiEn (x : BitVec 256) : Bool := bit x 205
def qdLoEn (x : BitVec 256) : Bool := bit x 204
def qdArrive (x : BitVec 256) : BitVec 14 := fld x 190 14
def qdFree (x : BitVec 256) : BitVec 14 := fld x 176 14
def qdBase (x : BitVec 256) : BitVec 48 := fld x 128 48
def qdSlotBytes (x : BitVec 256) : BitVec 24 := fld x 104 24
def qdProducer (x : BitVec 256) : BitVec 16 := fld x 88 16
def qdConsumer (x : BitVec 256) : BitVec 16 := fld x 72 16
def qdRsv (x : BitVec 256) : Bool := fld x 240 2 == 0 && fld x 0 72 == 0

/-! #### Budget entry (R142), 64 bits -/

def budStage (x : BitVec 64) : BitVec 10 := fld x 54 10
def budLo (x : BitVec 64) : BitVec 8 := fld x 46 8
def budHi (x : BitVec 64) : BitVec 8 := fld x 38 8
def budRsv (x : BitVec 64) : Bool := fld x 0 38 == 0

/-! #### Edition descriptor (R156), 256 bits -/

def edStage (x : BitVec 256) : BitVec 10 := fld x 246 10
def edMax (x : BitVec 256) : BitVec 4 := fld x 242 4
def edGranules (x : BitVec 256) : BitVec 24 := fld x 216 24
def edPool (x : BitVec 256) : BitVec 24 := fld x 192 24
def edBase (x : BitVec 256) : BitVec 48 := fld x 144 48
def edPoolBase (x : BitVec 256) : BitVec 48 := fld x 96 48
def edGtBase (x : BitVec 256) : BitVec 48 := fld x 48 48
def edRsv (x : BitVec 256) : Bool := fld x 240 2 == 0 && fld x 0 48 == 0

/-! #### Receipt descriptor (R177), 128 bits -/

def rdRcpt (x : BitVec 128) : BitVec 14 := fld x 114 14
def rdOpen (x : BitVec 128) : Bool := bit x 113
def rdWmEn (x : BitVec 128) : Bool := bit x 112
def rdStepAdv (x : BitVec 128) : BitVec 32 := fld x 80 32
def rdWm (x : BitVec 128) : BitVec 32 := fld x 48 32
def rdSubMask (x : BitVec 128) : BitVec 36 := fld x 0 36
def rdRsv (x : BitVec 128) : Bool := fld x 36 12 == 0

/-! #### Layer record header (R120), 256 bits -/

def lrVersion (x : BitVec 256) : BitVec 8 := fld x 248 8
def lrSrcFmt (x : BitVec 256) : BitVec 4 := fld x 244 4
def lrDstFmt (x : BitVec 256) : BitVec 4 := fld x 240 4
def lrHeadroom (x : BitVec 256) : BitVec 8 := fld x 232 8
def lrPinned (x : BitVec 256) : BitVec 5 := fld x 227 5
def lrInCh (x : BitVec 256) : BitVec 16 := fld x 208 16
def lrOutCh (x : BitVec 256) : BitVec 16 := fld x 192 16
def lrId (x : BitVec 256) : BitVec 16 := fld x 176 16
def lrHub (x : BitVec 256) : BitVec 2 := fld x 174 2
def lrFallback (x : BitVec 256) : BitVec 32 := fld x 128 32
def lrStats (x : BitVec 256) : BitVec 48 := fld x 80 48
def lrRsv (x : BitVec 256) : Bool := fld x 224 3 == 0 && fld x 160 14 == 0 && fld x 0 80 == 0

/-! #### Bounds entry (R121), 64 bits -/

def beLo (x : BitVec 64) : BitVec 16 := fld x 48 16
def beHi (x : BitVec 64) : BitVec 16 := fld x 32 16
def bePinned (x : BitVec 64) : Bool := bit x 31
def beRsv (x : BitVec 64) : Bool := fld x 0 31 == 0

/-! #### Rescale entry (R122), 64 bits -/

def reWScale (x : BitVec 64) : BitVec 32 := fld x 32 32
def reWsum (x : BitVec 64) : BitVec 32 := fld x 0 32

/-! #### Commit record (R199), 256 bits -/

def crVersion (x : BitVec 256) : BitVec 8 := fld x 248 8
def crCount (x : BitVec 256) : BitVec 6 := fld x 242 6
def crFirst (x : BitVec 256) : BitVec 6 := fld x 236 6
def crLag (x : BitVec 256) : BitVec 2 := fld x 234 2
def crVote (x : BitVec 256) : BitVec 14 := fld x 220 14
def crConfirm (x : BitVec 256) : BitVec 14 := fld x 206 14
def crAbort (x : BitVec 256) : BitVec 14 := fld x 192 14
def crReady (x : BitVec 256) : BitVec 14 := fld x 178 14
def crReadyTarget (x : BitVec 256) : BitVec 32 := fld x 146 32
def crVoteWin (x : BitVec 256) : BitVec 16 := fld x 130 16
def crConfirmWin (x : BitVec 256) : BitVec 16 := fld x 114 16
def crDoubtWin (x : BitVec 256) : BitVec 16 := fld x 98 16
def crStepRec (x : BitVec 256) : BitVec 48 := fld x 50 48
def crRsv (x : BitVec 256) : Bool := fld x 0 50 == 0

/-! #### Checkpoint record (R322), 256 bits -/

def ckVersion (x : BitVec 256) : BitVec 8 := fld x 248 8
def ckEvery (x : BitVec 256) : BitVec 8 := fld x 240 8
def ckBuddyGib (x : BitVec 256) : BitVec 6 := fld x 234 6
def ckBuddyBase (x : BitVec 256) : BitVec 48 := fld x 186 48
def ckStoreBase (x : BitVec 256) : BitVec 48 := fld x 138 48
def ckStoreGib (x : BitVec 256) : BitVec 6 := fld x 132 6
def ckDone (x : BitVec 256) : BitVec 14 := fld x 118 14
def ckFlow (x : BitVec 256) : BitVec 12 := fld x 106 12
def ckRate (x : BitVec 256) : BitVec 9 := fld x 97 9
def ckWarnColl (x : BitVec 256) : BitVec 32 := fld x 65 32
def ckRsv (x : BitVec 256) : Bool := fld x 0 65 == 0

/-! #### Generation header (R329), 512 bits -/

def ghVersion (x : BitVec 512) : BitVec 8 := fld x 504 8
def ghKind (x : BitVec 512) : BitVec 2 := fld x 502 2
def ghSealed (x : BitVec 512) : Bool := bit x 501
def ghStep (x : BitVec 512) : BitVec 64 := fld x 432 64
def ghRound (x : BitVec 512) : BitVec 32 := fld x 400 32
def ghDigest (x : BitVec 512) : BitVec 64 := fld x 336 64
def ghPlace (x : BitVec 512) : BitVec 36 := fld x 300 36
def ghBytes (x : BitVec 512) : BitVec 48 := fld x 252 48

/-! #### Update entry (R187), 512 bits -/

def ueTensor (x : BitVec 512) : BitVec 24 := fld x 488 24
def ueStage (x : BitVec 512) : BitVec 10 := fld x 478 10
def ueWFmt (x : BitVec 512) : BitVec 4 := fld x 474 4
def ueMomFp32 (x : BitVec 512) : Bool := bit x 473
def ueBlk (x : BitVec 512) : BitVec 3 := fld x 470 3
def ueProg (x : BitVec 512) : BitVec 6 := fld x 464 6
def ueHyper (x : BitVec 512) : BitVec 8 := fld x 456 8
def ueElems (x : BitVec 512) : BitVec 40 := fld x 416 40
def ueElemBase (x : BitVec 512) : BitVec 40 := fld x 376 40
def ueWGran (x : BitVec 512) : BitVec 24 := fld x 352 24
def ueMaGran (x : BitVec 512) : BitVec 24 := fld x 328 24
def ueM1Gran (x : BitVec 512) : BitVec 24 := fld x 304 24
def ueM2Gran (x : BitVec 512) : BitVec 24 := fld x 280 24
def ueGrad (x : BitVec 512) : BitVec 48 := fld x 232 48
def ueGo (x : BitVec 512) : BitVec 14 := fld x 218 14
def ueDone (x : BitVec 512) : BitVec 14 := fld x 204 14
def ueGoTarget (x : BitVec 512) : BitVec 32 := fld x 172 32
def ueRsv (x : BitVec 512) : Bool := fld x 0 172 == 0

/-! #### Update instruction (R189), 32 bits -/

def uiOp (x : BitVec 32) : BitVec 6 := fld x 26 6
def uiD (x : BitVec 32) : BitVec 4 := fld x 22 4
def uiA (x : BitVec 32) : BitVec 5 := fld x 17 5
def uiB (x : BitVec 32) : BitVec 5 := fld x 12 5
def uiC (x : BitVec 32) : BitVec 5 := fld x 7 5
def uiImm (x : BitVec 32) : BitVec 7 := fld x 0 7

/-! #### Flow table entry (R470), 128 bits -/

def flValid (x : BitVec 128) : Bool := bit x 127
def flCtxSrc (x : BitVec 128) : BitVec 2 := fld x 125 2
def flCtx (x : BitVec 128) : BitVec 6 := fld x 119 6
def flUmbel (x : BitVec 128) : BitVec 16 := fld x 103 16
def flAxis (x : BitVec 128) : BitVec 3 := fld x 100 3
def flNeg (x : BitVec 128) : BitVec 3 := fld x 97 3
def flTwin (x : BitVec 128) : Bool := bit x 96
def flWeight (x : BitVec 128) : BitVec 8 := fld x 88 8
def flVia03 (x : BitVec 128) : Bool := bit x 87
def flVia12 (x : BitVec 128) : Bool := bit x 86
def flRsv (x : BitVec 128) : Bool := fld x 0 86 == 0

/-! #### Region table entry (R225), 128 bits -/

def rgBase (x : BitVec 128) : BitVec 32 := fld x 96 32
def rgSize (x : BitVec 128) : BitVec 32 := fld x 64 32
def rgKey (x : BitVec 128) : BitVec 16 := fld x 48 16
def rgValid (x : BitVec 128) : Bool := bit x 47
def rgRd (x : BitVec 128) : Bool := bit x 46
def rgWr (x : BitVec 128) : Bool := bit x 45
def rgReloc (x : BitVec 128) : Bool := bit x 44
def rgHkey (x : BitVec 128) : BitVec 2 := fld x 42 2
def rgRsv (x : BitVec 128) : Bool := fld x 0 42 == 0

/-! #### Guarantee entry (R233), 128 bits -/

def guFlow (x : BitVec 128) : BitVec 12 := fld x 116 12
def guHub (x : BitVec 128) : BitVec 2 := fld x 114 2
def guLc (x : BitVec 128) : Bool := bit x 113
def guTarget (x : BitVec 128) : Bool := bit x 112
def guGbps (x : BitVec 128) : BitVec 16 := fld x 96 16
def guRsv (x : BitVec 128) : Bool := fld x 0 96 == 0

/-! #### Collective hub block (R288), 256 bits -/

def chHoldBase (x : BitVec 256) : BitVec 48 := fld x 0 48
def chHoldSlots (x : BitVec 256) : BitVec 16 := fld x 48 16
def chWheel (x : BitVec 256) : BitVec 64 := fld x 64 64
def chCount (x : BitVec 256) : BitVec 32 := fld x 128 32
def chRsv (x : BitVec 256) : Bool := fld x 160 96 == 0

/-! #### Collective entry (R289), 512 bits -/

def coId (x : BitVec 512) : BitVec 32 := fld x 480 32
def coKind (x : BitVec 512) : BitVec 2 := fld x 478 2
def coOp (x : BitVec 512) : BitVec 2 := fld x 476 2
def coInFmt (x : BitVec 512) : BitVec 4 := fld x 472 4
def coOutFmt (x : BitVec 512) : BitVec 4 := fld x 468 4
def coHub (x : BitVec 512) : BitVec 2 := fld x 466 2
def coOutHub (x : BitVec 512) : BitVec 2 := fld x 464 2
def coRingN (x : BitVec 512) : BitVec 17 := fld x 447 17
def coPos (x : BitVec 512) : BitVec 17 := fld x 430 17
def coRoot (x : BitVec 512) : BitVec 17 := fld x 413 17
def coNextPkg (x : BitVec 512) : BitVec 15 := fld x 398 15
def coNextHub (x : BitVec 512) : BitVec 2 := fld x 396 2
def coPrevPkg (x : BitVec 512) : BitVec 15 := fld x 381 15
def coPrevHub (x : BitVec 512) : BitVec 2 := fld x 379 2
def coFlow (x : BitVec 512) : BitVec 12 := fld x 367 12
def coElems (x : BitVec 512) : BitVec 40 := fld x 327 40
def coSrc (x : BitVec 512) : BitVec 48 := fld x 279 48
def coDst (x : BitVec 512) : BitVec 48 := fld x 231 48
def coDone (x : BitVec 512) : BitVec 14 := fld x 217 14
def coTimeout (x : BitVec 512) : BitVec 16 := fld x 201 16
def coRsv (x : BitVec 512) : Bool := fld x 0 201 == 0

/-! #### Piece header (R292), 384 bits -/

def phId (x : BitVec 384) : BitVec 32 := fld x 352 32
def phStart (x : BitVec 384) : BitVec 40 := fld x 312 40
def phPiece (x : BitVec 384) : BitVec 27 := fld x 285 27
def phPart (x : BitVec 384) : BitVec 5 := fld x 280 5
def phRound (x : BitVec 384) : Bool := bit x 279
def phOvf (x : BitVec 384) : Bool := bit x 278
def phAbort (x : BitVec 384) : Bool := bit x 277
def phCode (x : BitVec 384) : BitVec 8 := fld x 269 8
def phCount (x : BitVec 384) : BitVec 11 := fld x 258 11
def phRsv (x : BitVec 384) : Bool := fld x 0 258 == 0

/-! #### Envelope header (R163), 512 bits -/

def ehVersion (x : BitVec 512) : BitVec 8 := fld x 504 8
def ehKind (x : BitVec 512) : BitVec 2 := fld x 502 2
def ehHandler (x : BitVec 512) : BitVec 6 := fld x 496 6
def ehLen (x : BitVec 512) : BitVec 9 := fld x 487 9
def ehDstAdd (x : BitVec 512) : Bool := bit x 486
def ehSrcAdd (x : BitVec 512) : Bool := bit x 485
def ehTries (x : BitVec 512) : BitVec 4 := fld x 481 4
def ehDstPkg (x : BitVec 512) : BitVec 15 := fld x 466 15
def ehDstUmbel (x : BitVec 512) : BitVec 16 := fld x 450 16
def ehMember (x : BitVec 512) : BitVec 17 := fld x 433 17
def ehSrcPkg (x : BitVec 512) : BitVec 15 := fld x 418 15
def ehSrcCore (x : BitVec 512) : BitVec 17 := fld x 401 17
def ehDstRcpt (x : BitVec 512) : BitVec 14 := fld x 387 14
def ehSrcRcpt (x : BitVec 512) : BitVec 14 := fld x 373 14
def ehNack (x : BitVec 512) : BitVec 8 := fld x 365 8
def ehSeq (x : BitVec 512) : BitVec 16 := fld x 349 16
def ehPostmark (x : BitVec 512) : BitVec 64 := fld x 256 64
def ehArg3 (x : BitVec 512) : BitVec 64 := fld x 192 64
def ehArg2 (x : BitVec 512) : BitVec 64 := fld x 128 64
def ehArg1 (x : BitVec 512) : BitVec 64 := fld x 64 64
def ehArg0 (x : BitVec 512) : BitVec 64 := fld x 0 64
def ehRsv (x : BitVec 512) : Bool := fld x 320 29 == 0

/-! #### Envelope block header (R167), 128 bits -/

def ebInbox (x : BitVec 128) : BitVec 17 := fld x 111 17
def ebRetry (x : BitVec 128) : BitVec 16 := fld x 95 16
def ebMaxTries (x : BitVec 128) : BitVec 4 := fld x 91 4
def ebRsv (x : BitVec 128) : Bool := fld x 0 91 == 0

/-! #### Handler entry (R167), 16 bits -/

def heValid (x : BitVec 16) : Bool := bit x 15
def heMasked (x : BitVec 16) : Bool := bit x 14
def heEntry (x : BitVec 16) : BitVec 11 := fld x 0 11
def heRsv (x : BitVec 16) : Bool := fld x 11 3 == 0

/-! #### Packet header (R256), 128 bits -/

def pkPtype (x : BitVec 128) : BitVec 4 := fld x 124 4
def pkDstPkg (x : BitVec 128) : BitVec 15 := fld x 109 15
def pkSrcPkg (x : BitVec 128) : BitVec 15 := fld x 94 15
def pkDstHub (x : BitVec 128) : BitVec 2 := fld x 92 2
def pkSrcHub (x : BitVec 128) : BitVec 2 := fld x 90 2
def pkSeq (x : BitVec 128) : BitVec 16 := fld x 74 16
def pkAck (x : BitVec 128) : BitVec 16 := fld x 58 16
def pkUnits (x : BitVec 128) : BitVec 6 := fld x 52 6
def pkFlow (x : BitVec 128) : BitVec 12 := fld x 40 12
def pkWay (x : BitVec 128) : Bool := bit x 39
def pkHops (x : BitVec 128) : BitVec 8 := fld x 31 8
def pkStatus (x : BitVec 128) : BitVec 8 := fld x 23 8
def pkRsv (x : BitVec 128) : Bool := fld x 0 23 == 0

/-! #### Flit header (R255), 512 bits -/

def fhSeq (x : BitVec 512) : BitVec 16 := fld x 496 16
def fhAck (x : BitVec 512) : BitVec 16 := fld x 480 16
def fhNak (x : BitVec 512) : Bool := bit x 479
def fhKind (x : BitVec 512) : BitVec 2 := fld x 477 2
def fhVcMap (x : BitVec 512) : BitVec 21 := fld x 456 21
def fhSopMap (x : BitVec 512) : BitVec 7 := fld x 449 7
def fhReq0 (x : BitVec 512) : BitVec 8 := fld x 441 8
def fhReq1 (x : BitVec 512) : BitVec 8 := fld x 433 8
def fhRsp0 (x : BitVec 512) : BitVec 8 := fld x 425 8
def fhRsp1 (x : BitVec 512) : BitVec 8 := fld x 417 8
def fhKeyEpoch (x : BitVec 512) : BitVec 8 := fld x 409 8
def fhTag (x : BitVec 512) : BitVec 128 := fld x 64 128
def fhCrc (x : BitVec 512) : BitVec 64 := fld x 0 64
def fhRsv (x : BitVec 512) : Bool := fld x 192 217 == 0

/-! #### Capability block (R245), 256 bits -/

def cbVendor (x : BitVec 256) : BitVec 16 := fld x 240 16
def cbKind (x : BitVec 256) : BitVec 8 := fld x 232 8
def cbVersion (x : BitVec 256) : BitVec 8 := fld x 224 8
def cbPorts (x : BitVec 256) : BitVec 4 := fld x 220 4
def cbMaxRate (x : BitVec 256) : BitVec 4 := fld x 216 4
def cbRoleMap (x : BitVec 256) : Bool := bit x 215
def cbEnv (x : BitVec 256) : Bool := bit x 214
def cbRcpt (x : BitVec 256) : Bool := bit x 213
def cbMem (x : BitVec 256) : Bool := bit x 212
def cbEndpoints (x : BitVec 256) : BitVec 4 := fld x 208 4
def cbPower (x : BitVec 256) : BitVec 16 := fld x 192 16
def cbRev (x : BitVec 256) : BitVec 32 := fld x 160 32
def cbSerial (x : BitVec 256) : BitVec 32 := fld x 128 32
def cbMap (x : BitVec 256) : BitVec 128 := fld x 0 128

/-! #### Placement block (R310), 128 bits -/

def pbLenP (x : BitVec 128) : BitVec 6 := fld x 122 6
def pbLenD (x : BitVec 128) : BitVec 6 := fld x 116 6
def pbLenS (x : BitVec 128) : BitVec 6 := fld x 110 6
def pbP (x : BitVec 128) : BitVec 6 := fld x 104 6
def pbD (x : BitVec 128) : BitVec 6 := fld x 98 6
def pbS (x : BitVec 128) : BitVec 6 := fld x 92 6
def pbDigest (x : BitVec 128) : BitVec 64 := fld x 0 64
def pbRsv (x : BitVec 128) : Bool := fld x 64 28 == 0

/-! #### CTX.CFG (R366), 64 bits -/

def cfgValid (x : BitVec 64) : Bool := bit x 63
def cfgLc (x : BitVec 64) : Bool := bit x 62
def cfgPkgCtl (x : BitVec 64) : Bool := bit x 61
def cfgFtz (x : BitVec 64) : Bool := bit x 60
def cfgAudit (x : BitVec 64) : Bool := bit x 59
def cfgBound (x : BitVec 64) : Bool := bit x 58
def cfgUmbel (x : BitVec 64) : BitVec 16 := fld x 42 16
def cfgKey (x : BitVec 64) : BitVec 16 := fld x 26 16
def cfgRsv (x : BitVec 64) : Bool := fld x 0 26 == 0

/-! #### CTX.SAVE_CTL (R373), 64 bits -/

def svSize (x : BitVec 64) : BitVec 32 := fld x 32 32
def svHi (x : BitVec 64) : BitVec 8 := fld x 8 8
def svLo (x : BitVec 64) : BitVec 8 := fld x 0 8
def svRsv (x : BitVec 64) : Bool := fld x 16 16 == 0

/-! #### Descriptor header, bits [503:0] (R344), 504 bits -/

def dscVersion (x : BitVec 504) : BitVec 8 := fld x 496 8
def dscIrq (x : BitVec 504) : Bool := bit x 495
def dscTag (x : BitVec 504) : BitVec 32 := fld x 448 32
def dscRsv (x : BitVec 504) : Bool := fld x 480 15 == 0 && fld x 384 64 == 0

/-! #### MMA word (R60), 56 bits -/

def mmaFmtA (x : BitVec 56) : BitVec 4 := fld x 52 4
def mmaFmtB (x : BitVec 56) : BitVec 4 := fld x 48 4
def mmaZero (x : BitVec 56) : Bool := bit x 47
def mmaSat (x : BitVec 56) : Bool := bit x 46
def mmaSwap (x : BitVec 56) : Bool := bit x 45
def mmaQHalf (x : BitVec 56) : Bool := bit x 44
def mmaATile (x : BitVec 56) : BitVec 10 := fld x 34 10
def mmaBTile (x : BitVec 56) : BitVec 10 := fld x 24 10
def mmaSAddr (x : BitVec 56) : BitVec 13 := fld x 11 13
def mmaAShift (x : BitVec 56) : BitVec 3 := fld x 8 3
def mmaMxs (x : BitVec 56) : Bool := bit x 7
def mmaRsv (x : BitVec 56) : Bool := fld x 0 7 == 0

/-! #### MV word (R68), 56 bits -/

def mvFmtW (x : BitVec 56) : BitVec 4 := fld x 52 4
def mvFmtX (x : BitVec 56) : BitVec 4 := fld x 48 4
def mvZero (x : BitVec 56) : Bool := bit x 47
def mvMxs (x : BitVec 56) : Bool := bit x 46
def mvWTile (x : BitVec 56) : BitVec 10 := fld x 36 10
def mvRows (x : BitVec 56) : BitVec 8 := fld x 28 8
def mvSpans (x : BitVec 56) : BitVec 7 := fld x 21 7
def mvSAddr (x : BitVec 56) : BitVec 13 := fld x 8 13
def mvXOff (x : BitVec 56) : BitVec 7 := fld x 0 7
def mvRsv (x : BitVec 56) : Bool := fld x 7 1 == 0

/-! #### ACC.DRAIN word (R112), 56 bits -/

def drFmtOut (x : BitVec 56) : BitVec 4 := fld x 52 4
def drEpi (x : BitVec 56) : BitVec 2 := fld x 50 2
def drFmtE (x : BitVec 56) : BitVec 4 := fld x 46 4
def drSat (x : BitVec 56) : Bool := bit x 45
def drRsc (x : BitVec 56) : Bool := bit x 44
def drTagReg (x : BitVec 56) : BitVec 5 := fld x 39 5
def drDst (x : BitVec 56) : BitVec 17 := fld x 22 17
def drStride (x : BitVec 56) : BitVec 9 := fld x 13 9
def drEAddr (x : BitVec 56) : BitVec 13 := fld x 0 13

/-! #### XFER word (R221), 56 bits -/

def xfMop (x : BitVec 56) : BitVec 2 := fld x 54 2
def xfMtype (x : BitVec 56) : BitVec 2 := fld x 52 2
def xfSat (x : BitVec 56) : Bool := bit x 51
def xfIstore (x : BitVec 56) : Bool := bit x 50
def xfRa (x : BitVec 56) : BitVec 5 := fld x 45 5
def xfRs (x : BitVec 56) : BitVec 5 := fld x 40 5
def xfLen (x : BitVec 56) : BitVec 12 := fld x 28 12
def xfRcpt (x : BitVec 56) : BitVec 14 := fld x 14 14
def xfRadd (x : BitVec 56) : Bool := bit x 13
def xfRsv (x : BitVec 56) : Bool := fld x 0 13 == 0

/-! #### SCU word (R472), 56 bits -/

def scuRd (x : BitVec 56) : BitVec 5 := fld x 51 5
def scuRa (x : BitVec 56) : BitVec 5 := fld x 46 5
def scuRb (x : BitVec 56) : BitVec 5 := fld x 41 5
def scuImm32 (x : BitVec 56) : BitVec 32 := fld x 0 32
def scuImm41 (x : BitVec 56) : BitVec 41 := fld x 0 41
def scuTarget (x : BitVec 56) : BitVec 11 := fld x 0 11
def scuCount (x : BitVec 56) : BitVec 16 := fld x 11 16
def scuEnd (x : BitVec 56) : BitVec 11 := fld x 0 11
def scuOff (x : BitVec 56) : BitVec 17 := fld x 0 17
def scuMask (x : BitVec 56) : BitVec 4 := fld x 0 4
def scuRcpt (x : BitVec 56) : BitVec 14 := fld x 42 14
def scuRel (x : BitVec 56) : Bool := bit x 41
def scuTgt (x : BitVec 56) : BitVec 32 := fld x 0 32
def scuSlot (x : BitVec 56) : BitVec 4 := fld x 52 4
def scuRinc (x : BitVec 56) : BitVec 5 := fld x 37 5
def scuRpkg (x : BitVec 56) : BitVec 5 := fld x 32 5
def scuRemote (x : BitVec 56) : Bool := bit x 31
def scuRdst (x : BitVec 56) : BitVec 5 := fld x 37 5
def scuSet (x : BitVec 56) : Bool := bit x 0

/-! #### Repair record entry (R405), 128 bits -/

def rrKind (x : BitVec 128) : BitVec 8 := fld x 120 8
def rrLoc (x : BitVec 128) : BitVec 24 := fld x 96 24
def rrErr (x : BitVec 128) : BitVec 8 := fld x 88 8
def rrCleared (x : BitVec 128) : Bool := bit x 80
def rrPostmark (x : BitVec 128) : BitVec 64 := fld x 0 64

end Sys2Proof.Machine
end

