-- ==== Sys2Proof/Machine/State.lean ====
section
/-! DEFINITION. The state of the package as plain data, why a step can stop, and the state right after reset.
Each structure's docstring names the rules that give its fields; INVENTORY.md lists every field with its width and reset
value. -/

namespace Sys2Proof.Machine

/-- Why the machine stops with a fault. -/
inductive Fault where
  /-- Raised by every command that names a logical core whose `cluster` field is 160 to 255: such a core does not exist
  (R12). Safe: the machine stops where the hardware has nothing to act on. -/
  | noSuchCore (core : CoreId)
  deriving DecidableEq, Repr

/-- Why a command has no meaning. -/
inductive Refusal where
  /-- Raised only by a dispatch arm whose command has no meaning yet. Safe: nothing is claimed of that command. -/
  | notModelled (mnemonic : String)
  deriving DecidableEq, Repr

/-- The device states (R7). -/
inductive Dev where
  | off | standby | dormant | ready | haltedCoolant | failed
  deriving DecidableEq, Repr

/-- The schedule states (R357); the device state Running of R7 is `ready` with `sched` running or quiesced. -/
inductive Sched where
  | none | loaded | running | quiesced | stopped
  deriving DecidableEq, Repr

/-- The cause of a halt (R393). -/
inductive HaltCause where
  | coolant | tempDie | tempHbm
  deriving DecidableEq, Repr

/-- Record classes (R360). -/
inductive EvClass where
  | completion | alarm | log | trace
  deriving DecidableEq, Repr

/-- An event record (R360) before it is numbered by a ring. `pkg`: package-wide (R361); `irq`: a completion's `irq`. -/
structure Rec where
  pm     : Pm
  source : BitVec 32
  code   : BitVec 16
  cls    : EvClass
  ctx    : BitVec 6
  pkg    : Bool
  err    : Err
  count  : BitVec 16
  multi  : Bool
  body   : BitVec 352
  irq    : Bool
  deriving DecidableEq, Repr

/-- What the package sends outside, in order (the model's own list). -/
inductive Out where
  /-- A packet handed to another hub of this package over a hub-to-hub bundle (R286). -/
  | packet (hub : Fin 4) (hdr : BitVec 128) (what : BitVec 64) (data : List Byte)
  /-- A flit on link `l` (R255): header and payload slots. -/
  | flit (l : Fin 12) (hdr : BitVec 512) (slots : List (List Byte))
  /-- A codeword of link `l`'s flit stream (R254): each active lane's number and symbols. -/
  | symbols (l : Fin 12) (lanes : List (Nat × List (BitVec 10)))
  /-- What a training sends the peer of link `l` (R252): package address, link number, ID.PART, stepping. -/
  | train (l : Fin 12) (addr : BitVec 15) (link : BitVec 4) (part : BitVec 32) (stepping : BitVec 16)
  /-- A courier frame on lane `l` (R275, R276): type, length, body, CRC-16. -/
  | frame (l : Fin 12) (ctype len : BitVec 8) (body : BitVec 224) (crc : BitVec 16)
  /-- An interrupt vector of a PCIe port (R363, R364). -/
  | irq (port : Bool) (vector : Nat)
  /-- A management or SPDM answer (R425, R430): the request's name code, error and value. -/
  | answer (req : Nat) (err : Err) (value : Nat)
  /-- An HDI response to a guest (R249) or a negative acknowledgement. -/
  | guest (die : BitVec 5) (err : Err) (data : List Byte)
  /-- A receipt's count sent to a subscribed guest die on CTL (R248). -/
  | guestCount (die : BitVec 5) (r : BitVec 14) (n : BitVec 32)
  /-- A correction message and its pulse, to a guest of version 1.2 (R248). -/
  | guestPulse (die : BitVec 5) (pm : Pm)
  /-- A unit handed on at the far side of a bundle, in its channel's order (R241). -/
  | unit (bundle : Nat) (up : Bool) (u : HdiUnit)
  /-- BAR2 read data (R341). -/
  | bar2 (data : List Byte)
  /-- A message of the PLDM event queue that the management controller takes (R429): an alarm's record, or a sensor's event. -/
  | pldm (r : Option Rec) (id level value : Nat)
  /-- A configuration-ready indication of a PCIe function (R440). -/
  | ready (port : Bool)
  deriving DecidableEq, Repr

/-! ### Time -/

/-- The timebase's states (R31). -/
inductive TbState where
  | unlocked | acquiring | locked | holdover
  deriving DecidableEq, Repr

/-- The timebase block (R27 to R33, R466 to R468). `ahead`: the sub-ticks by which a follower is ahead of its upstream, which it
waits for (R31); `ppsDue`: when the once-per-second edge that places beat 0 comes (R27); `sentNs`, `probeNs`: when the last
timing frame and the last probe were sent (R28, R29). -/
structure Timebase where
  role        : BitVec 2
  beatPeriod  : BitVec 26
  upstream    : BitVec 4
  altUpstream : BitVec 4
  rootAddr    : BitVec 15
  delayPs     : BitVec 24
  source      : BitVec 4
  st          : TbState
  now         : Pm
  hasCount    : Bool
  acc         : Nat
  lastPulse   : Pm
  holdSince   : Pm
  probeT1     : Option Pm
  delays      : List Nat
  tbInOk      : Bool
  lost        : Bool
  ahead       : Nat
  ppsDue      : Option Nat
  sentNs      : Option Nat
  probeNs     : Option Nat
  deriving DecidableEq, Repr

/-- A clock domain's postmark counter (R32 to R34). `rate` is the rate value, sub-ticks in one cycle with 32 fraction bits,
and `frac` the fraction of a sub-tick that the counter holds; `clk` is the domain's clock in units of 12.5 MHz, `phase` the
eightieths of a cycle since its last edge; `loaded`: a correction message has reached it since it powered up (R34). -/
structure Ctr where
  pm     : Pm
  rate   : BitVec 64
  frac   : BitVec 32
  clk    : BitVec 7
  phase  : Nat
  paused : Bool
  on     : Bool
  loaded : Bool
  deriving DecidableEq, Repr

/-- The counters of the 6,203 domains beside the timebase's own (R32): those of the physical clusters by site and cluster, and
the others; a domain not listed holds its kind's default. -/
structure Clocks where
  cl       : Tab Ctr
  clDef    : Ctr
  other    : Tab Ctr
  otherDef : Ctr
  deriving DecidableEq, Repr

/-! ### Setup registers -/

/-- BAR0 setup registers that no other group holds. -/
structure Regs where
  lock        : Bool
  lockHit     : Bool
  lockWrites  : BitVec 16
  firstOff    : BitVec 25
  firstPort   : Bool
  bar2Base    : BitVec 32
  bar2Key     : BitVec 16
  bar2En      : Bool
  urgCount    : BitVec 16
  urgOrigin   : BitVec 15
  urgKind     : Bool
  urgAfter    : BitVec 3
  urgPm       : Pm
  stopSent    : BitVec 16
  stopsSeen   : List (BitVec 32)
  llmMode     : BitVec 32
  imbThresh   : BitVec 8
  imbEn       : Bool
  gcmEn       : BitVec 12
  traceShift  : BitVec 4
  fwdTraces   : Bool
  fwdLogs     : Bool
  fwdAlarms   : Bool
  traceEn     : Bool
  bar0Bad     : Nat
  bar2Refused : Nat
  urgBad      : Nat
  serial      : BitVec 64
  deriving DecidableEq, Repr

/-- SYS.PLACE (R305). -/
structure Place where
  set  : Bool
  addr : BitVec 15
  lenS : BitVec 6
  lenD : BitVec 6
  lenP : BitVec 6
  s    : BitVec 6
  d    : BitVec 6
  p    : BitVec 6
  deriving DecidableEq, Repr

/-- The capability registers (R462). -/
structure Caps where
  cores   : BitVec 17
  dies    : BitVec 6
  guests  : BitVec 6
  hbmLive : BitVec 4
  llmLive : BitVec 32
  dieMap  : Tab (BitVec 8)
  guest   : BitVec 32
  hdi     : Tab (BitVec 4)
  deriving DecidableEq, Repr

/-- What Shordo is doing (R440 to R442): held in reset or without power, at stage 2, at stage 2 on the way to a start-up that
STATE asked for (R431), at the end of stage 2 with a start-up to follow (R441), or serving. -/
inductive ShordoSt where
  | down | boot | bootAsked | fresh | up
  deriving DecidableEq, Repr

/-- SYS.START (R449), with the nanoseconds at which stage 3 and the stage in progress began, and what Shordo is doing. -/
structure Start where
  failCause : BitVec 8
  failStage : BitVec 4
  stage     : BitVec 4
  done      : Bool
  autoOn    : Bool
  elapsedMs : BitVec 20
  startNs   : Nat
  stageNs   : Nat
  retMode   : Bool
  shordo    : ShordoSt
  deriving DecidableEq, Repr

/-- SEC.STATUS (R433). -/
structure Sec where
  svnFused   : BitVec 8
  svnFw      : BitVec 8
  peerMinSvn : BitVec 8
  keySlot    : BitVec 2
  revoked    : BitVec 4
  slot       : Bool
  debug      : Bool
  boot       : BitVec 2
  fwVersion  : BitVec 30
  deriving DecidableEq, Repr

/-! ### Contexts, rings, records -/

/-- A context table entry (R365, R366, R373, R98) and the binding in force since MB_START (R367). -/
structure Ctx where
  cfg      : BitVec 64
  saveBase : BitVec 64
  saveCtl  : BitVec 64
  flags    : BitVec 8
  waitTotal : BitVec 64
  waitCount : BitVec 64
  preemptCount : BitVec 64
  preemptLost  : BitVec 64
  waitHist : Tab (BitVec 32)
  boundNow : Bool
  umbelNow : BitVec 16
  deriving DecidableEq, Repr

/-- A doorbell page (R342) and the delivery state of its ring (R362, R363). -/
structure Door where
  mbBase : BitVec 64
  mbEn   : Bool
  mbPort : Bool
  mbBusy : Bool
  mbSize : BitVec 5
  mbTail : BitVec 32
  mbHead : BitVec 32
  mbStop : Bool
  mbMute : Bool
  evBase : BitVec 64
  evEn   : Bool
  evPort : Bool
  pkgEv  : Bool
  irqEn  : Bool
  alarms : Bool
  logs   : Bool
  traces : Bool
  irqGap : BitVec 8
  evSize : BitVec 5
  evHead : BitVec 32
  evTail : BitVec 32
  dropTraces : BitVec 32
  dropLogs   : BitVec 32
  newTraces  : Nat
  newLogs    : Nat
  owed   : List Rec
  lastIrq : Option Nat
  irqWait : Bool
  deriving DecidableEq, Repr

/-- An alarm in the shared store (R362): the rings it is owed to and those that have taken it. -/
structure HeldAlarm where
  record : Rec
  owed  : List (Fin 64)
  took  : List (Fin 64)
  deriving DecidableEq, Repr

/-- What a long command locks (R345). -/
inductive Lock where
  | package
  | ranges (l : List (Nat × Nat))
  | links (mask : BitVec 12)
  deriving DecidableEq, Repr

/-- A long command in progress (R345). -/
inductive LongCmd where
  | copy (dir : BitVec 2) (src dst : Addr) (host : BitVec 64) (len : Nat)
  | load (len : Nat) (img again : Image)
  | link (action : BitVec 2) (mask : BitVec 12)
  | restore (buddy : Bool) (cut : BitVec 64) (g : Option BuddyData)
  | toState (dormant : Bool)
  deriving DecidableEq, Repr

/-- A long command with the mailbag it came from. -/
structure Long where
  ctx   : Fin 64
  tag   : BitVec 32
  irq   : Bool
  index : BitVec 32
  op    : BitVec 8
  lock  : Lock
  cmd   : LongCmd
  began : Nat
  deriving DecidableEq, Repr

/-- An alarm record on its way upstream (R276, R411): its sequence number, the lane it went by and when; kept until the peer
acknowledges it. -/
structure SentAlarm where
  record : Rec
  seq    : BitVec 15
  lane   : Nat
  ns     : Nat
  deriving DecidableEq, Repr

/-- A message of Shordo's PLDM event queue (R429): an alarm, as its record, or a temperature sensor that has crossed a threshold. -/
inductive PldmMsg where
  | alarm (r : Rec)
  | sensor (id level value : Nat)
  deriving DecidableEq, Repr

/-- The record paths (R362, R411 to R414, R429). -/
structure Paths where
  posted     : List Rec
  alarmStore : List HeldAlarm
  fwdStore   : List Rec
  sentAlarms : List SentAlarm
  courierQ   : Tab (List Rec)
  courierDrop : Tab Nat
  shordoLog  : List Rec
  pldmQ      : List PldmMsg
  traceCount : Tab Nat
  recSeq     : BitVec 15
  longs      : List Long
  lastCtx    : Nat
  deriving DecidableEq, Repr

/-! ### Cores -/

/-- What a core's SCU is doing (R51, R56, R372, R403). -/
inductive Phase where
  | idle | running | draining | faulted | retired
  deriving DecidableEq, Repr

/-- What holds a core's issue (R53, R54, R178). -/
inductive Hold where
  | none
  | fence (mask : BitVec 4)
  | pm (target : Pm)
  | rcpt (r : BitVec 14) (target : BitVec 32)
  deriving DecidableEq, Repr

/-- The mode a stream was started in (R117). -/
inductive StreamMode where
  | service | selfTest | verify
  deriving DecidableEq, Repr

/-- A core's current stream (R51, R106, R371). -/
structure Stream where
  umbel : BitVec 16
  owner : BitVec 6
  audit : Bool
  mode  : StreamMode
  step  : BitVec 40
  deriving DecidableEq, Repr

/-- An entry of the start queue (R51). -/
structure StartEnt where
  addr   : BitVec 11
  stream : Stream
  fired  : Pm
  deriving DecidableEq, Repr

/-- A hardware loop (R472): the word after LOOP, the last word, iterations left. -/
structure LoopEnt where
  first : BitVec 12
  last  : BitVec 12
  left  : BitVec 16
  deriving DecidableEq, Repr

/-- A handler in progress (R172, R173): the recorded instruction, its hold, and what HRET adds. -/
structure Handler where
  pc     : BitVec 12
  hold   : Hold
  wasIdle : Bool
  dstAdd : Bool
  dst    : BitVec 14
  deriving DecidableEq, Repr

/-- An entry of the MXA queue in program order: an MMA with its captured operand tiles, or a requested swap (R67). -/
inductive MxaOp where
  | mma (seq : Nat) (pc : BitVec 12) (w : W56) (audit : Bool) (a b : List Byte) (sc : List Byte) (escA escB : List Nat)
  | swap (seq : Nat)
  deriving DecidableEq, Repr

/-- An entry of the drain queue (R112): program-order number, word, and s29 as read at issue (R137). -/
structure DrainEnt where
  seq : Nat
  w   : W56
  s29 : BitVec 64
  deriving DecidableEq, Repr

/-- A drain in progress (R114 to R116): the set, tag, epilogue tile and rescale block as read. -/
structure DrainJob where
  w    : W56
  set  : List (BitVec 64)
  tag  : BitVec 8
  epi  : List Byte
  blk  : List Byte
  deriving DecidableEq, Repr

/-- The previous MMA of the core (R63) -/
structure PrevMma where
  fmtA : BitVec 4
  mxs  : Bool
  deriving DecidableEq, Repr

/-- The first half of a Q4X pair (R65) with the escapes each group has used. -/
structure HalfPair where
  sAddr : BitVec 13
  fmtA  : BitVec 4
  fmtB  : BitVec 4
  escA  : List Nat
  escB  : List Nat
  deriving DecidableEq, Repr

/-- An outstanding XFER (R221), of the word at `pc`; `sent`: its memory-side operations have left with their operands. -/
structure Xfer where
  pc    : BitVec 12
  out   : Bool
  mop   : BitVec 2
  mtype : BitVec 2
  sat   : Bool
  istore : Bool
  addr  : Addr
  loc   : BitVec 64
  len   : Nat
  rcpt  : BitVec 14
  radd  : Bool
  sent  : Bool
  deriving DecidableEq, Repr

/-- An outbox entry (R165, R171). -/
structure OutEnt where
  addr  : BitVec 64
  tries : Nat
  first : Pm
  retry : Option Pm
  deriving DecidableEq, Repr

/-- An accepted envelope (R168). -/
structure Envelope where
  hdr     : BitVec 512
  payload : List Byte
  at_     : Pm
  deriving DecidableEq, Repr

/-- A core (R49). Its scratchpad and instruction store are bytes of `State.mem` (R210). `halted`: it has executed HALT since it last
took a start (R51, R172). -/
structure Core where
  phase   : Phase
  pc      : BitVec 12
  s       : Tab (BitVec 64)
  hold    : Hold
  loops   : List LoopEnt
  handler : Option Handler
  stream  : Option Stream
  startQ  : List StartEnt
  halted  : Bool
  mxaQ    : List MxaOp
  drainQ  : List DrainEnt
  drain   : List DrainJob
  seq     : Nat
  acc     : Tab (BitVec 64)
  tag0    : BitVec 8
  tag1    : BitVec 8
  active  : Bool
  latch   : Tab Byte
  latchSc : Tab Byte
  prev    : Option PrevMma
  half    : Option HalfPair
  v       : Tab (BitVec 32)
  xbuf    : Tab Byte
  xsc     : Tab Byte
  ybuf    : Tab (BitVec 64)
  ytag    : BitVec 8
  deriving DecidableEq, Repr

/-- The fabric side of a core (R165, R167, R168, R175, R221, R399, R416). -/
structure Port where
  xfers   : List Xfer
  outbox  : Tab (Option OutEnt)
  slots   : Tab (Option (BitVec 64))
  pillar  : List Envelope
  blk     : EnvBlock
  bankStall : Tab (BitVec 32)
  envSent : BitVec 48
  envAccepted : BitVec 48
  envRetries  : BitVec 48
  dlReceived  : BitVec 48
  dlIssued    : BitVec 48
  corrected   : Nat
  transient   : Nat
  deriving DecidableEq, Repr

/-- The phases of an eviction (R372, R374). -/
inductive EvictPhase where
  | draining | saved | handedOver | restoring
  deriving DecidableEq, Repr

/-- An evicted umbel (R371 to R378): the saved cores and scratchpad bytes stand for its save blocks. `starts`: the LC
starts that wait for its cores; `again`: those that fired while its restore was in progress. -/
structure Evict where
  umbel   : BitVec 16
  owner   : BitVec 6
  by_     : BitVec 16
  byOwner : BitVec 6
  phase   : EvictPhase
  at_     : Pm
  atNs    : Nat
  drainNs : Nat
  starts  : List StartEnt
  again   : List StartEnt
  cores   : Tab Core
  ports   : Tab Port
  bytes   : Tab Byte
  deriving DecidableEq, Repr

/-! ### Schedule -/

/-- A release table's position and counters (R40, R41). `stalled`: how many of the entries that wait, from the next one on, have
posted sched.stall. -/
structure Rel where
  idx     : Nat
  step    : BitVec 40
  stalled : Nat
  slipCount : BitVec 32
  slipTicks : BitVec 48
  slipMax   : BitVec 24
  deriving DecidableEq, Repr

/-- A re-key request of a hub's group (R228). -/
structure RekeyReq where
  hub   : Fin 4
  hbm   : Bool
  ratio : BitVec 32
  deriving DecidableEq, Repr

/-- The receipt units (R176 to R184). `adds` are (receipt, increment, source id) on their way; `sends` are
(subscriber, receipt, count) on their way. -/
structure Rcpts where
  count  : Tab (BitVec 32)
  sticky : Tab Bool
  wmCount : Tab (BitVec 16)
  copy   : Tab (BitVec 32)
  adds   : List (BitVec 14 × BitVec 32 × BitVec 32)
  sends  : List (Fin 36 × BitVec 14 × BitVec 32)
  deriving DecidableEq, Repr

/-! ### Consignments, queues, editions, layers -/

/-- The states of a consignment (R145). -/
inductive ConsSt where
  | idle | booked | inTransit | delivered | collected | returned
  deriving DecidableEq, Repr

/-- A consignment (R146, R147, R157): `again` is the postmark, umbel and step of a firing that set the rebook flag, `umbel` and
`step` those of the release, `ed` the edition resolved; `waited`: its wait has been counted (R151); `sent`: a remote POST's bytes
have set out. -/
structure Cons where
  st     : ConsSt
  again  : Option (Pm × BitVec 16 × BitVec 40)
  fired  : Pm
  umbel  : BitVec 16
  step   : BitVec 40
  err    : Err
  bytes  : Nat
  ed     : BitVec 3
  waited : Bool
  sent   : Bool
  deriving DecidableEq, Repr

/-- A queue's watermark status word and counters (R151, R154); `away`: the remote POSTs, by package and consignment, whose wait has
been counted. -/
structure Queue where
  hiSticky : Bool
  loSticky : Bool
  hiCount  : BitVec 16
  loCount  : BitVec 16
  hiPeak   : BitVec 9
  loTrough : BitVec 9
  occ      : BitVec 9
  posts    : BitVec 48
  collects : BitVec 48
  fullWaits  : BitVec 48
  emptyWaits : BitVec 48
  away       : List (BitVec 15 × BitVec 20)
  deriving DecidableEq, Repr

/-- A layer record's run-time state (R121, R132, R133, R136). Bounds entries that differ from the image's are listed. -/
structure LayerSt where
  bounds  : Tab (BitVec 32)
  pendB   : Tab (BitVec 32)
  pendStep : BitVec 40
  hitPins : List Nat
  qTensors : BitVec 32
  escapes  : BitVec 48
  misfits  : BitVec 48
  pinSat   : BitVec 48
  reruns   : BitVec 32
  denied   : BitVec 32
  pinAdapts : BitVec 32
  deriving DecidableEq, Repr

/-! ### Update engines and commit -/

/-- A block register of the update engine (R192): unused, a sum pair, or a maximum. -/
inductive BlkReg where
  | unused | sum (a c : BitVec 32) | max (v : BitVec 32)
  deriving DecidableEq, Repr

/-- A hub's update engine (R188 to R193). `step`: the step whose entries it runs; `done`: the hub's entries it has finished
in that step; `exp`: the loss-scale exponent in force as the entry started, that of its step (R189, R197); `wbuf`: FP32 values stored
to an E4M3 working array with their random words, by the ST's word and the element's place, until their block is whole. -/
structure UpdEng where
  busy   : Bool
  step   : BitVec 40
  exp    : BitVec 8
  wbuf   : Tab (BitVec 32 × Option (BitVec 32))
  entry  : Nat
  done   : Nat
  elem   : Nat
  pcw    : Nat
  pass2  : Bool
  ended  : Bool
  e      : Tab (BitVec 32)
  b0     : BlkReg
  b1     : BlkReg
  faulted : List Nat
  deriving DecidableEq, Repr

/-- A member's place in the round that is open (R202, R203). -/
inductive RoundPhase where
  | closed | open_ | voted | confirmed | doubt
  deriving DecidableEq, Repr

/-- The commit unit (R199 to R204) and the loss scale (R197). -/
structure Commit where
  closed    : BitVec 32
  phase     : RoundPhase
  step      : BitVec 40
  pc        : Pm
  waiting   : Option (Pm × BitVec 40)
  votes     : BitVec 64
  confirms  : BitVec 64
  answers   : BitVec 64
  outcomes  : Tab RoundOutcome
  stale     : Tab Nat
  settledExp : BitVec 8
  forceExp   : BitVec 8
  lsClean    : BitVec 32
  lastFlag   : Bool
  deriving DecidableEq, Repr

/-- A checkpoint generation (R325 to R329): its header, the boundary block with the granule tables of the pinned editions,
the carried slots by address, and the pinned editions. -/
structure Gen where
  hdr    : BitVec 512
  sealed_ : Bool
  step   : BitVec 40
  block  : Boundary
  settledExp : BitVec 8
  lsClean : BitVec 32
  round  : BitVec 32
  stats  : Tab StatHalf
  stages : Tab Stage
  layers : Tab LayerSt
  tables : List (Nat × List Byte)
  carried : List (Nat × List Byte)
  pins   : List (Nat × Nat)
  began  : Nat
  deriving DecidableEq, Repr

/-- The checkpoint unit (R320 to R333). `heldBits`: (slot, boundary bit) clears that a local write holds back (R325).
`warnRow`: the row of R320 of the latest failure warning. `invalid`: a restore has failed, and none has succeeded since (R332). -/
structure Ckpt where
  older   : Option Gen
  newer   : Option Gen
  writing : Bool
  localDone : Bool
  nextBase  : Bool
  heldBits  : List (Nat × Nat)
  warnSeen  : Bool
  warnRow   : BitVec 8
  lastWarnNs : Option Nat
  invalid   : Bool
  deriving DecidableEq, Repr

/-! ### Collectives -/

/-- The states of a collective at an office (R297). -/
inductive CollSt where
  | listed | armed | active | finished | failed
  deriving DecidableEq, Repr

/-- A collective at its station (R289, R297). `host`: the context to notify of a host-submitted one. -/
structure Coll where
  entry  : BitVec 512
  start  : BitVec 40
  st     : CollSt
  isHost : Bool
  notify : Option (Fin 64)
  reduced : Nat
  bcast   : Nat
  part    : Nat
  bpart   : Nat
  ovf     : Bool
  deriving DecidableEq, Repr

/-- A piece packet held poste restante (R298). -/
structure HeldPiece where
  ph   : BitVec 384
  data : List Byte
  deriving DecidableEq, Repr

/-- A hub's sorting office (R283, R297 to R302). -/
structure Office where
  colls  : List Coll
  held   : List HeldPiece
  collDone   : BitVec 48
  collFailed : BitVec 48
  piecesHeld : BitVec 48
  holdRefused : BitVec 48
  pieceStale  : BitVec 48
  residueRetries : BitVec 48
  lanesLive : BitVec 6
  wheel : BitVec 64
  deriving DecidableEq, Repr

/-! ### Torus and HDI -/

/-- The states of a link (R263, R464). -/
inductive LinkSt where
  | down | training | up | replaying | retraining | changing
  deriving DecidableEq, Repr

/-- A flit as it was sent (R255, R262), and the packets whose last unit it carries, each with its dateline class. -/
structure SentFlit where
  hdr   : BitVec 512
  slots : List (List Byte)
  pkts  : List (Bool × Packet)
  deriving DecidableEq, Repr

/-- A courier lane beside the state that R464 reports (R275, R276, R278, R411): `ready` the frames that wait for a slot, `nextSlot` when
the next slot begins, `sinceAlarm` the slots since an alarm's; `parts` of the record that arrives, by frame type; `lost`, and
`retried` once a retrain has followed. -/
structure Lane where
  ready      : List (BitVec 8 × BitVec 224)
  nextSlot   : Nat
  sinceAlarm : Nat
  parts      : Tab (BitVec 30 × List (Nat × BitVec 192))
  lost       : Bool
  retried    : Bool
  deriving DecidableEq, Repr

/-- A torus link with its courier lane (R251 to R268, R464). `replay` holds the flits sent and not yet acknowledged, `waiting`
the packets that wait for a stamp, for room in the replay buffer or for the link's pause to end, each packet with its
dateline class, `part` the units of each pool's oldest one that have gone; `stamps` are those of the pools REQ 0, REQ 1, RSP 0,
RSP 1. Of the receiver's pools, `rxPart` holds the packets that are arriving, `pool` the whole ones, `owed` the stamps to return.
`tell`: an acknowledgement or `nak` has not been told yet; `ackNs`, `stNs`: since when the oldest flit, the state, runs; `secret`
of the ECDH exchange (R281); `txBuf`, `txCount`: the bytes of the next codeword, and its count (R254). -/
structure Link where
  st       : LinkSt
  lanes    : BitVec 2
  rate     : BitVec 2
  gcm      : Bool
  courier  : Bool
  keyEpoch : BitVec 8
  downCause : BitVec 4
  peerAddr : BitVec 15
  peerLink : BitVec 4
  live     : BitVec 8
  n        : Nat
  retrained : Bool
  flSeq    : BitVec 16
  ackSeq   : BitVec 16
  rxSeq    : BitVec 16
  nak      : Bool
  tell     : Bool
  replay   : List SentFlit
  ackNs    : Nat
  waiting  : List (Bool × Packet)
  part     : Tab Nat
  stamps   : Tab Nat
  rxPart   : Tab (List (List Byte))
  pool     : List (Bool × Packet)
  owed     : Tab Nat
  epochFlits : Nat
  secret   : BitVec 384
  txBuf    : List Byte
  txCount  : BitVec 12
  stNs     : Nat
  wanted   : Option (BitVec 2 × BitVec 2)
  crossed  : Bool
  dormHeld : Option (BitVec 2 × BitVec 2)
  waitPeer : Bool
  authHeld : Bool
  failedOver : Bool
  lastTiming : Nat
  lane     : Lane
  deriving DecidableEq, Repr

/-- A link's counters (R264, R416). -/
structure LinkCtr where
  fecCorr   : BitVec 48
  fecUncorr : BitVec 48
  replays   : BitVec 48
  flitsTx   : BitVec 48
  flitsRx   : BitVec 48
  gcmFail   : BitVec 48
  retrains  : BitVec 32
  pktBad    : BitVec 32
  transient : BitVec 32
  courierTransient : BitVec 32
  deriving DecidableEq, Repr

/-- What a retained request will complete (R273). -/
inductive ReqFor where
  | write (cons : BitVec 20)
  | envelope (core : CoreId) (ent : Fin 16)
  | rcptAdd (core : CoreId) (rcpt : BitVec 14)
  | commit (what : Nat) (round : BitVec 32)
  | piece (id : BitVec 32)
  | ckpt
  | none
  deriving DecidableEq, Repr

/-- A retained request (R273): `busy` while it waits to be resent (R271), `unsent` while its stream or its hub is full (R270). -/
structure Req where
  dstPkg : BitVec 15
  dstHub : BitVec 2
  seq    : BitVec 16
  hdr    : BitVec 128
  data   : List Byte
  for_   : ReqFor
  sentNs : Nat
  busy   : Bool
  unsent : Bool
  deriving DecidableEq, Repr

/-- An outgoing stream (R270, R272): the next sequence number, the highest sequence for which every response is held, the
one last told to the destination, and when the first of the two last rose. -/
structure OutStream where
  dstPkg : BitVec 15
  dstHub : BitVec 2
  next   : BitVec 16
  ack    : BitVec 16
  told   : BitVec 16
  ackNs  : Nat
  deriving DecidableEq, Repr

/-- A stream window (R271, R272): L, the executed requests with their retained responses (`none`: the response is still to
come), the held requests with what the adder lanes will meet in them. -/
structure Window where
  srcPkg : BitVec 15
  srcHub : BitVec 2
  low    : BitVec 16
  done   : List (BitVec 16 × Option (Err × List Byte))
  held   : List (Packet × PieceMet)
  lastNs : Nat
  deriving DecidableEq, Repr

/-- A hub's end-to-end layer (R270 to R273, R416). -/
structure E2e where
  outs  : List OutStream
  reqs  : List Req
  wins  : List Window
  dupReq : BitVec 48
  dupRsp : BitVec 48
  deriving DecidableEq, Repr

/-- One value for each channel of a port (R240). -/
structure Chans (α : Type) where
  ctl : α
  rsp : α
  req : α
  deriving DecidableEq, Repr

/-- A frame as its sender keeps it for a replay (R238, R242): the bundle sequence number of its first unit, and its units. -/
structure HdiFrame where
  seq   : BitVec 16
  units : List HdiUnit
  deriving DecidableEq, Repr

/-- One direction of an HDI port (R238 to R242). At its sender: credits, the replay buffer with the place of the frame that goes
next, and how often the oldest has been replayed. At its receiver: whether frames are discarded until the failing one comes again,
and what the next frame of the other direction carries in UI 126: good frames not yet acknowledged, a negative acknowledgement,
credits to return. -/
structure HdiWay where
  credits : Chans Nat
  replay  : List HdiFrame
  next    : Nat
  tries   : Nat
  discard : Bool
  acks    : Nat
  nak     : Bool
  owed    : Chans Nat
  deriving DecidableEq, Repr

/-- One direction of a bundle (R241, R244). At its sender: units that wait, those of the hub's transit buffers, frames taken over from
a port that retrains, the next sequence number, and the port that took the last turn. At its receiver: the first number that has not
arrived, and the units that wait to be handed on, each with its port. -/
structure HdiFlow where
  waiting : Chans (List HdiUnit)
  transit : Chans (List HdiUnit)
  moved   : List HdiFrame
  seq     : BitVec 16
  turn    : Nat
  low     : BitVec 16
  held    : List (BitVec 16 × Nat × HdiUnit)
  deriving DecidableEq, Repr

/-- An HDI port (R237, R242). `spares`: by direction (16 on) and group, the spare data wires in use. -/
structure HdiPort where
  live    : Bool
  retraining : Bool
  down    : HdiWay
  up      : HdiWay
  spares  : Tab Nat
  replays : Nat
  transient : Nat
  deriving DecidableEq, Repr

/-- A site's mode (R246). -/
inductive SiteMode where
  | empty | yarrow | guest16 | guestCompat
  deriving DecidableEq, Repr

/-- A Yarrow site (R245 to R249). `rate`: its lanes' rate in Gb/s (R247). -/
structure Site where
  mode  : SiteMode
  block : BitVec 256
  roles : BitVec 128
  rate  : Nat
  guestErr : Nat
  failed : Bool
  deriving DecidableEq, Repr

/-! ### Memory units -/

/-- A guarantee in force (R233, R235) with its present rate, in units of 0.1 GB/s. -/
structure Guar where
  ent  : BitVec 128
  rate : Nat × Nat
  deriving DecidableEq, Repr

/-- A shortfall in progress (R235): start postmark and nanosecond, lowest D in 0.1 GB/s, whether L was cut, the nanosecond of its last
record. -/
structure Shortfall where
  since  : Pm
  sinceNs : Nat
  lowest : Nat
  lcCut  : Bool
  lastNs : Nat
  deriving DecidableEq, Repr

/-- A migration in progress (R230): region entry, chunk, bytes moved, start. -/
structure Migration where
  index  : Nat
  chunk  : Nat
  moved  : Nat
  sinceNs : Nat
  deriving DecidableEq, Repr

/-- A memory-side operation on its way to its controller (R223, R224). -/
structure Mso where
  addr  : Addr
  mop   : BitVec 2
  mtype : BitVec 2
  sat   : Bool
  ftz   : Bool
  ctx   : BitVec 6
  data  : List Byte
  core  : CoreId
  flow  : BitVec 12
  deriving DecidableEq, Repr

/-- A hub's memory units (R213 to R236). -/
structure HubMem where
  regions : Tab (BitVec 128)
  loader  : List Nat
  guars   : List Guar
  throttle : Tab (BitVec 2)
  temp     : Tab Nat
  short    : Option Shortfall
  shortUs  : BitVec 48
  runCache : Nat
  runHbm   : Nat
  ratioCache : BitVec 32
  ratioHbm   : BitVec 32
  flushing : Bool
  migr     : Option Migration
  pcDead   : List (BitVec 8)
  msos     : List Mso
  hkey     : BitVec 2
  deriving DecidableEq, Repr

/-! ### Power, pins, Shordo -/

/-- An episode of a throttle reason (R390, R391). -/
structure Episode where
  start   : Pm
  startNs : Nat
  fLow    : BitVec 6
  peak    : BitVec 16
  lastRec : Nat
  deriving DecidableEq, Repr

/-- A rail group's condition (R381 to R384). -/
inductive RailSt where
  | off | on | retrying | retired
  deriving DecidableEq, Repr

/-- Power and thermal control (R380 to R394). -/
structure Pwr where
  cap      : BitVec 11
  fSet     : BitVec 6
  extLimit : BitVec 6
  pIn      : BitVec 16
  vIn      : BitVec 8
  tDie     : BitVec 8
  tHbm     : BitVec 8
  iPb0     : BitVec 16
  iPb1     : BitVec 16
  flowOk   : Bool
  trip     : Bool
  bladeLost : Bool
  thrNs    : Tab Nat
  episodes : Tab (Option Episode)
  capCeil  : BitVec 6
  curCeil  : BitVec 6
  dvfs     : BitVec 6
  tempCeil : Tab (BitVec 6)
  level    : Tab (BitVec 2)
  critNs   : Tab Nat
  drooped  : List Nat
  temps    : Tab Nat
  freq     : Tab (BitVec 6)
  flowLostNs : Option Nat
  flowSince  : Option Nat
  halting  : Option (HaltCause × Nat)
  rails    : Tab RailSt
  railTransient : Tab Nat
  retryNs  : Tab Nat
  levelNs  : Tab Nat
  deriving DecidableEq, Repr

/-- The low-speed pins (R437 to R440). -/
structure Pins where
  flowOk    : Bool
  thermTripN : Bool
  pwrgd     : Bool
  rstN      : Bool
  autoOn    : Bool
  perstN0   : Bool
  perstN1   : Bool
  peRdy0    : Bool
  peRdy1    : Bool
  sysclk    : Bool
  deriving DecidableEq, Repr

/-- The TAP's instruction (R432). -/
inductive Tap where
  | bypass | idcode | sample | extest | clamp | highz
  deriving DecidableEq, Repr

/-- An SPDM transport's negotiation (R425, R426): 0 none, 1 version, 2 capabilities, 3 algorithms. -/
abbrev SpdmStage := Nat

/-- Shordo: boot, flash, repair record, spares, SPDM and management (R404 to R406, R417 to R432). -/
structure Shordo where
  recovery  : Bool
  known     : Bool
  serial    : BitVec 64
  svnFused  : BitVec 8
  revoked   : BitVec 4
  factory   : List (BitVec 32)
  fwNew     : Bool
  aliasDebug : Bool
  fwA       : Option FwSlot
  fwB       : Option FwSlot
  digest    : Nat
  debugLock : Bool
  keys      : Copies (List Nat)
  placeRec  : Copies (BitVec 36)
  peerRevoked : List (BitVec 64)
  repair    : Copies (List (BitVec 128))
  repairQ   : List (BitVec 128)
  retired   : List (BitVec 32)
  unrec     : List (BitVec 32)
  active    : List Nat
  spareSite : Tab Nat
  spareCl   : Tab Nat
  spareCore : Tab Nat
  spareReq  : List (BitVec 32)
  spareLate : List (BitVec 32)
  spdm      : Tab SpdmStage
  spdmUntil : Nat
  standbyNs : Nat
  sensors   : Tab Nat
  sensorLvl : Tab Nat
  meas5     : Nat
  updAgent  : Option Nat
  challenge : Option Nat
  tap       : Tap
  smbus     : Bool
  hubFwOk   : Bool
  chanCorr  : Tab Nat
  chanTrans : Tab Nat
  warnHits  : Tab (List Nat)
  deriving DecidableEq, Repr

/-- The request that brought an envelope from another package: the hub it reached, its stream's source, its sequence
number and flow (R270, R271). -/
structure Origin where
  hub  : Fin 4
  pkg  : BitVec 15
  shub : BitVec 2
  seq  : BitVec 16
  flow : BitVec 12
  deriving DecidableEq, Repr

/-- A message between cores on its way (R169 to R171). -/
inductive Flight where
  /-- An envelope toward its destination, from outbox entry `ent` of its source core, or from another package. -/
  | env (hdr : BitVec 512) (payload : List Byte) (ent : Fin 16) (remote : Option Origin)
  /-- A positive acknowledgement to the sender's outbox entry. -/
  | ack (core : CoreId) (ent : Fin 16)
  /-- A dead letter to the sender's outbox entry. -/
  | dead (core : CoreId) (ent : Fin 16) (hdr : BitVec 512)
  /-- An envelope handed to a guest, which must answer within 1 us (R248). -/
  | guest (hdr : BitVec 512) (ent : Fin 16) (remote : Option Origin) (sentNs : Nat)
  deriving DecidableEq, Repr

/-- The schedule (R36, R40, R130, R201, R205, R208, R473). -/
structure Run where
  image     : Option Image
  imgCtx    : Fin 64
  startBeat : BitVec 40
  step      : BitVec 40
  settled   : BitVec 40
  rel       : Tab Rel
  reruns    : BitVec 8
  stepBad   : List (BitVec 40)
  ovf       : List (BitVec 40)
  rolling   : Option (BitVec 40)
  bounds    : List Boundary
  rekeys    : List RekeyReq
  flows     : Tab (BitVec 128)
  verify    : Bool
  lastRekeyNs : Option Nat
  deriving DecidableEq, Repr

/-! ### The state -/

/-- The package. `mem` holds the bytes of package memory (R210) and, at keys from 2^48 up, the marks of poisoned HBM units (R400,
LOG 12); `hostMem` holds those of the host (LOG 3); `free` and `ns` are the model's own (LOG 1, 11). -/
structure State where
  pending : List Instr
  dev     : Dev
  sched   : Sched
  out     : List Out
  free    : Nat
  ns      : Nat
  mem     : List Host.Cell
  hostMem : List Host.Cell
  tb      : Timebase
  clk     : Clocks
  regs    : Regs
  place   : Place
  caps    : Caps
  start   : Start
  sec     : Sec
  ctxs    : Tab Ctx
  doors   : Tab Door
  paths   : Paths
  cores   : Tab Core
  ports   : Tab Port
  evicts  : List Evict
  flights : List Flight
  run     : Run
  rcpt    : Rcpts
  cons    : Tab Cons
  slots   : Tab Slot
  queues  : Tab Queue
  stages  : Tab Stage
  stats   : Tab StatHalf
  layers  : Tab LayerSt
  upd     : Tab UpdEng
  commit  : Commit
  ckpt    : Ckpt
  offices : Tab Office
  links   : Tab Link
  linkCtr : Tab LinkCtr
  e2e     : Tab E2e
  hdi     : Tab HdiPort
  bundles : Tab HdiFlow
  sites   : Tab Site
  hubs    : Tab HubMem
  pwr     : Pwr
  pins    : Pins
  sh      : Shordo
  deriving DecidableEq, Repr

/-! ### Reset -/

/-- The reset value of `Timebase` (INVENTORY.md gives the rule of each field). -/
def Timebase.reset : Timebase :=
  { role := 0, beatPeriod := 1000000, upstream := 0, altUpstream := 0, rootAddr := 0, delayPs := 0, source := 0xF,
    st := .unlocked, now := 0, hasCount := false, acc := 0, lastPulse := 0, holdSince := 0, probeT1 := none,
    delays := [], tbInOk := false, lost := false, ahead := 0, ppsDue := none, sentNs := none, probeNs := none }

/-- The reset value of `Ctr` (INVENTORY.md gives the rule of each field). -/
def Ctr.reset : Ctr :=
  { pm := 0, rate := 0, frac := 0, clk := 100, phase := 0, paused := false, on := false, loaded := false }

/-- The counters at reset: every domain as `Ctr.reset`. -/
def Clocks.reset : Clocks := { cl := [], clDef := Ctr.reset, other := [], otherDef := Ctr.reset }

/-- The reset value of `Regs` (INVENTORY.md gives the rule of each field). -/
def Regs.reset : Regs :=
  { lock := false, lockHit := false, lockWrites := 0, firstOff := 0, firstPort := false, bar2Base := 0,
    bar2Key := 0, bar2En := false, urgCount := 0, urgOrigin := 0, urgKind := false, urgAfter := 0, urgPm := 0,
    stopSent := 0, stopsSeen := [], llmMode := 0, imbThresh := 0x20, imbEn := true, gcmEn := 0, traceShift := 8,
    fwdTraces := false, fwdLogs := false, fwdAlarms := true, traceEn := false, bar0Bad := 0, bar2Refused := 0,
    urgBad := 0, serial := 0 }

/-- The reset value of `Place` (INVENTORY.md gives the rule of each field). -/
def Place.reset : Place :=
  { set := false, addr := 0, lenS := 0, lenD := 0, lenP := 0, s := 0, d := 0, p := 0 }

/-- The reset value of `Caps` (INVENTORY.md gives the rule of each field). -/
def Caps.reset : Caps :=
  { cores := 0, dies := 0, guests := 0, hbmLive := 0, llmLive := 0, dieMap := [], guest := 0, hdi := [] }

/-- The reset value of `Start` (INVENTORY.md gives the rule of each field). -/
def Start.reset : Start :=
  { failCause := 0, failStage := 0, stage := 0, done := false, autoOn := false, elapsedMs := 0, startNs := 0,
    stageNs := 0, retMode := false, shordo := .down }

/-- The reset value of `Sec` (INVENTORY.md gives the rule of each field). -/
def Sec.reset : Sec :=
  { svnFused := 0, svnFw := 0, peerMinSvn := 0, keySlot := 0, revoked := 0, slot := false, debug := false,
    boot := 0, fwVersion := 0 }

/-- The reset value of `Ctx` (INVENTORY.md gives the rule of each field). -/
def Ctx.reset : Ctx :=
  { cfg := 0, saveBase := 0, saveCtl := 0, flags := 0, waitTotal := 0, waitCount := 0, preemptCount := 0,
    preemptLost := 0, waitHist := [], boundNow := false, umbelNow := 0 }

/-- The reset value of `Door` (INVENTORY.md gives the rule of each field). -/
def Door.reset : Door :=
  { mbBase := 0, mbEn := false, mbPort := false, mbBusy := false, mbSize := 0, mbTail := 0, mbHead := 0,
    mbStop := false, mbMute := false, evBase := 0, evEn := false, evPort := false, pkgEv := false, irqEn := false,
    alarms := false, logs := false, traces := false, irqGap := 0, evSize := 0, evHead := 0, evTail := 0,
    dropTraces := 0, dropLogs := 0, newTraces := 0, newLogs := 0, owed := [], lastIrq := none, irqWait := false }

/-- The reset value of `Paths` (INVENTORY.md gives the rule of each field). -/
def Paths.reset : Paths :=
  { posted := [], alarmStore := [], fwdStore := [], sentAlarms := [], courierQ := [], courierDrop := [], shordoLog := [],
    pldmQ := [], traceCount := [], recSeq := 0, longs := [], lastCtx := 0 }

/-- A core after start-up and after MB_LOAD (R474). -/
def Core.reset : Core :=
  { phase := .idle, pc := 0, s := [], hold := .none, loops := [], handler := none, stream := none, startQ := [], halted := false,
    mxaQ := [], drainQ := [], drain := [], seq := 0, acc := [], tag0 := 0, tag1 := 0, active := false,
    latch := [], latchSc := [], prev := none, half := none, v := [], xbuf := [], xsc := [], ybuf := [], ytag := 0 }

/-- The reset value of `Port` (INVENTORY.md gives the rule of each field). -/
def Port.reset : Port :=
  { xfers := [], outbox := [], slots := [], pillar := [], blk := { hdr := 0, ents := [] }, bankStall := [],
    envSent := 0, envAccepted := 0, envRetries := 0, dlReceived := 0, dlIssued := 0, corrected := 0,
    transient := 0 }

/-- The reset value of `Rel` (INVENTORY.md gives the rule of each field). -/
def Rel.reset : Rel :=
  { idx := 0, step := 0, stalled := 0, slipCount := 0, slipTicks := 0, slipMax := 0 }

/-- The reset value of `Rcpts` (INVENTORY.md gives the rule of each field). -/
def Rcpts.reset : Rcpts :=
  { count := [], sticky := [], wmCount := [], copy := [], adds := [], sends := [] }

/-- The reset value of `Cons` (INVENTORY.md gives the rule of each field). -/
def Cons.reset : Cons :=
  { st := .idle, again := none, fired := 0, umbel := 0, step := 0, err := 0, bytes := 0, ed := 0, waited := false, sent := false }

/-- The reset value of `Slot` (INVENTORY.md gives the rule of each field). -/
def Slot.reset : Slot :=
  { st := .empty, mb := 0, got := 0, taken := 0, b0 := false, b1 := false, claim := none, parts := [] }

/-- The reset value of `Queue` (INVENTORY.md gives the rule of each field). -/
def Queue.reset : Queue :=
  { hiSticky := false, loSticky := false, hiCount := 0, loCount := 0, hiPeak := 0, loTrough := 0, occ := 0,
    posts := 0, collects := 0, fullWaits := 0, emptyWaits := 0, away := [] }

/-- The reset value of `Edition` (INVENTORY.md gives the rule of each field). -/
def Edition.reset : Edition :=
  { st := .free, epoch := 0, pins := 0, step := 0, born := 0 }

/-- The reset value of `EdRec` (INVENTORY.md gives the rule of each field). -/
def EdRec.reset : EdRec :=
  { num := 0, valid := false, tentative := false, dropPend := false, madeIn := 0, dropIn := 0 }

/-- The reset value of `Stage` (INVENTORY.md gives the rule of each field). -/
def Stage.reset : Stage :=
  { eds := [], recs := [], frames := 0, serial := 0 }

/-- The reset value of `LayerSt` (INVENTORY.md gives the rule of each field). -/
def LayerSt.reset : LayerSt :=
  { bounds := [], pendB := [], pendStep := 0, hitPins := [], qTensors := 0, escapes := 0, misfits := 0, pinSat := 0, reruns := 0,
    denied := 0, pinAdapts := 0 }

/-- The reset value of `UpdEng` (INVENTORY.md gives the rule of each field). -/
def UpdEng.reset : UpdEng :=
  { busy := false, step := 0, exp := 0, wbuf := [], entry := 0, done := 0, elem := 0, pcw := 0, pass2 := false, ended := false, e := [],
    b0 := .unused, b1 := .unused, faulted := [] }

/-- The reset value of `Commit` (INVENTORY.md gives the rule of each field). -/
def Commit.reset : Commit :=
  { closed := 0, phase := .closed, step := 0, pc := 0, waiting := none, votes := 0, confirms := 0, answers := 0,
    outcomes := [], stale := [], settledExp := 0, forceExp := 0, lsClean := 0, lastFlag := false }

/-- The reset value of `Ckpt` (INVENTORY.md gives the rule of each field). -/
def Ckpt.reset : Ckpt :=
  { older := none, newer := none, writing := false, localDone := false, nextBase := false, heldBits := [],
    warnSeen := false, warnRow := 0, lastWarnNs := none, invalid := false }

/-- A sorting office with 32 adder lanes and the default wheel (R283, R284). -/
def Office.reset : Office :=
  { colls := [], held := [], collDone := 0, collFailed := 0, piecesHeld := 0, holdRefused := 0, pieceStale := 0,
    residueRetries := 0, lanesLive := 32, wheel := 0x5642513056425130 }

/-- A courier lane with nothing on its way. -/
def Lane.reset : Lane := { ready := [], nextSlot := 0, sinceAlarm := 0, parts := [], lost := false, retried := false }

/-- The reset value of `Link` (INVENTORY.md gives the rule of each field). -/
def Link.reset : Link :=
  { st := .down, lanes := 0, rate := 0, gcm := false, courier := false, keyEpoch := 0, downCause := 0,
    peerAddr := 0, peerLink := 0, live := 0, n := 0, retrained := false, flSeq := 0, ackSeq := 0, rxSeq := 0,
    nak := false, tell := false, replay := [], ackNs := 0, waiting := [], part := [], stamps := [], rxPart := [], pool := [],
    owed := [], epochFlits := 0, secret := 0, txBuf := [], txCount := 0, stNs := 0, wanted := none, crossed := false,
    dormHeld := none, waitPeer := false, authHeld := false, failedOver := false, lastTiming := 0, lane := Lane.reset }

/-- The reset value of `LinkCtr` (INVENTORY.md gives the rule of each field). -/
def LinkCtr.reset : LinkCtr :=
  { fecCorr := 0, fecUncorr := 0, replays := 0, flitsTx := 0, flitsRx := 0, gcmFail := 0, retrains := 0,
    pktBad := 0, transient := 0, courierTransient := 0 }

/-- The reset value of `E2e` (INVENTORY.md gives the rule of each field). -/
def E2e.reset : E2e :=
  { outs := [], reqs := [], wins := [], dupReq := 0, dupRsp := 0 }

/-- A direction of a port after training: every credit (R240), an empty replay buffer. -/
def HdiWay.reset : HdiWay :=
  { credits := ⟨64, 512, 512⟩, replay := [], next := 0, tries := 0, discard := false, acks := 0, nak := false, owed := ⟨0, 0, 0⟩ }

/-- A bundle's direction with nothing on its way; port 0 takes the first turn. -/
def HdiFlow.reset : HdiFlow :=
  { waiting := ⟨[], [], []⟩, transit := ⟨[], [], []⟩, moved := [], seq := 0, turn := 3, low := 0, held := [] }

/-- The reset value of `HdiPort` (INVENTORY.md gives the rule of each field). -/
def HdiPort.reset : HdiPort :=
  { live := false, retraining := false, down := HdiWay.reset, up := HdiWay.reset, spares := [], replays := 0, transient := 0 }

/-- The reset value of `Site` (INVENTORY.md gives the rule of each field). -/
def Site.reset : Site :=
  { mode := .empty, block := 0, roles := 0, rate := 0, guestErr := 0, failed := false }

/-- The reset value of `HubMem` (INVENTORY.md gives the rule of each field). -/
def HubMem.reset : HubMem :=
  { regions := [], loader := [], guars := [], throttle := [], temp := [], short := none, shortUs := 0,
    runCache := 0, runHbm := 0, ratioCache := 0, ratioHbm := 0, flushing := false, migr := none, pcDead := [],
    msos := [], hkey := 0 }

/-- The reset value of `Pwr` (INVENTORY.md gives the rule of each field). -/
def Pwr.reset : Pwr :=
  { cap := 1200, fSet := 50, extLimit := 0, pIn := 0, vIn := 0, tDie := 0, tHbm := 0, iPb0 := 0, iPb1 := 0,
    flowOk := false, trip := false, bladeLost := false, thrNs := [], episodes := [], capCeil := 60, curCeil := 60,
    dvfs := 50, tempCeil := [], level := [], critNs := [], drooped := [], temps := [], freq := [],
    flowLostNs := none, flowSince := none, halting := none, rails := [], railTransient := [],
    retryNs := [], levelNs := [] }

/-- The pins at their pulls (R437). -/
def Pins.reset : Pins :=
  { flowOk := false, thermTripN := true, pwrgd := false, rstN := true, autoOn := false, perstN0 := false,
    perstN1 := false, peRdy0 := false, peRdy1 := false, sysclk := false }

/-- The reset value of `Shordo` (INVENTORY.md gives the rule of each field). -/
def Shordo.reset : Shordo :=
  { recovery := false, known := false, serial := 0, svnFused := 0, revoked := 0, factory := [], fwNew := false, aliasDebug := false,
    fwA := none, fwB := none, digest := 0, debugLock := false, keys := ⟨none, none⟩, placeRec := ⟨none, none⟩,
    peerRevoked := [], repair := ⟨none, none⟩, repairQ := [], retired := [],
    unrec := [], active := [], spareSite := [], spareCl := [],
    spareCore := [], spareReq := [], spareLate := [], spdm := [], spdmUntil := 0, standbyNs := 0, sensors := [], sensorLvl := [], meas5 := 0, updAgent := none, challenge := none, tap := .bypass,
    smbus := false, hubFwOk := false, chanCorr := [], chanTrans := [], warnHits := [] }

/-- Entry `f` of the default flow table (R470): valid, `ctx_src` 0b10, context `c`, weight 1, zero route fields. -/
def Run.defaultFlow (c : Nat) : BitVec 128 :=
  (1 <<< 127) ||| (2 <<< 125) ||| (BitVec.ofNat 128 c <<< 119) ||| (1 <<< 88)

/-- The default flow table (R470): flows 0 to 63 of the contexts, flow 64 of BAR2 under context 0. -/
def Run.defaultFlows : Tab (BitVec 128) :=
  (List.range 64).map (fun c => (c, Run.defaultFlow c)) ++ [(64, Run.defaultFlow 0)]

/-- The reset value of `Run` (INVENTORY.md gives the rule of each field). -/
def Run.reset : Run :=
  { image := none, imgCtx := 0, startBeat := 0, step := 0, settled := 0, rel := [], reruns := 0,
    stepBad := [], ovf := [], rolling := none, bounds := [], rekeys := [], flows := Run.defaultFlows,
    verify := false, lastRekeyNs := none }

/-- Context 0 resets with `valid`, `lc` and `pkg_ctl` set (R366). -/
def Ctx.reset0 : Ctx := { Ctx.reset with cfg := 0xE000000000000000 }

/-- The package right after reset (R7 Off: nothing powered; R453: every setup register at its Reset column). -/
def State.reset : State :=
  { pending := [], dev := .off, sched := .none, out := [], free := 0, ns := 0, mem := [], hostMem := [],
    tb := Timebase.reset, clk := Clocks.reset, regs := Regs.reset, place := Place.reset,
    caps := Caps.reset, start := Start.reset, sec := Sec.reset, ctxs := [(0, Ctx.reset0)], doors := [],
    paths := Paths.reset, cores := [], ports := [], evicts := [], flights := [], run := Run.reset,
    rcpt := Rcpts.reset, cons := [], slots := [], queues := [], stages := [], stats := [], layers := [],
    upd := [], commit := Commit.reset, ckpt := Ckpt.reset, offices := [], links := [], linkCtr := [], e2e := [],
    hdi := [], bundles := [], sites := [], hubs := [], pwr := Pwr.reset, pins := Pins.reset, sh := Shordo.reset }

end Sys2Proof.Machine
end

