-- ==== Sys2Proof/Machine/Ops.lean ====
section
/-! DEFINITION. The shared operations of the machine: clocks and records, cores and their registers, the loaded image's
tables, addresses and region keys, receipts, core faults. -/

namespace Sys2Proof.Machine

/-- What a command answers. -/
abbrev Res := Host.Outcome State Fault Refusal

/-- The command's event occurs only where its condition holds; where it does not, the state stands (LOG 2). -/
def whenever (b : Bool) (s t : State) : Res := if b then .next t else .next s

/-- The package is Dormant or Halted-Coolant: core and hub groups are down, and the links carry no requests (R7, R279). -/
def lowPower (s : State) : Bool := s.dev = .dormant || s.dev = .haltedCoolant

/-- A channel as the repair record names it (R405): kind and location, in one number. -/
def channel (kind : Nat) (loc : Nat) : BitVec 32 := BitVec.ofNat 32 (kind * 2 ^ 24 + loc)

/-- ID.PART (R461). -/
def idPart : BitVec 32 := 0x54553336

/-- ID.REV (R461): stepping A1. -/
def idRev : BitVec 32 := 0x4101

/-! ### Where the spare map puts a logical number (R12, R462) -/

/-- The physical site of a logical die (R12, R462). -/
def siteOfDie (s : State) (d : Nat) : Nat := tget (9 * (d / 8) + d % 8) s.sh.spareSite d

/-- The physical cluster of a logical cluster (R12). -/
def physCluster (s : State) (c : CoreId) : Nat := tget (c.toNat / 16 % 256) s.sh.spareCl (c.toNat / 16)

/-- The physical core of a logical core within its cluster (R12). -/
def physCore (s : State) (c : CoreId) : Nat := tget (c.toNat % 16) s.sh.spareCore c.toNat

/-! ### Clock domains (R32) -/

/-- The domain of physical cluster `cl` of site `n` (R11, R32): one for each of the 6,120, the spares among them. -/
def domPhys (n cl : Nat) : Nat := n * 256 + cl
/-- The domain that logical cluster `k` (die * 256 + cluster) runs in. -/
def domLogical (s : State) (k : Nat) : Nat := domPhys (siteOfDie s (k / 256)) (tget (k % 256) s.sh.spareCl k)
/-- The domain of the cluster of logical core `c`. -/
def domCluster (s : State) (c : CoreId) : Nat := domLogical s (c.toNat / 16)
/-- The first domain that is no cluster's. -/
def domOther : Nat := 131072
/-- The domain of hub `h`'s fabric. -/
def domHub (h : Nat) : Nat := domOther + h
/-- The domain of the die fabric of site `n`. -/
def domFabric (n : Nat) : Nat := domOther + 8 + n
/-- The domain of the controller of HBM stack `n`. -/
def domHbm (n : Nat) : Nat := domOther + 48 + n
/-- The domain of torus link `l`. -/
def domLink (l : Nat) : Nat := domOther + 64 + l
/-- The domain of courier lane `l`. -/
def domCourier (l : Nat) : Nat := domOther + 76 + l
/-- The domain of PCIe port `p`. -/
def domPcie (p : Nat) : Nat := domOther + 88 + p
/-- Shordo's domain. -/
def domShordo : Nat := domOther + 90

/-- The counter of domain `d`. -/
def ctrOf (s : State) (d : Nat) : Ctr := if d < domOther then tget s.clk.clDef s.clk.cl d else tget s.clk.otherDef s.clk.other d

/-- Replace the counter of domain `d`. -/
def setCtr (s : State) (d : Nat) (c : Ctr) : State :=
  { s with clk := if d < domOther then { s.clk with cl := tput s.clk.clDef s.clk.cl d c }
                  else { s.clk with other := tput s.clk.otherDef s.clk.other d c } }

/-- Every counter changes by `f`. -/
def Clocks.map (f : Ctr → Ctr) (k : Clocks) : Clocks :=
  { cl := tmap (f k.clDef) (fun _ => f) k.cl, clDef := f k.clDef, other := tmap (f k.otherDef) (fun _ => f) k.other, otherDef := f k.otherDef }

/-- The postmark that the counter of domain `d` shows. -/
def clock (s : State) (d : Nat) : Pm := (ctrOf s d).pm

/-- The postmark that the cluster of logical core `c` shows. -/
def coreClock (s : State) (c : CoreId) : Pm := clock s (domCluster s c)

/-- A domain that is powered and whose counter has been loaded (R34). -/
def domReady (s : State) (d : Nat) : Bool := (ctrOf s d).on && (ctrOf s d).loaded

/-- The rate value of a domain with clock `clk`, in units of 12.5 MHz (R32): sub-ticks in one cycle, with 32 fraction bits, at
a beat of `period` ns. -/
def rateFor (period clk : Nat) : BitVec 64 := BitVec.ofNat 64 (2 ^ 56 * 80 / (period * clk))

/-- A domain takes clock `clk`, and its rate value changes in the same cycle (R32). -/
def retime (period clk : Nat) (c : Ctr) : Ctr := { c with clk := BitVec.ofNat 7 clk, rate := rateFor period clk }

/-- A domain powers up with clock `clk` (R34): its counter stands until the next correction message loads it. -/
def powerUp (period clk : Nat) (c : Ctr) : Ctr :=
  if c.on then c else { retime period clk c with on := true, loaded := false, paused := false }

/-- The key of the frequency of every cluster that has no entry of its own. -/
def allClusters : Nat := 65536

/-- Cluster `k`'s frequency, in 25 MHz units. -/
def freqOf (s : State) (k : Nat) : Nat :=
  match s.pwr.freq.find? fun x => x.1 == k with
  | some x => x.2.toNat
  | none => match s.pwr.freq.find? fun x => x.1 == allClusters with | some x => x.2.toNat | none => 50

/-- The clock of cluster `k` at frequency `f`, in 12.5 MHz units: half while it droops (R388). -/
def clkOf (s : State) (k f : Nat) : Nat := if s.pwr.drooped.contains k then f else 2 * f

/-- The domain of logical cluster `k` powers up at that cluster's frequency (R34). -/
def powerCluster (s : State) (k : Nat) : State :=
  let d := domLogical s k
  setCtr s d (powerUp s.tb.beatPeriod.toNat (clkOf s d (freqOf s d)) (ctrOf s d))

/-! ### Small updates of nested records -/

def modRegs (s : State) (f : Regs → Regs) : State := { s with regs := f s.regs }
def modPaths (s : State) (f : Paths → Paths) : State := { s with paths := f s.paths }
def modRun (s : State) (f : Run → Run) : State := { s with run := f s.run }
def modCommit (s : State) (f : Commit → Commit) : State := { s with commit := f s.commit }
def modCkpt (s : State) (f : Ckpt → Ckpt) : State := { s with ckpt := f s.ckpt }
def modPwr (s : State) (f : Pwr → Pwr) : State := { s with pwr := f s.pwr }
def modSh (s : State) (f : Shordo → Shordo) : State := { s with sh := f s.sh }
def modPins (s : State) (f : Pins → Pins) : State := { s with pins := f s.pins }
def modTb (s : State) (f : Timebase → Timebase) : State := { s with tb := f s.tb }
def modStart (s : State) (f : Start → Start) : State := { s with start := f s.start }
def modRcpt (s : State) (f : Rcpts → Rcpts) : State := { s with rcpt := f s.rcpt }
def modCtx (s : State) (c : Nat) (f : Ctx → Ctx) : State :=
  { s with ctxs := tput Ctx.reset s.ctxs c (f (tget Ctx.reset s.ctxs c)) }
def modDoor (s : State) (c : Nat) (f : Door → Door) : State :=
  { s with doors := tput Door.reset s.doors c (f (tget Door.reset s.doors c)) }
def modPort (s : State) (c : CoreId) (f : Port → Port) : State :=
  { s with ports := tput Port.reset s.ports c.toNat (f (tget Port.reset s.ports c.toNat)) }
def modCons (s : State) (n : Nat) (f : Cons → Cons) : State :=
  { s with cons := tput Cons.reset s.cons n (f (tget Cons.reset s.cons n)) }
def modQueue (s : State) (q : Nat) (f : Queue → Queue) : State :=
  { s with queues := tput Queue.reset s.queues q (f (tget Queue.reset s.queues q)) }
def modStage (s : State) (g : Nat) (f : Stage → Stage) : State :=
  { s with stages := tput Stage.reset s.stages g (f (tget Stage.reset s.stages g)) }
def modLayer (s : State) (l : Nat) (f : LayerSt → LayerSt) : State :=
  { s with layers := tput LayerSt.reset s.layers l (f (tget LayerSt.reset s.layers l)) }
def modUpd (s : State) (h : Nat) (f : UpdEng → UpdEng) : State :=
  { s with upd := tput UpdEng.reset s.upd h (f (tget UpdEng.reset s.upd h)) }
def modOffice (s : State) (h : Nat) (f : Office → Office) : State :=
  { s with offices := tput Office.reset s.offices h (f (tget Office.reset s.offices h)) }
def modLink (s : State) (l : Nat) (f : Link → Link) : State :=
  { s with links := tput Link.reset s.links l (f (tget Link.reset s.links l)) }
def modLinkCtr (s : State) (l : Nat) (f : LinkCtr → LinkCtr) : State :=
  { s with linkCtr := tput LinkCtr.reset s.linkCtr l (f (tget LinkCtr.reset s.linkCtr l)) }
def modE2e (s : State) (h : Nat) (f : E2e → E2e) : State :=
  { s with e2e := tput E2e.reset s.e2e h (f (tget E2e.reset s.e2e h)) }
def modHdi (s : State) (p : Nat) (f : HdiPort → HdiPort) : State :=
  { s with hdi := tput HdiPort.reset s.hdi p (f (tget HdiPort.reset s.hdi p)) }

/-- The value of a channel. -/
def Chans.get {α : Type} (x : Chans α) : HdiChan → α
  | .ctl => x.ctl
  | .rsp => x.rsp
  | .req => x.req

/-- One channel's value changed. -/
def Chans.put {α : Type} (x : Chans α) (c : HdiChan) (v : α) : Chans α :=
  match c with
  | .ctl => { x with ctl := v }
  | .rsp => { x with rsp := v }
  | .req => { x with req := v }

/-- Direction `up` of a bundle changed. -/
def modFlow (s : State) (b : Nat) (up : Bool) (f : HdiFlow → HdiFlow) : State :=
  { s with bundles := tput HdiFlow.reset s.bundles (2 * b + b2n up) (f (tget HdiFlow.reset s.bundles (2 * b + b2n up))) }

def modSite (s : State) (n : Nat) (f : Site → Site) : State :=
  { s with sites := tput Site.reset s.sites n (f (tget Site.reset s.sites n)) }
def modHub (s : State) (h : Nat) (f : HubMem → HubMem) : State :=
  { s with hubs := tput HubMem.reset s.hubs h (f (tget HubMem.reset s.hubs h)) }
def modRel (s : State) (u : Nat) (f : Rel → Rel) : State :=
  { s with run := { s.run with rel := tput Rel.reset s.run.rel u (f (tget Rel.reset s.run.rel u)) } }

def ctxOf (s : State) (c : Nat) : Ctx := tget Ctx.reset s.ctxs c
def doorOf (s : State) (c : Nat) : Door := tget Door.reset s.doors c
def portOf (s : State) (c : CoreId) : Port := tget Port.reset s.ports c.toNat
def consOf (s : State) (n : Nat) : Cons := tget Cons.reset s.cons n
def slotOf (s : State) (q i : Nat) : Slot := tget Slot.reset s.slots (q * 256 + i)
def queueOf (s : State) (q : Nat) : Queue := tget Queue.reset s.queues q
def stageOf (s : State) (g : Nat) : Stage := tget Stage.reset s.stages g
def layerOf (s : State) (l : Nat) : LayerSt := tget LayerSt.reset s.layers l
def updOf (s : State) (h : Nat) : UpdEng := tget UpdEng.reset s.upd h
def officeOf (s : State) (h : Nat) : Office := tget Office.reset s.offices h
def linkOf (s : State) (l : Nat) : Link := tget Link.reset s.links l
def e2eOf (s : State) (h : Nat) : E2e := tget E2e.reset s.e2e h
def hdiOf (s : State) (p : Nat) : HdiPort := tget HdiPort.reset s.hdi p

/-- Direction `up` of a bundle. -/
def flowOf (s : State) (b : Nat) (up : Bool) : HdiFlow := tget HdiFlow.reset s.bundles (2 * b + b2n up)

def siteOf (s : State) (n : Nat) : Site := tget Site.reset s.sites n
def hubOf (s : State) (h : Nat) : HubMem := tget HubMem.reset s.hubs h
def relOf (s : State) (u : Nat) : Rel := tget Rel.reset s.run.rel u

/-- Append to what the package sends outside. -/
def send (s : State) (o : Out) : State := { s with out := s.out ++ [o] }

/-! ### Event records (R46, R360, R408, R409) -/

/-- The source id of logical core `c` (R46). -/
def srcCore (s : State) (c : CoreId) : BitVec 32 := (s.place.addr.setWidth 32 <<< 17) ||| c.setWidth 32

/-- The source id of a non-core source (R407). -/
def srcUnit (s : State) (kind unit inst : Nat) : BitVec 32 :=
  (s.place.addr.setWidth 32 <<< 17) ||| BitVec.ofNat 32 (unit * 4096 + kind * 16 + inst)

/-- Items packed into a body from bit 0 upward, each aligned to its own width; one wider than 64 bits starts at the next
64-bit boundary (R409). An item is (width, value). -/
def packFrom (p : Nat) : List (Nat × Nat) → Nat
  | [] => 0
  | (w, v) :: t =>
    let al := if w > 64 then 64 else w
    let q := (p + al - 1) / al * al
    (v % 2 ^ w) * 2 ^ q + packFrom (q + w) t

/-- An event body (R409). -/
def packBody (l : List (Nat × Nat)) : BitVec 352 := BitVec.ofNat 352 (packFrom 0 l)

/-- The record class of a code. -/
def classOf (c : BitVec 16) : EvClass :=
  match evClassOf c with
  | 0 => .completion
  | 1 => .alarm
  | 2 => .log
  | _ => .trace

/-- The source hands on a record (R47); it waits in `posted` until RECORD_RELEASE. -/
def postRec (s : State) (r : Rec) : State := modPaths s fun p => { p with posted := p.posted ++ [r] }

/-- Post an event: its source, postmark, code, the context it belongs to (`none`: package-wide, R361), error and body. -/
def postB (s : State) (src : BitVec 32) (pm : Pm) (code : BitVec 16) (ctx : Option (BitVec 6)) (err : Err)
    (body : BitVec 352) : State :=
  postRec s { pm := pm, source := src, code := code, cls := classOf code, ctx := ctx.getD 0, pkg := ctx.isNone,
              err := err, count := 1, multi := false, body := body, irq := false }

/-- Post an event whose body is packed from items (R409). -/
def post (s : State) (src : BitVec 32) (pm : Pm) (code : BitVec 16) (ctx : Option (BitVec 6)) (err : Err)
    (items : List (Nat × Nat)) : State := postB s src pm code ctx err (packBody items)

/-- A trace source's occurrence (R414): every occurrence counts; one in 2^`trace_shift` is posted while `trace_en`. -/
def trace (s : State) (src : BitVec 32) (pm : Pm) (code : BitVec 16) (ctx : Option (BitVec 6))
    (items : List (Nat × Nat)) : State :=
  let key := src.toNat * 8 + code.toNat % 8
  let n := tget 0 s.paths.traceCount key
  let s1 := modPaths s fun p => { p with traceCount := tput 0 p.traceCount key (n + 1) }
  if s.regs.traceEn && n % 2 ^ s.regs.traceShift.toNat == 0 then post s1 src pm code ctx eOk items else s1

/-- adapt.denied (R45): the code of the adaptation that was not made. -/
def postDenied (s : State) (src : BitVec 32) (pm : Pm) (what : BitVec 16) (rest : List (Nat × Nat)) : State :=
  post s src pm evAdaptDenied none eOk ((16, what.toNat) :: rest)

/-- fault.transient or fault.retired (R398, R409). -/
def postFault (s : State) (retired : Bool) (src : BitVec 32) (pm : Pm) (kind : BitVec 8) (loc : BitVec 24)
    (cause : BitVec 8) (err : Err) (transient : Nat) (spared : Bool) : State :=
  postB s src pm (if retired then evFaultRetired else evFaultTransient) none err
    (((kind ++ loc ++ cause).setWidth 352 <<< 312) ||| (BitVec.ofNat 352 (transient % 2 ^ 32) <<< 280)
      ||| (BitVec.ofNat 352 (b2n (retired && spared)) <<< 279))

/-! ### Cores -/

/-- `cluster` values 160 to 255 name no core (R12). -/
def coreExists (c : CoreId) : Bool := (fld c 4 8).toNat < 160

/-- The logical die of a core. -/
def dieOf (c : CoreId) : Nat := c.toNat / 4096

/-- The core `c`. -/
def coreOf (s : State) (c : CoreId) : Core := tget Core.reset s.cores c.toNat

/-- The cores that stay retired. -/
def retiredOnly (t : Tab Core) : Tab Core :=
  (t.filter fun k => k.2.phase = .retired).map fun k => (k.1, { Core.reset with phase := .retired })

/-- Replace core `c`. -/
def setCore (s : State) (c : CoreId) (k : Core) : State := { s with cores := tput Core.reset s.cores c.toNat k }

/-- Change core `c`. -/
def modCore (s : State) (c : CoreId) (f : Core → Core) : State := setCore s c (f (coreOf s c))

/-- Scalar register `i`; s0 reads zero (R49). -/
def sreg (k : Core) (i : BitVec 5) : Word := if i = 0 then 0 else tget 0 k.s i.toNat

/-- Write scalar register `i`; a write of s0 is ignored (R49). -/
def setSreg (k : Core) (i : BitVec 5) (v : Word) : Core := if i = 0 then k else { k with s := tput 0 k.s i.toNat v }

/-- The bytes of a core's scratchpad (R71, R210): 128 KiB. -/
def spSize : Nat := 131072
/-- The bytes of a core's instruction store (R49): 16 KiB. -/
def isSize : Nat := 16384
/-- The package address of byte `a` of the scratchpad of `c` (R210). -/
def spAddr (c : CoreId) (a : Nat) : Nat := 0x020000000000 + c.toNat * 131072 + a
/-- The package address of byte `a` of the instruction store of `c` (R210). -/
def isAddr (c : CoreId) (a : Nat) : Nat := 0x030000000000 + c.toNat * 16384 + a

/-- `n` scratchpad bytes of core `c` from `a`. -/
def spRead (s : State) (c : CoreId) (a n : Nat) : List Byte := memRead s.mem (spAddr c a) n

/-- Where `mem` holds 1 for a poisoned unit of HBM, the 256 bytes at `256 u` (R400): its check bits, beyond every address. -/
def poisonKey (u : Nat) : Nat := 2 ^ 48 + u

/-- A write of `n` bytes at `a` clears the poison of every unit that it covers whole (R400). -/
def clearPoison (m : Tab Byte) (a n : Nat) : Tab Byte :=
  if a < 0x010000000000 then
    m.filter fun x => !(decide (poisonKey ((a + 255) / 256) ≤ x.1) && decide (x.1 < poisonKey ((a + n) / 256)))
  else m

/-- The access meets a poisoned unit; a write does not where it covers the unit whole (R400). -/
def touchesPoison (s : State) (a n : Nat) (wr : Bool) : Bool :=
  n != 0 && decide (a < 0x010000000000) && s.mem.any fun x =>
    decide (poisonKey (a / 256) ≤ x.1) && decide (x.1 ≤ poisonKey ((a + n - 1) / 256)) &&
      !(wr && decide (poisonKey ((a + 255) / 256) ≤ x.1) && decide (x.1 < poisonKey ((a + n) / 256)))

/-- Write bytes of package memory. -/
def wrMem (s : State) (a : Nat) (l : List Byte) : State := { s with mem := clearPoison (memWrite s.mem a l) a l.length }

/-- Write scratchpad bytes of core `c`. -/
def spWrite (s : State) (c : CoreId) (a : Nat) (l : List Byte) : State := wrMem s (spAddr c a) l

/-- Write host memory. -/
def wrHost (s : State) (a : Nat) (l : List Byte) : State := { s with hostMem := memWrite s.hostMem a l }

/-! ### The loaded image's tables -/

/-- The umbel table entries of the loaded image. -/
def umbels (s : State) : Tab (BitVec 256) := match s.run.image with | some im => im.umbels | none => []

/-- Umbel `u`'s entry; all zero, so unused, where the image lists none. -/
def umbelOf (s : State) (u : Nat) : BitVec 256 := tget 0 (umbels s) u

/-- An umbel entry is used (R139). -/
def umUsed (e : BitVec 256) : Bool := umKind e != 0

/-- Core `c` lies in the core range of entry `e` (R140). -/
def umHas (e : BitVec 256) (c : Nat) : Bool :=
  decide ((umFirst e).toNat ≤ c) && decide (c < (umFirst e).toNat + (umCount e).toNat)

/-- The cores of an umbel, in ascending order. -/
def umCores (e : BitVec 256) : List CoreId :=
  (List.range (umCount e).toNat).map fun i => BitVec.ofNat 17 ((umFirst e).toNat + i)

/-- The umbel's cores all lie in one cluster (R40). -/
def oneCluster (e : BitVec 256) : Bool :=
  (umFirst e).toNat / 16 == ((umFirst e).toNat + (umCount e).toNat - 1) / 16

/-- The release unit of an umbel (R40): that of its one logical cluster, or 16384 + that of the hub of its lowest core. -/
def relUnit (e : BitVec 256) : Nat := if oneCluster e then (umFirst e).toNat / 16 else 16384 + (umFirst e).toNat / 32768

/-- The clock domain of an umbel's release unit. -/
def relDom (s : State) (e : BitVec 256) : Nat := if oneCluster e then domCluster s (umFirst e) else domHub ((umFirst e).toNat / 32768)

/-- The context bound to umbel `u` since MB_START (R367). -/
def boundTo (s : State) (u : BitVec 16) : Option (BitVec 6) :=
  ((List.range 64).find? fun c => (ctxOf s c).boundNow && (ctxOf s c).umbelNow == u).map (BitVec.ofNat 6)

/-- The owner of umbel `u` (R368): the context bound nearest on its parent chain, or the image context. -/
def ownerFrom (s : State) : Nat → BitVec 16 → BitVec 6
  | 0, _ => BitVec.ofNat 6 s.run.imgCtx.val
  | n + 1, u =>
    match boundTo s u with
    | some c => c
    | none =>
      let p := umParent (umbelOf s u.toNat)
      if p = u then BitVec.ofNat 6 s.run.imgCtx.val else ownerFrom s n p

/-- The owner of umbel `u` (R368). -/
def ownerOf (s : State) (u : BitVec 16) : BitVec 6 := ownerFrom s (umbels s).length u

/-- The key a context's accesses carry (R379). -/
def ctxKey (s : State) (c : BitVec 6) : BitVec 16 := cfgKey (ctxOf s c.toNat).cfg

/-- The image context's number. -/
def imgOwner (s : State) : BitVec 6 := BitVec.ofNat 6 s.run.imgCtx.val

/-- The context a core acts for: the owner of its current stream, or the image context (R361, R371). -/
def coreCtx (s : State) (c : CoreId) : BitVec 6 :=
  match (coreOf s c).stream with | some st => st.owner | none => imgOwner s

/-- The stage entry that holds core `c`, if any (R141). -/
def stageUmbel (s : State) (c : Nat) : Option (BitVec 256) :=
  ((umbels s).find? fun e => umUsed e.2 && umIsStage e.2 && umHas e.2 c).map Prod.snd

/-- The receipt descriptor of receipt `r`, if the image has one (R177). -/
def rcptDesc (s : State) (r : BitVec 14) : Option (BitVec 128) :=
  match s.run.image with | some im => im.rcptDescs.find? fun d => rdRcpt d == r | none => none

/-- `open` of receipt `r` (R177). -/
def rcptOpen (s : State) (r : BitVec 14) : Bool := ((rcptDesc s r).map rdOpen).getD false
/-- `step_adv` of receipt `r`. -/
def rcptAdv (s : State) (r : BitVec 14) : BitVec 32 := ((rcptDesc s r).map rdStepAdv).getD 0
/-- `sub_mask` of receipt `r`. -/
def rcptSubs (s : State) (r : BitVec 14) : BitVec 36 := ((rcptDesc s r).map rdSubMask).getD (BitVec.allOnes 36)

/-- Core `c` may add to receipt `r` (R181): the receipt lies in the range of an umbel holding the core, or is open. -/
def mayAdd (s : State) (c : CoreId) (r : BitVec 14) : Bool :=
  rcptOpen s r || (umbels s).any fun e => umUsed e.2 && umHas e.2 c.toNat &&
    decide ((umRcptBase e.2).toNat ≤ r.toNat) && decide (r.toNat < (umRcptBase e.2).toNat + (umRcptCount e.2).toNat)

/-- The latitude block of the loaded image; all zero with no image. -/
def latitude (s : State) : BitVec 256 := match s.run.image with | some im => im.latitude | none => 0

/-- The commit record, when the image holds one (R199). -/
def commitRec (s : State) : Option (BitVec 256) :=
  match s.run.image with
  | some im => match im.upd with
    | some u => if im.rels.any (fun r => relAction r == 6) then some u.commit else none
    | none => none
  | none => none

/-- `step_beats` of the loaded image. -/
def stepBeats (s : State) : Nat := match s.run.image with | some im => im.stepBeats.toNat | none => 0

/-- The base postmark of step `k` (R36). -/
def stepBase (s : State) (k : BitVec 40) : Pm :=
  pmOfBeat (s.run.startBeat + k * BitVec.ofNat 40 (stepBeats s))

/-! ### Addresses and region keys (R210, R225, R226) -/

/-- A logical die of the usable shape: its CAP.DIEMAP entry is not 0xFF (R16, R462). -/
def dieUsable (s : State) (d : Nat) : Bool := tget 0 s.caps.dieMap d != 0xFF

/-- The site of a logical die holds a guest (R246, R248). -/
def isGuestDie (s : State) (die : Nat) : Bool :=
  (siteOf s (siteOfDie s die)).mode = .guest16 || (siteOf s (siteOfDie s die)).mode = .guestCompat

/-- The capability block of a guest die (R245). -/
def guestBlock (s : State) (die : Nat) : BitVec 256 := (siteOf s (siteOfDie s die)).block

/-- The hub that owns byte address `a`; `none` outside every range of R210, and in the storage of a guest's die (R249). -/
def hubOfAddr (s : State) (a : Nat) : Option Nat :=
  if a < 0x010000000000 then some (a / 2 ^ 38)
  else if a < 0x010080000000 then some ((a - 0x010000000000) / 0x04000000 / 8)
  else if 0x020000000000 ≤ a ∧ a < 0x020400000000 then
    let c := (a - 0x020000000000) / 131072
    if coreExists (BitVec.ofNat 17 c) && dieUsable s (c / 4096) && !isGuestDie s (c / 4096) then some (c / 4096 / 8) else none
  else if 0x030000000000 ≤ a ∧ a < 0x030080000000 then
    let c := (a - 0x030000000000) / 16384
    if coreExists (BitVec.ofNat 17 c) && dieUsable s (c / 4096) && !isGuestDie s (c / 4096) then some (c / 4096 / 8) else none
  else if 0x040000000000 ≤ a ∧ a < 0x040400000000 then
    let o := a - 0x040000000000
    if o % 2 ^ 32 < 0x04000000 then some (o / 2 ^ 32) else none
  else none

/-- The 64 KiB units that bytes `a` to `a + n - 1` touch. -/
def unitsOf (a n : Nat) : List Nat :=
  if n = 0 then [] else (List.range ((a + n - 1) / 65536 - a / 65536 + 1)).map (· + a / 65536)

/-- Every byte of the access lies in a range of R210 (all sizes of the ranges are multiples of 16 KiB). -/
def addrOk (s : State) (a n : Nat) : Bool :=
  n != 0 && (List.range ((a + n - 1) / 16384 - a / 16384 + 1)).all fun i => (hubOfAddr s ((a / 16384 + i) * 16384)).isSome

/-- The slice of LLM address `a` is in cache mode (R210, R217). -/
def cacheModeAt (s : State) (a : Nat) : Bool :=
  decide (0x010000000000 ≤ a) && decide (a < 0x010080000000) &&
    !(s.regs.llmMode.getLsbD ((a - 0x010000000000) / 0x04000000))

/-- Some byte of the access lies in a cache-mode slice. -/
def touchesCache (s : State) (a n : Nat) : Bool := (unitsOf a n).any fun u => cacheModeAt s (u * 65536)

/-- Entry `e` of a region table covers unit `u`. -/
def regionCovers (e : BitVec 128) (u : Nat) : Bool :=
  rgValid e && decide ((rgBase e).toNat ≤ u) && decide (u ≤ (rgBase e).toNat + (rgSize e).toNat)

/-- Entry `e` gives key `key` the operations asked. -/
def regionGives (e : BitVec 128) (key : BitVec 16) (rd wr : Bool) : Bool :=
  (rgKey e == key) && (!rd || rgRd e) && (!wr || rgWr e)

/-- The key of edition regions, pools and granule tables (R157, R379). -/
def editionKey : BitVec 16 := 0xFF00

/-- The access is permitted (R226): every unit is covered by valid entries of the owning hub, and each of them has the access key
and permits each operation. Where the loader's entry of an edition region lies over one that the host had written, only the edition
key passes (R157, DEDUCED, LOG 35). Key 0 matches no region (R379). -/
def permitted (s : State) (key : BitVec 16) (a n : Nat) (rd wr : Bool) : Bool :=
  key != 0 && (unitsOf a n).all fun u =>
    match hubOfAddr s (u * 65536) with
    | some h =>
      let es := (hubOf s h).regions.filter fun e => regionCovers e.2 u && (key != editionKey || rgKey e.2 == editionKey)
      !es.isEmpty && es.all fun e => regionGives e.2 key rd wr
    | none => false

/-- The pseudo-channel of HBM address `a` under key `K` (R215). -/
def hbmPlace (K : BitVec 64) (a : Nat) : BitVec 8 :=
  let u : BitVec 32 := BitVec.ofNat 32 (a % 2 ^ 38 / 2 ^ 16)
  let x := (u ^^^ fld K 0 32) * (fld K 32 32 ||| 1)
  let y := x ^^^ (x >>> 16)
  fld (BitVec.ofNat 48 a) 8 8 ^^^ (fld y 0 8 ^^^ fld y 8 8)

/-- Where HBM address `a` lies under key `K` (R215): its hub, its pseudo-channel and the byte within it. -/
def hbmSite (K : BitVec 64) (a : Nat) : Nat × BitVec 8 × Nat :=
  (a / 2 ^ 38 % 4, hbmPlace K a, a % 2 ^ 38 / 2 ^ 16 * 256 + a % 256)

/-- Key `n` of section 0x0B (R216). -/
def hashKey (s : State) (n : BitVec 2) : BitVec 64 :=
  match s.run.image with | some im => im.hkeys.getD n.toNat 0 | none => 0

/-- The HBM key index of the region that covers address `a` (R216); below the pointer of a migration, the new one (R230). -/
def hkeyOf (s : State) (h a : Nat) : BitVec 2 :=
  match (hubOf s h).regions.find? fun e => rgValid e.2 && decide ((rgBase e.2).toNat ≤ a / 65536) &&
      decide (a / 65536 ≤ (rgBase e.2).toNat + (rgSize e.2).toNat) with
  | some e => match (hubOf s h).migr with
    | some m => if m.index = e.1 ∧ a / 65536 < (rgBase e.2).toNat + m.chunk then rgHkey e.2 + 1 else rgHkey e.2
    | none => rgHkey e.2
  | none => 0

/-- Some 256-byte unit of the access lies on a retired pseudo-channel (R213, R214). -/
def touchesDead (s : State) (a n : Nat) : Bool :=
  n != 0 && decide (a < 0x010000000000) && !(hubOf s (a / 2 ^ 38)).pcDead.isEmpty &&
    (List.range ((a + n - 1) / 256 - a / 256 + 1)).any fun i =>
      let b := (a / 256 + i) * 256
      let h := b / 2 ^ 38
      (hubOf s h).pcDead.contains (hbmPlace (hashKey s (hkeyOf s h b)) b)

/-! ### Receipts -/

/-- An add sets out toward the receipt unit (R179). -/
def addReceipt (s : State) (r : BitVec 14) (inc : BitVec 32) (src : BitVec 32) : State :=
  modRcpt s fun x => { x with adds := x.adds ++ [(r, inc, src)] }

/-- Count `c` has reached target `t` (R178). -/
def rcReached (c t : BitVec 32) : Bool := (c - t).toNat < 2 ^ 31

/-- The step-relative target (R178). -/
def rcTarget (s : State) (r : BitVec 14) (t : BitVec 32) (k : BitVec 40) : BitVec 32 :=
  t + k.setWidth 32 * rcptAdv s r

/-- Subscriber `sub`'s copy of receipt `r` (R182): dies 0 to 31, hubs 32 to 35. -/
def copyOf (s : State) (sub : Nat) (r : BitVec 14) : BitVec 32 := tget 0 s.rcpt.copy (sub * 16384 + r.toNat)

/-! ### Step faults and core faults -/

/-- `step_bad` of step `k` is set (R201). -/
def markStep (s : State) (k : BitVec 40) : State :=
  if s.run.stepBad.contains k then s else modRun s fun r => { r with stepBad := r.stepBad ++ [k] }

/-- `step_bad` of the current step is set. -/
def markBad (s : State) : State := markStep s s.run.step

/-- A core fault of the instruction at word `pc` (R56): the SCU stops, core.fault is posted with the word index and the code,
`step_bad` is set. -/
def coreFaultAt (s : State) (c : CoreId) (pc : BitVec 12) (code : Err) : State :=
  markBad (post (modCore s c fun k => { k with phase := .faulted }) (srcCore s c) (coreClock s c) evCoreFault
    (some (coreCtx s c)) code [(16, pc.toNat), (8, code.toNat)])

/-- A core fault of the instruction that the SCU has reached (R56). -/
def coreFault (s : State) (c : CoreId) (code : Err) : State := coreFaultAt s c (coreOf s c).pc code

/-! ### Instruction issue (R52, R53) -/

/-- What holds issue has been met: the fence's engines are done, the postmark or the receipt is reached. Only the copy
of the core's die is judged (R182). The fabric port is done with every XFER that has made its scratchpad accesses; a SEND makes
its own as it leaves, and what a retry reads again (R165) holds no fence (DESIGN CHOICE, LOG 87). -/
def holdMet (s : State) (c : CoreId) (k : Core) : Bool :=
  match k.hold with
  | .none => true
  | .fence m =>
    (!m.getLsbD 0 || k.mxaQ.all (fun o => match o with | .mma .. => false | .swap _ => true)) &&
      (!m.getLsbD 1 || (k.drainQ.isEmpty && k.drain.isEmpty)) &&
      (!m.getLsbD 3 || (portOf s c).xfers.all (fun x => x.sent))
  | .pm t => pmReached (coreClock s c) t
  | .rcpt r t => rcReached (copyOf s (dieOf c) r) t

/-- Scalar register `r` waits for the tag of a drain (R53, R115). -/
def regPending (k : Core) (r : BitVec 5) : Bool :=
  r != 0 && (k.drainQ.any (fun e => drTagReg e.w == r) || k.drain.any fun j => drTagReg j.w == r)

/-- The word of the instruction store of `c` that its SCU has reached (R50). -/
def wordAt (s : State) (c : CoreId) : BitVec 64 := memWord s.mem (isAddr c (8 * (coreOf s c).pc.toNat))

/-- The opcodes that R54 and R472 leave reserved. -/
def opReserved (op : BitVec 8) : Bool :=
  let n := op.toNat
  n == 0x0F || (decide (0x19 ≤ n) && decide (n ≤ 0x1F)) || (decide (0x25 ≤ n) && decide (n ≤ 0x2F)) ||
    (decide (0x36 ≤ n) && decide (n ≤ 0x3F)) || (decide (0x43 ≤ n) && decide (n ≤ 0x5F)) ||
    (decide (0x6B ≤ n) && decide (n ≤ 0x7F)) || decide (0x82 ≤ n)

/-- Issue at core `c`: the SCU runs `f` when it is running, nothing holds it and the scalar registers `reads` are
written; otherwise nothing issues (LOG 2). A stream that has gone past its last word of the instruction store faults with
E_RANGE (R50, R55), and one that has reached a word with a reserved opcode with E_RESERVED (R54, R55). -/
def issue (s : State) (c : CoreId) (reads : List (BitVec 5)) (f : Core → State) : Res :=
  if coreExists c then
    let k := coreOf s c
    if k.phase = .running ∧ holdMet s c k = true then
      if 2048 ≤ k.pc.toNat then .next (coreFault s c eRange)
      else if opReserved (fld (wordAt s c) 56 8) then .next (coreFault s c eReserved)
      else if reads.any (regPending k) = false then .next (f { k with hold := .none })
      else .next s
    else .next s
  else .fault (.noSuchCore c)

/-- Leaving word `pc`: the hardware loops that end there go round or end (R472). -/
def loopNext (pc : BitVec 12) : List LoopEnt → List LoopEnt × BitVec 12
  | [] => ([], pc + 1)
  | e :: t =>
    if e.last = pc then
      (if 1 < e.left.toNat then ({ e with left := e.left - 1 } :: t, e.first) else loopNext pc t)
    else (e :: t, pc + 1)

/-- The next word after an instruction that does not branch. -/
def advance (k : Core) : Core :=
  let n := loopNext k.pc k.loops
  { k with loops := n.1, pc := n.2 }

/-- The fields of the SCU words that `used` does not name are zero (R472). -/
def onlyBits (w used : W56) : Bool := (w &&& ~~~used) == 0

/-! ### Exact counters (R415) -/

/-- A port that loses all but its exact counters (R415, R474). -/
def freshPort (p : Port) (b : EnvBlock) : Port :=
  { Port.reset with blk := b, bankStall := p.bankStall, envSent := p.envSent, envAccepted := p.envAccepted,
                    envRetries := p.envRetries, dlReceived := p.dlReceived, dlIssued := p.dlIssued, corrected := p.corrected,
                    transient := p.transient }

end Sys2Proof.Machine
end

