-- ==== Sys2Proof/Machine/RecordLayout.lean ====
section
/-! DEFINITION. Event records as bits, their order, and the store in which alarms merge (R47, R360, R362, R410). -/

namespace Sys2Proof.Machine

/-! ### Layout (R360) -/

/-- The class code of a record. -/
def classCode : EvClass → BitVec 2
  | .completion => 0
  | .alarm => 1
  | .log => 2
  | .trace => 3

/-- The class a code names. -/
def classFrom (c : BitVec 2) : EvClass :=
  match c.toNat with | 0 => .completion | 1 => .alarm | 2 => .log | _ => .trace

/-- The 512 bits of a record, with its ring's phase. -/
def recBits (r : Rec) (phase : Bool) : BitVec 512 :=
  r.pm ++ r.source ++ r.code ++ classCode r.cls ++ (if r.pkg then 0 else r.ctx) ++ r.err ++ r.count ++ BitVec.ofBool phase ++
    BitVec.ofBool r.multi ++ (0 : BitVec 14) ++ r.body

/-- The record that 512 bits spell, as one of another package: it belongs to no context here (R412). -/
def recFrom (b : BitVec 512) : Rec :=
  { pm := fld b 448 64, source := fld b 416 32, code := fld b 400 16, cls := classFrom (fld b 398 2), ctx := 0, pkg := true,
    err := fld b 384 8, count := fld b 368 16, multi := bit b 366, body := fld b 0 352, irq := false }

/-- The architectural order (R47, R410): postmark, then source id, then code. -/
def recBefore (a b : Rec) : Bool :=
  if a.pm ≠ b.pm then pmLt a.pm b.pm
  else if a.source ≠ b.source then decide (a.source.toNat < b.source.toNat)
  else decide (a.code.toNat < b.code.toNat)

/-- The first of a list in architectural order; of equals, the one posted first. -/
def firstRec : List Rec → Option Rec
  | [] => none
  | r :: t => match firstRec t with
    | some x => if recBefore x r then some x else some r
    | none => some r

/-! ### The alarm store (R362) -/

/-- The source class of a source id (R362): all cores, or one non-core kind. -/
def sourceClass (src : BitVec 32) : Nat :=
  let k := (fld src 4 8).toNat
  if 0xA0 ≤ k then k else 0

/-- Of the held alarms that satisfy `p`, the index of one that no ring has taken, else of any. -/
def pickAlarm (l : List HeldAlarm) (p : HeldAlarm → Bool) : Option Nat :=
  match l.findIdx? fun h => p h && h.took.isEmpty with
  | some i => some i
  | none => l.findIdx? p

/-- Of held alarms that satisfy `p`, the one with the lowest source id that no ring has taken, else the one with the lowest of all. -/
def lowestSource (l : List HeldAlarm) (p : HeldAlarm → Bool) : Option Nat :=
  let least := fun (q : HeldAlarm → Bool) => ((l.filter q).map fun h => h.record.source.toNat).min?
  let at_ := fun (q : HeldAlarm → Bool) => (least q).bind fun x => l.findIdx? fun h => q h && h.record.source.toNat == x
  match at_ fun h => p h && h.took.isEmpty with
  | some i => some i
  | none => at_ p

/-- An alarm merges into a held one: `count`, the latest body, and every ring that either was owed to. -/
def mergeAlarm (h : HeldAlarm) (r : Rec) (owed : List (Fin 64)) (multi : Bool) : HeldAlarm :=
  { h with
    record := { h.record with count := satAdd h.record.count r.count.toNat, body := r.body, multi := h.record.multi || multi || r.multi }
    owed := h.owed ++ owed.filter fun c => !h.owed.contains c && !h.took.contains c }

/-- Where an alarm merges in a store of at most `n`: the same source and code; in a full store, the same code with the lowest
source id, else the oldest of its source class, else the oldest; in each of these a record that no ring has taken goes first. The flag says
that sources are mixed. -/
def mergePlace (l : List HeldAlarm) (n : Nat) (r : Rec) : Option (Nat × Bool) :=
  match pickAlarm l fun h => h.record.source == r.source && h.record.code == r.code with
  | some i => some (i, false)
  | none =>
    if l.length < n then none
    else match lowestSource l fun h => h.record.code == r.code with
      | some i => some (i, true)
      | none => match pickAlarm l fun h => sourceClass h.record.source == sourceClass r.source with
        | some i => some (i, true)
        | none => (pickAlarm l fun _ => true).map fun i => (i, true)

/-- An alarm joins a store of at most `n` records, merged where R362 says so; the rings of `took` have it already. -/
def storeAlarm (l : List HeldAlarm) (n : Nat) (r : Rec) (owed took : List (Fin 64)) : List HeldAlarm :=
  match mergePlace l n r with
  | some (i, multi) => match l[i]? with | some h => l.set i (mergeAlarm h r owed multi) | none => l
  | none => l ++ [{ record := r, owed := owed, took := took }]

/-- The same over plain records: the forwarding store (R413) and the alarms of the PLDM event queue (R429). -/
def storePlain (l : List Rec) (n : Nat) (r : Rec) : List Rec :=
  (storeAlarm (l.map fun x => { record := x, owed := [], took := [] }) n r [] []).map fun h => h.record

end Sys2Proof.Machine
end

