-- ==== Sys2Proof/Machine/CourierOps.lean ====
section
/-! DEFINITION. The courier lanes' sending side (R275, R276, R411 to R413): frames, slots, and the records that go upstream. -/

namespace Sys2Proof.Machine

/-- The hub fabric and the timebase have power (R7, R453): in every state but Off, Failed and Standby, and in Standby while
start-up runs. -/
def powered (s : State) : Bool :=
  match s.dev with
  | .ready | .dormant | .haltedCoolant => true
  | .standby => s.start.stage != 0
  | .off | .failed => false

/-- The courier lanes are up: in every state but Off and Standby (R275), and in Standby while start-up runs. R7 names only Shordo
as powered in Failed; R275's words are followed (LOG 90). -/
def laneUp (s : State) : Bool := powered s || s.dev = .failed

/-- This package is the timing root (R27). -/
def tbRoot (s : State) : Bool := s.tb.role = 1 || s.tb.role = 2

/-- The courier lane upstream (R412): `upstream`, or `alt_upstream` when that lane is lost. -/
def upLane (s : State) : Option Nat :=
  let live := fun (l : BitVec 4) => (linkOf s l.toNat).courier
  if tbRoot s then none
  else if live s.tb.upstream then some s.tb.upstream.toNat
  else if live s.tb.altUpstream then some s.tb.altUpstream.toNat
  else none

/-! ### Frames and slots (R275, R276) -/

/-- The bytes of a frame's body. -/
def frameBody : BitVec 8 := 28

/-- A frame goes out in this slot, with its length and its CRC-16 (R275). -/
def sendNow (s : State) (l : Nat) (f : BitVec 8 × BitVec 224) : State :=
  send s (.frame (Fin.ofNat 12 l) f.1 frameBody f.2 (Config.crc16 f.1 frameBody f.2))

/-- The place of a frame type in the order of R276. -/
def frameOrder (t : BitVec 8) : Nat :=
  match t.toNat with
  | 0x01 => 1
  | 0x10 | 0x11 => 2
  | 0x02 | 0x03 => 3
  | 0x30 => 4
  | 0x20 => 5
  | _ => 6

/-- The frame that the next slot goes to (R276): an alarm's where the last 19 slots went to others, else the first in the order of
types, the oldest of its type first. -/
def pickFrame (k : Lane) : Option (BitVec 8 × BitVec 224) :=
  match if 19 ≤ k.sinceAlarm then k.ready.find? (fun f => f.1 == 0x20) else none with
  | some f => some f
  | none => (List.range 7).findSome? fun o => k.ready.find? fun f => frameOrder f.1 == o

/-- The frame type of a record's class (R276). -/
def recFrame (r : Rec) : BitVec 8 := match r.cls with | .alarm => 0x20 | .log => 0x40 | _ => 0x41

/-- The three frames of record `r` under sequence number `n` (R411). -/
def recFrames (r : Rec) (n : BitVec 15) : List (BitVec 8 × BitVec 224) :=
  (List.range 3).map fun i =>
    let part : BitVec 192 := (fld (recBits r false) (192 * i) (if i < 2 then 192 else 128)).setWidth 192
    let head : BitVec 32 := fld r.source 17 15 ++ n ++ BitVec.ofNat 2 i
    (recFrame r, part ++ head)

/-- The acknowledgement of an alarm (R276): origin and sequence number as its frames carry them, part 3 (LOG 90). -/
def ackFrame (origin seq : BitVec 15) : BitVec 8 × BitVec 224 :=
  (0x20, (0 : BitVec 192) ++ (origin ++ seq ++ (3 : BitVec 2)))

/-- The frames become ready on lane `l`. -/
def makeReady (s : State) (l : Nat) (fs : List (BitVec 8 × BitVec 224)) : State :=
  modLink s l fun k => { k with lane := { k.lane with ready := k.lane.ready ++ fs } }

/-- How long an alarm waits for its acknowledgement before it is resent, in ns: 60 slots (LOG 90). -/
def alarmResend : Nat := 15360

/-- An alarm that lane `l` is to send next (R276, R413): one that no acknowledgement came for, else the oldest of the forwarding
store, which stays among those sent until it is acknowledged. -/
def stockAlarm (s : State) (l : Nat) : State :=
  match s.paths.sentAlarms.find? fun a => decide (a.ns + alarmResend ≤ s.ns) with
  | some a => makeReady (modPaths s fun p => { p with
      sentAlarms := p.sentAlarms.map fun x => if x == a then { a with lane := l, ns := s.ns } else x }) l (recFrames a.record a.seq)
  | none => match s.paths.fwdStore with
    | r :: rest =>
      let n := s.paths.recSeq
      makeReady (modPaths s fun p => { p with
        fwdStore := rest, recSeq := n + 1, sentAlarms := p.sentAlarms ++ [{ record := r, seq := n, lane := l, ns := s.ns }] }) l
        (recFrames r n)
    | [] => s

/-- A log or trace record that lane `l` sends in free slots (R276, R413): the oldest of its queue. -/
def stockOther (s : State) (l : Nat) : State :=
  match tget [] s.paths.courierQ l with
  | r :: rest =>
    let n := s.paths.recSeq
    makeReady (modPaths s fun p => { p with courierQ := tput [] p.courierQ l rest, recSeq := n + 1 }) l (recFrames r n)
  | [] => s

/-- What becomes ready on lane `l` before a slot: an alarm for the upstream lane, where none of its frames is ready; else, where
no frame is, a log or trace. -/
def stock (s : State) (l : Nat) : State :=
  let k := (linkOf s l).lane
  let s1 := if upLane s = some l ∧ k.ready.all (fun f => f.1 != 0x20) then stockAlarm s l else s
  if (linkOf s1 l).lane.ready.isEmpty && upLane s == some l then stockOther s1 l else s1

/-- A slot of lane `l` (R276): of 256 ns, it takes one frame. -/
def slot (s : State) (l : Nat) : State :=
  if !laneUp s || decide (s.ns < (linkOf s l).lane.nextSlot) then s
  else
    let s1 := stock s l
    match pickFrame (linkOf s1 l).lane with
    | none => s1
    | some f =>
      sendNow (modLink s1 l fun k => { k with lane := { k.lane with
        ready := k.lane.ready.erase f, nextSlot := s.ns + 256
        sinceAlarm := if f.1 = 0x20 then 0 else k.lane.sinceAlarm + 1 } }) l f

/-- A frame is ready for lane `l`, and goes out where a slot is free. -/
def queueFrame (s : State) (l : Nat) (f : BitVec 8 × BitVec 224) : State := slot (makeReady s l [f]) l

/-- Time has come to each lane's next slot. -/
def slots (s : State) : State := (List.range 12).foldl slot s

/-- The channel of courier lane `l` (R405). -/
def courierChannel (l : Nat) : BitVec 32 := channel 0x0D (l * 2 ^ 20)

/-- A lost courier lane is retrained, with its link or alone (R278): a good timing frame brings it back. One retired gets no further
retrain (R398). -/
def laneRetrained (s : State) (l : Nat) : State :=
  if s.sh.retired.contains (courierChannel l) then s
  else modLink s l fun k => { k with lane := { k.lane with retried := k.lane.retried || k.lane.lost, lost := false } }

/-! ### Records upstream (R411 to R413) -/

/-- A record crosses lane `l` at once: what is sent while power fails. -/
def sendRecord (s : State) (l : Nat) (r : Rec) : State :=
  let n := s.paths.recSeq
  (recFrames r n).foldl (fun s f => sendNow s l f) (modPaths s fun p => { p with recSeq := n + 1 })

/-- A full store whose alarms have all been sent: the one that the next is to merge into waits to be sent once more, since an alarm is never
dropped (R411; DESIGN CHOICE, LOG 90). -/
def unsend (p : Paths) (r : Rec) : Paths :=
  if p.fwdStore.isEmpty && decide (1024 ≤ p.sentAlarms.length) then
    match (mergePlace (p.sentAlarms.map fun a => { record := a.record, owed := [], took := [] }) 1024 r).bind fun x => p.sentAlarms[x.1]? with
    | some a => { p with fwdStore := [a.record], sentAlarms := p.sentAlarms.erase a }
    | none => p
  else p

/-- An alarm joins the forwarding store of 1,024, of which those sent and not yet acknowledged hold places, and goes upstream as
slots come; while both lanes are lost it waits (R413). -/
def forwardAlarm (s : State) (r : Rec) : State :=
  let s1 := modPaths s fun p =>
    let q := unsend p r
    { q with fwdStore := storePlain q.fwdStore (1024 - q.sentAlarms.length) r }
  match upLane s with
  | some l => slot s1 l
  | none => s1

/-- A log or trace joins the queue of 64 of the upstream lane, the oldest dropped and counted, and goes in free slots (R413). -/
def forwardOther (s : State) (r : Rec) : State :=
  let l := (upLane s).getD s.tb.upstream.toNat
  let q := tget [] s.paths.courierQ l
  let s1 :=
    if q.length < 64 then modPaths s fun p => { p with courierQ := tput [] p.courierQ l (q ++ [r]) }
    else modPaths s fun p => { p with courierQ := tput [] p.courierQ l (q.drop 1 ++ [r]),
                                      courierDrop := tput 0 p.courierDrop l (tget 0 p.courierDrop l + 1) }
  slot s1 l

/-- The package's own record goes upstream as its class allows (R411, R412). -/
def forwardOwn (s : State) (r : Rec) : State :=
  if tbRoot s then s
  else match r.cls with
    | .alarm => if s.regs.fwdAlarms then forwardAlarm s r else s
    | .log => if s.regs.fwdLogs then forwardOther s r else s
    | .trace => if s.regs.fwdTraces then forwardOther s r else s
    | .completion => s

/-- The peer acknowledges an alarm that lane `l` sent (R276). -/
def alarmAcked (s : State) (l : Nat) (origin seq : BitVec 15) : State :=
  modPaths s fun p => { p with
    sentAlarms := p.sentAlarms.filter fun a => !(a.lane == l && a.seq == seq && fld a.record.source 17 15 == origin) }

/-! ### Records from other packages -/

/-- A frame of a record arrives on lane `l` (R411): with its three parts, the record is whole. A frame of another record drops what
the type's last one left. -/
def takePart (k : Lane) (ctype : BitVec 8) (body : BitVec 224) : Lane × Option (BitVec 512) :=
  let key : BitVec 30 := fld body 2 30
  let i := (fld body 0 2 : BitVec 2).toNat
  let old := tget (0, []) k.parts ctype.toNat
  let have_ := (if old.1 = key then old.2.filter fun x => x.1 != i else []) ++ [(i, fld body 32 192)]
  match have_.find? (fun x => x.1 == 0), have_.find? (fun x => x.1 == 1), have_.find? (fun x => x.1 == 2) with
  | some a, some b, some c =>
    ({ k with parts := tput (0, []) k.parts ctype.toNat (0, []) }, some ((fld c.2 0 128 : BitVec 128) ++ b.2 ++ a.2))
  | _, _, _ => ({ k with parts := tput (0, []) k.parts ctype.toNat (key, have_) }, none)

end Sys2Proof.Machine
end

