-- ==== Sys2Proof/Machine/Phy.lean ====
section
/-! DEFINITION. The physical layer of a torus link (R253, R254): codewords of 514 data and 30 parity symbols, dealt over the
active lanes. -/

namespace Sys2Proof.Machine

/-- The bytes of the flit stream in a codeword (R254). -/
def codewordBytes : Nat := 640

/-- The 20 framing bits: the codeword count in the low 12, the lane-alignment pattern above it (R254; the order is LOG 89's). -/
def framing (n : BitVec 12) : BitVec 20 := Config.alignPattern ++ n

/-- The 514 data symbols of a codeword: the framing bits, then 5,120 bits of the flit stream, lowest first (R254). -/
def dataSymbols (n : BitVec 12) (bytes : List Byte) : List (BitVec 10) :=
  let x := (framing n).toNat + 2 ^ 20 * leNat bytes
  (List.range 514).map fun i => BitVec.ofNat 10 (x / 2 ^ (10 * i))

/-- The 544 symbols of an RS(544,514) codeword. -/
def codeword (n : BitVec 12) (bytes : List Byte) : List (BitVec 10) :=
  dataSymbols n bytes ++ (List.range 30).map (Config.rsParity (dataSymbols n bytes))

/-- The symbols that lane `i` of `lanes` active ones carries of a codeword, dealt round-robin (R254). -/
def dealt (lanes i : Nat) (cw : List (BitVec 10)) : List (BitVec 10) :=
  ((List.range cw.length).filter fun j => j % lanes == i).filterMap fun j => cw[j]?

/-- A width code's lanes (R43). -/
def lanesOfWidth (w : BitVec 2) : Nat := 8 / 2 ^ w.toNat

/-- A rate code's Mb/s on a lane (R43, R253). -/
def mbpsOfRate (r : BitVec 2) : Nat := 212500 / 2 ^ r.toNat

/-- The flit capacity of a direction, in MB/s: lanes * rate * 5,120 / 5,440 (R254). -/
def flitCapacity (w r : BitVec 2) : Nat := lanesOfWidth w * mbpsOfRate r * 5120 / 5440 / 8

/-- The active lanes of a link: the lowest live ones, as many as its width takes. -/
def activeLanes (live : BitVec 8) (w : BitVec 2) : List Nat := ((List.range 8).filter fun i => live.getLsbD i).take (lanesOfWidth w)

end Sys2Proof.Machine
end

