-- ==== Sys2Proof/Machine/LinkTx.lean ====
section
/-! DEFINITION. The links of the torus (R251, R304) and their sending side (R254, R255, R258 to R262, R282): flits, stamps, the
replay buffer, the pools of a receiver. Pools are numbered REQ 0, REQ 1, RSP 0, RSP 1. -/

namespace Sys2Proof.Machine

/-! ### Coordinates -/

/-- The axis length of axis `a`: 0 P, 1 D, 2 S (R305 holds the length less 1). -/
def axisLen (s : State) (a : Nat) : Nat :=
  match a with | 0 => s.place.lenP.toNat + 1 | 1 => s.place.lenD.toNat + 1 | _ => s.place.lenS.toNat + 1

/-- The coordinate of a package address on axis `a` (R304). -/
def coordOf (s : State) (addr : BitVec 15) (a : Nat) : Nat :=
  match a with
  | 0 => addr.toNat % axisLen s 0
  | 1 => addr.toNat / axisLen s 0 % axisLen s 1
  | _ => addr.toNat / (axisLen s 0 * axisLen s 1)

/-- The address of the package at coordinates (p, d, s) (R304). -/
def addrOf (s : State) (p d z : Nat) : BitVec 15 := BitVec.ofNat 15 (p + axisLen s 0 * (d + axisLen s 1 * z))

/-- The peer package of link `l` (R251): link = 2 * direction + twin, directions +P -P +D -D +S -S. -/
def peerPkg (s : State) (l : Nat) : BitVec 15 :=
  let a := l / 4
  let step := fun x : Nat => fun i => if i = a then (if l / 2 % 2 = 0 then x + 1 else x + axisLen s i - 1) % axisLen s i else x
  addrOf s (step (coordOf s s.place.addr 0) 0) (step (coordOf s s.place.addr 1) 1) (step (coordOf s s.place.addr 2) 2)

/-- The peer's link number (R251): the same axis and twin, the other direction. -/
def peerLinkNo (l : Nat) : Nat := l / 4 * 4 + (1 - l / 2 % 2) * 2 + l % 2

/-- The hub of link `l` (R251). -/
def hubOfLink (l : Nat) : Nat := l % 2 * 2 + l / 2 % 2

/-- A link counts as up in states Up and Replaying (R263). -/
def linkUp (s : State) (l : Nat) : Bool := (linkOf s l).st = .up || (linkOf s l).st = .replaying

/-- Link `l` still carries its flows: it is not Down; while it retrains or changes, packets wait for it (R265, R268). -/
def linkServes (s : State) (l : Nat) : Bool := !((linkOf s l).st = .down || (linkOf s l).st = .training)

/-- The link from this package crosses its ring's dateline (R258). -/
def crossesDateline (s : State) (l : Nat) : Bool :=
  let x := coordOf s s.place.addr (l / 4)
  if l / 2 % 2 = 0 then x + 1 == axisLen s (l / 4) else x == 0

/-- The source id of link `l` (R407). -/
def linkSrc (s : State) (l : Nat) : BitVec 32 := srcUnit s 0xA4 (hubOfLink l) l

/-- The postmark of link `l`'s domain. -/
def linkPm (s : State) (l : Nat) : Pm := clock s (domLink l)

/-! ### Units, pools and stamps (R256, R258, R259) -/

/-- The pool of a packet of dateline class `cls` (R257, R259). -/
def poolOf (hdr : BitVec 128) (cls : Bool) : Nat := (if pkPtype hdr = 6 ∨ pkPtype hdr = 8 then 2 else 0) + b2n cls

/-- The units of a packet (R256). -/
def pkCount (hdr : BitVec 128) : Nat := (pkUnits hdr).toNat + 1

/-- Unit `i` of a packet: 64 bytes of its header and data (R256). -/
def unitAt (p : Packet) (i : Nat) : List Byte := ((leBytes 16 p.hdr ++ p.data).drop (64 * i)).take 64

/-- The packet whose units are `us`. -/
def packetOf (us : List (List Byte)) : Packet := ⟨leWord 128 (us.flatten.take 16), us.flatten.drop 16⟩

/-- The `vc_map` code of a pool (R255): bit 2 the class, 0b01 REQ, 0b10 RSP. -/
def vcCode (q : Nat) : BitVec 3 := BitVec.ofNat 3 (q % 2 * 4 + (if q < 2 then 1 else 2))

/-- The size of a receiver's pool (R259). -/
def poolSize (q : Nat) : Nat := if q % 2 = 0 then 2048 else 512

/-- The type is one that R257 names. -/
def knownType (p : Packet) : Bool := (decide (1 ≤ (pkPtype p.hdr).toNat ∧ (pkPtype p.hdr).toNat ≤ 6)) || pkPtype p.hdr == 8

/-- The piece header of a piece that a collective of package `own` sends (R291); none for a packet of the packet layer. -/
def ownPiece (own : BitVec 15) (p : Packet) : Option (BitVec 384) :=
  if pkPtype p.hdr = 5 ∧ pkSrcPkg p.hdr = own then some (leWord 384 (p.data.take 48)) else none

/-- Piece `a` is served before piece `b` (R285, R297, R301): an abort ahead of every piece, then the earlier order key, then the lower
index. -/
def pieceBefore (a b : BitVec 384) : Bool :=
  if phAbort a ≠ phAbort b then phAbort a
  else if phStart a ≠ phStart b then beatLater (phStart b) (phStart a)
  else if phId a ≠ phId b then decide ((phId a).toNat < (phId b).toNat)
  else decide ((phPiece a).toNat < (phPiece b).toNat)

/-- In a port's slice packet `a` is served before packet `b` that is older (R285): packets of the packet layer before pieces of this
package's collectives, and these in their order. -/
def servedBefore (own : BitVec 15) (a b : Packet) : Bool :=
  match ownPiece own a, ownPiece own b with
  | none, some _ => true
  | some x, some y => pieceBefore x y
  | _, none => false

/-- Of waiting packets, the one that is served next (R260, R285). -/
def servedNext (own : BitVec 15) : List (Bool × Packet) → Option (Bool × Packet)
  | [] => none
  | w :: t => match servedNext own t with
    | some x => if servedBefore own x.2 w.2 then some x else some w
    | none => some w

/-- The pool and packet of the unit that goes next (R259, R260, R285): RSP before REQ, class 1 before class 0, then the packet that has
begun, else the one that is served next, where the pool has a stamp; in Dormant no request goes (R279). -/
def nextUnit (own : BitVec 15) (low : Bool) (k : Link) : Option (Nat × Bool × Packet) :=
  [3, 2, 1, 0].findSome? fun q =>
    if tget 0 k.stamps q = 0 || (low && decide (q < 2)) then none
    else
      let ws := k.waiting.filter fun w => poolOf w.2.hdr w.1 == q
      (if tget 0 k.part q = 0 then servedNext own ws else ws.head?).map fun w => (q, w.1, w.2)

/-- Payload slot `n`, from 1, of a flit takes the next unit, and its stamp (R255, R259); a packet that has begun stands first. -/
def placeUnit (own : BitVec 15) (low : Bool) (x : Link × SentFlit) (n : Nat) : Link × SentFlit :=
  match nextUnit own low x.1 with
  | none => (x.1, { x.2 with slots := x.2.slots ++ [List.replicate 64 0] })
  | some (q, w) =>
    let u := tget 0 x.1.part q
    let last := u + 1 == pkCount w.2.hdr
    ({ x.1 with
        stamps := tput 0 x.1.stamps q (tget 0 x.1.stamps q - 1), part := tput 0 x.1.part q (if last then 0 else u + 1)
        waiting := if last then x.1.waiting.erase w else w :: x.1.waiting.erase w },
     { hdr := putBit (putFld x.2.hdr (453 + 3 * n) (vcCode q)) (448 + n) (u == 0)
       slots := x.2.slots ++ [unitAt w.2 u], pkts := if last then x.2.pkts ++ [w] else x.2.pkts })

/-- The seven payload slots of a data flit, filled; those of another kind stay empty. -/
def fillSlots (own : BitVec 15) (low : Bool) (k : Link) (kind : BitVec 2) : Link × SentFlit :=
  if kind = 0 then ((List.range 7).map (· + 1)).foldl (placeUnit own low) (k, ⟨0, [], []⟩)
  else (k, ⟨0, List.replicate 7 (List.replicate 64 0), []⟩)

/-! ### Flits (R255, R261, R262, R282) -/

/-- The stamps of pool `q` that a flit header returns (R259). -/
def oweNow (k : Link) (kind : BitVec 2) (q : Nat) : Nat := if kind = 1 then 0 else min 255 (tget 0 k.owed q)

/-- A flit header's fields but its maps, tag and CRC (R255). -/
def mkFh (k : Link) (kind : BitVec 2) : BitVec 512 :=
  k.flSeq ++ k.rxSeq ++ BitVec.ofBool k.nak ++ kind ++ (0 : BitVec 28) ++ BitVec.ofNat 8 (oweNow k kind 0) ++
    BitVec.ofNat 8 (oweNow k kind 1) ++ BitVec.ofNat 8 (oweNow k kind 2) ++ BitVec.ofNat 8 (oweNow k kind 3) ++
    (if k.gcm then k.keyEpoch else 0) ++ (0 : BitVec 409)

/-- AES-256-GCM is a key stream over the slots: byte `i` of the flit's 448 (R282). -/
def cipher (l : Nat) (k : Link) (slots : List (List Byte)) : List (List Byte) :=
  (List.range slots.length).map fun i => (List.range 64).map fun j =>
    ((slots[i]?.getD [])[j]?.getD 0) ^^^ Config.gcmStream k.secret l k.keyEpoch k.epochFlits (64 * i + j)

/-- A flit of `kind` leaves (R255, R259, R262, R282): data and control flits are encrypted where the link is, carry stamps, take
the next `fl_seq` and stay in the replay buffer until acknowledged. An idle flit carries the next `fl_seq` without taking it. -/
def makeFlit (own : BitVec 15) (low : Bool) (l : Nat) (k : Link) (kind : BitVec 2) : Link × SentFlit :=
  let x := fillSlots own low k kind
  let crypt := k.gcm && kind != 1
  let slots := if crypt then cipher l k x.2.slots else x.2.slots
  let h1 := x.2.hdr ||| mkFh k kind
  let h2 := if crypt then putFld h1 64 (Config.gcmTag k.secret l k.keyEpoch k.epochFlits (fld h1 192 320) slots) else h1
  let f : SentFlit := { hdr := putFld h2 0 (Config.crc64 (fld h2 64 448) slots), slots := slots, pkts := x.2.pkts }
  let k1 := { x.1 with tell := false }
  (if kind = 1 then k1
   else { k1 with
     flSeq := k.flSeq + 1, epochFlits := k.epochFlits + 1, replay := k.replay ++ [f]
     owed := [0, 1, 2, 3].foldl (fun t q => tput 0 t q (tget 0 t q - oweNow k kind q)) k1.owed }, f)

/-- A flit goes to the physical layer (R254): counted, and its bytes join the flit stream; each 640 bytes of it are a codeword. -/
def putFlit (s : State) (l : Nat) (f : SentFlit) : State :=
  let k := linkOf s l
  let s1 := send (modLinkCtr s l fun c => { c with flitsTx := satInc c.flitsTx }) (.flit (Fin.ofNat 12 l) f.hdr f.slots)
  let buf := k.txBuf ++ leBytes 64 f.hdr ++ f.slots.flatten
  if buf.length < codewordBytes then modLink s1 l fun k => { k with txBuf := buf }
  else
    let cw := codeword k.txCount (buf.take codewordBytes)
    let lanes := activeLanes k.live k.lanes
    send (modLink s1 l fun k => { k with txBuf := buf.drop codewordBytes, txCount := k.txCount + 1 })
      (.symbols (Fin.ofNat 12 l) ((List.range lanes.length).map fun i => (lanes[i]?.getD 0, dealt lanes.length i cw)))

/-- Link `l` sends a new flit of `kind`; the 1 us of R262 begins with the oldest one. -/
def sendFlit (s : State) (l : Nat) (kind : BitVec 2) : State :=
  let x := makeFlit s.place.addr (lowPower s) l (linkOf s l) kind
  putFlit (modLink s l fun k => { x.1 with ackNs := if k.replay.isEmpty then s.ns else k.ackNs }) l x.2

/-- The replay buffer has room for a flit: it holds 512 (R262). -/
def replayFree (k : Link) : Bool := decide (k.replay.length < 512)

/-- Link `l` sends data flits while units wait, while it is up and its replay buffer has room (R262, R263). -/
def fillLink (s : State) (l : Nat) : Nat → State
  | 0 => s
  | n + 1 =>
    if linkUp s l && replayFree (linkOf s l) && (nextUnit s.place.addr (lowPower s) (linkOf s l)).isSome then fillLink (sendFlit s l 0) l n
    else s

/-- The units that wait for link `l`: a bound on the flits they take. -/
def unitsWaiting (k : Link) : Nat := (k.waiting.map fun w => pkCount w.2.hdr).sum

/-- Stamps are owed to the peer. -/
def owes (k : Link) : Bool := [0, 1, 2, 3].any fun q => tget 0 k.owed q != 0

/-- Link `l` sends what it has to (R259, R261, R262): data flits; for stamps that none of them returned, a control flit; for an
acknowledgement or `nak` that no flit told, an idle flit (LOG 89). -/
def answerLink (s : State) (l : Nat) : State :=
  let s1 := fillLink s l (unitsWaiting (linkOf s l))
  let k := linkOf s1 l
  if !linkUp s1 l then s1
  else if owes k && replayFree k then sendFlit s1 l 2
  else if k.tell then sendFlit s1 l 1
  else s1

/-- A packet of dateline class `cls` joins link `l` (R258 to R260). -/
def putOnLink (s : State) (l : Nat) (cls : Bool) (hdr : BitVec 128) (data : List Byte) : State :=
  let s1 := modLink s l fun k => { k with waiting := k.waiting ++ [(cls || crossesDateline s l, ⟨hdr, data⟩)] }
  fillLink s1 l (unitsWaiting (linkOf s1 l))

/-! ### The pools of a receiver (R259, R260) -/

/-- `n` units leave pool `q` of link `l`: their stamps go back to the peer. -/
def oweStamps (s : State) (l q n : Nat) : State :=
  modLink s l fun k => { k with owed := tput 0 k.owed q (tget 0 k.owed q + n) }

/-- The first link whose pools hold packet `p`, and its class there. -/
def poolWith (s : State) (p : Packet) : Option (Nat × Bool) :=
  (List.range 12).findSome? fun l => ((linkOf s l).pool.find? fun x => x.2 == p).map fun x => (l, x.1)

/-- Packet `p` stands in a pool behind an older packet of the same channel and class (R260). -/
def notFirst (s : State) (p : Packet) : Bool :=
  match poolWith s p with
  | some (l, c) => match (linkOf s l).pool.find? fun x => poolOf x.2.hdr x.1 == poolOf p.hdr c with
    | some x => x.2 != p
    | none => false
  | none => false

/-- Packet `p` leaves the pool that holds it, and its stamps go back (R259). A packet that no pool holds came over a hub-to-hub
bundle (LOG 32). -/
def leavePool (s : State) (p : Packet) : State :=
  match poolWith s p with
  | some (l, c) =>
    answerLink (oweStamps (modLink s l fun k => { k with pool := k.pool.erase (c, p) }) l (poolOf p.hdr c) (pkCount p.hdr)) l
  | none => s

end Sys2Proof.Machine
end

