-- ==== Sys2Proof/Machine/E2eOps.lean ====
section
/-! DEFINITION. Sending between packages: the route of a packet (R267 to R269), the requests and responses of a hub's streams
(R270 to R273). -/

namespace Sys2Proof.Machine

/-! ### Routes -/

/-- The axes in the order of a flow's `axis_order` (R470): 0 P, 1 D, 2 S. -/
def axisOrder (f : BitVec 128) : List Nat :=
  match (flAxis f).toNat with
  | 0 => [0, 1, 2]
  | 1 => [0, 2, 1]
  | 2 => [1, 0, 2]
  | 3 => [1, 2, 0]
  | 4 => [2, 0, 1]
  | _ => [2, 1, 0]

/-- The first axis of the flow's order on which the package differs from the destination (R470). -/
def nextAxis (s : State) (f : BitVec 128) (dst : BitVec 15) : Option Nat :=
  (axisOrder f).find? fun a => coordOf s s.place.addr a != coordOf s dst a

/-- A flow's entry in the flow table in force. -/
def flowEnt (s : State) (f : BitVec 12) : BitVec 128 := tget 0 s.run.flows f.toNat

/-- A packet goes in the - direction of axis `a` (R267, R269): as the flow's entry says, but a turned packet that came along the
axis goes on as it travels, away from the link `came` that it arrived on. -/
def goesNeg (f : BitVec 128) (a : Nat) (way : Bool) (came : Option Nat) : Bool :=
  match came with
  | some c => if way ∧ c / 4 = a then c / 2 % 2 == 0 else (flNeg f).getLsbD a
  | none => (flNeg f).getLsbD a

/-- The link of twin `twin` in a direction of axis `a`, else the other twin (R268); a link that has come up again carries its flows
from the next step boundary on. -/
def pickLink (s : State) (a twin : Nat) (neg : Bool) : Option Nat :=
  let l := 2 * (2 * a + b2n neg) + twin
  let mate := l / 2 * 2 + (1 - l % 2)
  if linkServes s l && !(linkOf s l).failedOver then some l
  else if linkServes s mate then some mate
  else if linkServes s l then some l else none

/-- The link toward `dst`, with `way` and whether the packet turns here (R267 to R269): with both twins of the next hop Down, a
packet that has not turned yet goes the other way round the axis; `none` where nothing leads on. -/
def routeTo (s : State) (f : BitVec 128) (dst : BitVec 15) (way : Bool) (came : Option Nat) (twin : Nat) :
    Option (Nat × Bool × Bool) :=
  match nextAxis s f dst with
  | none => none
  | some a =>
    let neg := goesNeg f a way came
    match pickLink s a twin neg with
    | some l => some (l, way, false)
    | none => if way then none else (pickLink s a twin (!neg)).map fun l => (l, true, true)

/-- Route a packet out of the package; a turn sets `way` and posts link.reroute (R269). A packet for another hub of this
package crosses the hub-to-hub bundle (R286). `came` is the link a transit packet arrived on, with its dateline class: it
keeps its twin (R267), and its class while it goes on in one direction of one axis (R258). -/
def routePacket (s : State) (hdr : BitVec 128) (data : List Byte) (came : Option (Nat × Bool)) : Option State :=
  if pkDstPkg hdr = s.place.addr then some (send s (.packet (pkDstHub hdr).toFin hdr 0 data))
  else
    let f := flowEnt s (pkFlow hdr)
    match routeTo s f (pkDstPkg hdr) (pkWay hdr) (came.map Prod.fst) (match came with | some c => c.1 % 2 | none => b2n (flTwin f)) with
    | none => none
    | some (l, way, turned) =>
      let h := putBit hdr 39 way
      let cls := match came with | some c => c.2 && c.1 / 4 == l / 4 && c.1 / 2 % 2 != l / 2 % 2 | none => false
      let s1 := putOnLink s l cls h data
      some (if turned then post s1 (linkSrc s l) (linkPm s l) evLinkReroute none eOk [(8, l), (16, (pkDstPkg hdr).toNat)] else s1)

/-- Route a packet by link `l` first, then its twin, then as its flow names (R301, R268, R269). -/
def routeVia (s : State) (l : Option Nat) (hdr : BitVec 128) (data : List Byte) : Option State :=
  match l with
  | none => routePacket s hdr data none
  | some l =>
    if linkServes s l then some (putOnLink s l false hdr data)
    else if linkServes s (l / 2 * 2 + (1 - l % 2)) then some (putOnLink s (l / 2 * 2 + (1 - l % 2)) false hdr data)
    else routePacket s hdr data none

/-! ### Packets (R256, R257) -/

/-- A packet header (R256). -/
def mkPk (ptype : BitVec 4) (dst src : BitVec 15) (dhub shub : BitVec 2) (seq ack : BitVec 16) (units : Nat)
    (flow : BitVec 12) (status : Err) : BitVec 128 :=
  ptype ++ dst ++ src ++ dhub ++ shub ++ seq ++ ack ++ BitVec.ofNat 6 (units - 1) ++ flow ++ (0 : BitVec 1) ++
    (0 : BitVec 8) ++ status ++ (0 : BitVec 23)

/-- The units of a packet whose header is followed by `n` bytes. -/
def unitsFor (n : Nat) : Nat := (n + 16 + 63) / 64

/-- Bytes padded with zeros to whole units after the 16-byte header. -/
def padUnits (l : List Byte) : List Byte := l ++ List.replicate (unitsFor l.length * 64 - 16 - l.length) 0

/-- A packet's type is that of a request (R257). -/
def isReq (p : Packet) : Bool := decide (1 ≤ (pkPtype p.hdr).toNat ∧ (pkPtype p.hdr).toNat ≤ 5)

/-- A response in the destination's name to request `p` (R269, R279). Such a response carries no `e2e_ack`, and its status, E_LINK_DOWN
or E_STATE, tells so (LOG 23). -/
def answerFor (s : State) (p : Packet) (status : Err) : State :=
  if isReq p then
    let hdr := mkPk 8 (pkSrcPkg p.hdr) (pkDstPkg p.hdr) (pkSrcHub p.hdr) (pkDstHub p.hdr) (pkSeq p.hdr) 0 1 (pkFlow p.hdr) status
    (routePacket s hdr (padUnits []) none).getD s
  else s

/-- A packet that no way leads on for is discarded; a request is answered E_LINK_DOWN (R269). -/
def noWay (s : State) (p : Packet) : State := answerFor s p eLinkDown

/-- A request that a Dormant or Halted-Coolant package does not pass on is answered E_STATE (R279). -/
def dormantAnswer (s : State) (p : Packet) : State := answerFor s p eState

/-! ### Requests (R270, R273) -/

/-- The outgoing stream toward (package, hub); a new one starts at sequence 0 (LOG 23). -/
def outStream (e : E2e) (dst : BitVec 15) (dh : BitVec 2) : OutStream :=
  (e.outs.find? fun o => o.dstPkg == dst && o.dstHub == dh).getD ⟨dst, dh, 0, 0xFFFF, 0xFFFF, 0⟩

/-- Replace an outgoing stream. -/
def putStream (e : E2e) (o : OutStream) : E2e :=
  if e.outs.any (fun x => x.dstPkg == o.dstPkg && x.dstHub == o.dstHub) then
    { e with outs := e.outs.map fun x => if x.dstPkg == o.dstPkg && x.dstHub == o.dstHub then o else x }
  else { e with outs := e.outs ++ [o] }

/-- Request `r` is of the stream toward (package, hub). -/
def ofStream (dst : BitVec 15) (dh : BitVec 2) (r : Req) : Bool := r.dstPkg == dst && r.dstHub == dh

/-- A request of the stream may go: fewer than 4,096 of the stream, and fewer than 16,384 of the hub, have gone and have no response
(R270, R273). -/
def reqFits (e : E2e) (dst : BitVec 15) (dh : BitVec 2) : Bool :=
  decide ((e.reqs.filter fun r => ofStream dst dh r && !r.unsent).length < 4096) &&
    decide ((e.reqs.filter fun r => !r.unsent).length < 16384)

/-- Retained request `r` of hub `h` goes out, by link `via` first, with the `e2e_ack` of its stream as it stands (R256, R272); with no
way on, it is answered E_LINK_DOWN (R269). -/
def launchReq (s : State) (h : Nat) (r : Req) (via : Option Nat) : State :=
  let o := outStream (e2eOf s h) r.dstPkg r.dstHub
  let hdr := putFld r.hdr 58 o.ack
  let s1 := modE2e s h fun e => putStream { e with
    reqs := e.reqs.map fun x => if x == r then { r with hdr := hdr, unsent := false, busy := false, sentNs := s.ns } else x }
    { o with told := o.ack }
  (routeVia s1 via hdr r.data).getD (noWay s1 ⟨hdr, r.data⟩)

/-- Hub `h` has a request of its stream toward hub `dh` of package `dst` (R270, R273): it takes the next sequence number and is
retained; where its stream or the hub is full, it waits. -/
def sendReqTo (s : State) (h : Nat) (dst : BitVec 15) (dh : BitVec 2) (via : Option Nat) (ptype : BitVec 4)
    (flow : BitVec 12) (data : List Byte) (why : ReqFor) : State :=
  let o := outStream (e2eOf s h) dst dh
  let r : Req := { dstPkg := dst, dstHub := dh, seq := o.next
                   hdr := mkPk ptype dst s.place.addr dh (BitVec.ofNat 2 h) o.next o.ack (unitsFor data.length) flow eOk
                   data := padUnits data, for_ := why, sentNs := s.ns, busy := false, unsent := true }
  let s1 := modE2e s h fun e => putStream { e with reqs := e.reqs ++ [r] } { o with next := o.next + 1 }
  if reqFits (e2eOf s h) dst dh && !(e2eOf s h).reqs.any (fun x => ofStream dst dh x && x.unsent) then launchReq s1 h r via else s1

/-- Room came for requests that wait in hub `h`: those that fit go, in their order (R270). -/
def sendWaiting (s : State) (h : Nat) : State :=
  ((e2eOf s h).reqs.filter fun r => r.unsent).foldl (fun s r =>
    if reqFits (e2eOf s h) r.dstPkg r.dstHub then launchReq s h r none else s) s

/-- A request to the hub that the destination names for the stream (LOG 23). -/
def sendReq (s : State) (h : Nat) (dst : BitVec 15) (ptype : BitVec 4) (flow : BitVec 12) (data : List Byte)
    (why : ReqFor) : State :=
  sendReqTo s h dst (Config.dstHub s.place.addr dst flow) none ptype flow data why

/-! ### Responses (R257, R271, R272) -/

/-- A response's code leaves its `e2e_ack` unread (LOG 23). -/
def ackless (err : Err) : Bool := err == eState || err == eLinkDown

/-- The destination has been told the stream's `e2e_ack`. -/
def toldAck (s : State) (h : Nat) (o : OutStream) : State :=
  if o.told = o.ack then s else modE2e s h fun e => putStream e { o with told := o.ack }

/-- A response to the request (`src`, `shub`, `seq`) leaves hub `h` on the RSP channel, with the `e2e_ack` of the hub's own stream
toward the requester (R256, R257). -/
def sendRsp (s : State) (h : Nat) (src : BitVec 15) (shub : BitVec 2) (seq : BitVec 16) (flow : BitVec 12) (err : Err)
    (data : List Byte) : State :=
  let o := outStream (e2eOf s h) src shub
  let s1 := if ackless err then s else toldAck s h o
  (routePacket s1 (mkPk 8 src s.place.addr shub (BitVec.ofNat 2 h) seq o.ack (unitsFor data.length) flow err) (padUnits data)
    none).getD s1

/-- The response to an executed request is retained in its window and sent (R271, R272). -/
def answerReq (s : State) (o : Origin) (err : Err) (data : List Byte) : State :=
  let s1 := modE2e s o.hub.val fun e => { e with wins := e.wins.map fun w =>
    if w.srcPkg == o.pkg && w.srcHub == o.shub then
      { w with done := w.done.map fun d => if d.1 == o.seq then (d.1, some (err, data)) else d }
    else w }
  sendRsp s1 o.hub.val o.pkg o.shub o.seq o.flow err data

/-- The flow of the XFERs of a core's stream (R470), which its envelopes and receipt adds take too (LOG 23). -/
def coreFlow (s : State) (c : CoreId) : BitVec 12 :=
  match (coreOf s c).stream, s.run.image with
  | some st, some im => fld (tget 0 im.xferFlow st.umbel.toNat) 0 12
  | _, _ => Config.unitFlow 1

end Sys2Proof.Machine
end

