-- ==== Sys2Proof/Machine/Operands.lean ====
section
/-! DEFINITION. The number formats: exact values, decoding (R78 to R88), rounding and conversion (R90 to R97), the
accumulate step and the dot products (R100 to R105). A value is exact: a signed dyadic number, an infinity or NaN. -/

namespace Sys2Proof.Machine

/-- A decoded value: NaN, an infinity, or (-1)^neg * m * 2^e (a zero keeps its sign). -/
inductive Val where
  | nan
  | inf (neg : Bool)
  | fin (neg : Bool) (m : Nat) (e : Int)
  deriving DecidableEq, Repr

/-! ### `fmt_flags` (R98) -/

def fFtz : BitVec 8 := 1
def fNanLost : BitVec 8 := 2
def fQ4xBad : BitVec 8 := 4
def fMxNan : BitVec 8 := 8

/-- `m * 2^k`, cut toward zero. -/
def shiftNat (m : Nat) (k : Int) : Nat := if 0 ≤ k then m * 2 ^ k.toNat else m / 2 ^ (-k).toNat

namespace Val

def zero : Val := .fin false 0 0
def isNan : Val → Bool | .nan => true | _ => false
def isInf : Val → Bool | .inf _ => true | _ => false
def isFin : Val → Bool | .fin .. => true | _ => false
def isZero : Val → Bool | .fin _ m _ => m == 0 | _ => false
def isNeg : Val → Bool | .nan => false | .inf n => n | .fin n _ _ => n
def neg : Val → Val | .nan => .nan | .inf n => .inf !n | .fin n m e => .fin (!n) m e
def abs : Val → Val | .nan => .nan | .inf _ => .inf false | .fin _ m e => .fin false m e

/-- `floor(log2 |x|)` of a finite non-zero value. -/
def ilog : Val → Int | .fin _ m e => (Nat.log2 m : Int) + e | _ => 0

/-- `x * 2^k`. -/
def scale (k : Int) : Val → Val | .fin n m e => .fin n m (e + k) | v => v

/-- The signed mantissa at exponent `q`, for `q` at most the value's own. -/
def at_ (q : Int) : Val → Int
  | .fin n m e => let x : Int := (shiftNat m (e - q) : Nat); if n then -x else x
  | _ => 0

def exp : Val → Int | .fin _ _ e => e | _ => 0

/-- The value `i * 2^q`; a zero is +0. -/
def ofInt (i : Int) (q : Int) : Val := .fin (decide (i < 0)) i.natAbs q

end Val

/-- The exact product of two values (R100). -/
def mulVal : Val → Val → Val
  | .nan, _ => .nan
  | _, .nan => .nan
  | .inf a, .inf b => .inf (a != b)
  | .inf a, .fin b m _ => if m = 0 then .nan else .inf (a != b)
  | .fin a m _, .inf b => if m = 0 then .nan else .inf (a != b)
  | .fin a m e, .fin b n f => .fin (a != b) (m * n) (e + f)

/-- The exact sum of a list: NaN rules of R81 and R104; a zero sum is -0 only when every term is -0 (R103). -/
def sumVals (l : List Val) : Val :=
  if l.any Val.isNan then .nan
  else
    let p := l.any fun v => v.isInf && !v.isNeg
    let n := l.any fun v => v.isInf && v.isNeg
    if p && n then .nan else if p then .inf false else if n then .inf true
    else
      let q := l.foldl (fun q v => if v.isZero then q else min q v.exp) 0
      let i := l.foldl (fun i v => i + v.at_ q) 0
      if i = 0 then .fin (!l.isEmpty && l.all (fun v => v.isNeg)) 0 0 else .ofInt i q

/-- The exact sum of two values. -/
def addVal (a b : Val) : Val := sumVals [a, b]

/-- `a < b` for values that are not NaN. -/
def ltVal (a b : Val) : Bool :=
  match a, b with
  | .inf n, .inf m => n && !m
  | .inf n, _ => n
  | _, .inf m => !m
  | _, _ => match addVal a b.neg with
    | .fin n m _ => n && m != 0
    | _ => false

/-- The larger value: NaN when either is NaN; +0 above -0 (R223). -/
def maxVal (a b : Val) : Val :=
  if a.isNan || b.isNan then .nan
  else if a.isZero && b.isZero then (if a.isNeg then b else a)
  else if ltVal a b then b else a

/-- The smaller value: NaN when either is NaN; -0 below +0 (R223). -/
def minVal (a b : Val) : Val :=
  if a.isNan || b.isNan then .nan
  else if a.isZero && b.isZero then (if a.isNeg then a else b)
  else if ltVal b a then b else a

/-! ### Formats (R76, R79, R80) -/

/-- A floating-point format: exponent bits, mantissa bits, bias, the codes of the largest normal, of infinity (where it
has one) and of the canonical NaN (where it has one), and whether `ftz` applies to it (R97). -/
structure FFmt where
  eb   : Nat
  mb   : Nat
  bias : Nat
  maxC : Nat
  infC : Option Nat
  nanC : Option Nat
  ftz  : Bool
  deriving DecidableEq, Repr

def fE2M1 : FFmt := ⟨2, 1, 1, 0x7, none, none, false⟩
def fE3M2 : FFmt := ⟨3, 2, 3, 0x1F, none, none, false⟩
def fE4M3 : FFmt := ⟨4, 3, 7, 0x7E, none, some 0x7F, false⟩
def fE5M2 : FFmt := ⟨5, 2, 15, 0x7B, some 0x7C, some 0x7E, false⟩
def fBF16 : FFmt := ⟨8, 7, 127, 0x7F7F, some 0x7F80, some 0x7FC0, true⟩
def fFP16 : FFmt := ⟨5, 10, 15, 0x7BFF, some 0x7C00, some 0x7E00, true⟩
def fFP32 : FFmt := ⟨8, 23, 127, 0x7F7FFFFF, some 0x7F800000, some 0x7FC00000, true⟩

/-- The float format of a code (R76). -/
def ffmt : Nat → Option FFmt
  | 2 => some fE2M1
  | 3 => some fE3M2
  | 4 => some fE4M3
  | 5 => some fE5M2
  | 6 => some fBF16
  | 7 => some fFP16
  | 8 => some fFP32
  | _ => none

/-- Stored bits per element in a packed row (R76, R82): E3M2 counts 8. -/
def fmtBits : Nat → Nat
  | 0 => 4
  | 2 => 4
  | 9 => 4
  | 1 => 8
  | 3 => 8
  | 4 => 8
  | 5 => 8
  | 6 => 16
  | 7 => 16
  | 8 => 32
  | _ => 0

/-- The class of a format (R57, R76): 4, 8, 16; 0 for FP32 and for reserved codes. -/
def fmtClass (f : Nat) : Nat := if f ≤ 9 ∧ f ≠ 8 then fmtBits f else 0

/-- Bytes of `n` elements of a format (R82). -/
def fmtBytes (f n : Nat) : Nat := fmtBits f * n / 8

/-- The value of a float code (R79, R80). -/
def decodeF (f : FFmt) (c : Nat) : Val :=
  let m := c % 2 ^ f.mb
  let e := c / 2 ^ f.mb % 2 ^ f.eb
  let n := c / 2 ^ (f.eb + f.mb) % 2 == 1
  let top := e == 2 ^ f.eb - 1
  if top && f.infC.isSome then (if m = 0 then .inf n else .nan)
  else if top && f.nanC.isSome && m == 2 ^ f.mb - 1 then .nan
  else if e = 0 then .fin n m (1 - (f.bias : Int) - f.mb)
  else .fin n (2 ^ f.mb + m) ((e : Int) - f.bias - f.mb)

/-- A float code is subnormal. -/
def isSubF (f : FFmt) (c : Nat) : Bool := c / 2 ^ f.mb % 2 ^ f.eb == 0 && c % 2 ^ f.mb != 0

/-- The code of a finite value the format holds exactly. -/
def encodeF (f : FFmt) : Val → Nat
  | .fin n m e =>
    let s := if n then 2 ^ (f.eb + f.mb) else 0
    if m = 0 then s
    else
      let E : Int := (Nat.log2 m : Int) + e
      let lo : Int := 1 - (f.bias : Int)
      if E < lo then s + shiftNat m (e - (lo - f.mb))
      else s + (E + f.bias).toNat * 2 ^ f.mb + (shiftNat m (e - (E - f.mb)) - 2 ^ f.mb)
  | _ => 0

/-- An operand as an engine reads it: under `ftz`, a subnormal of FP32, BF16 or FP16 is a zero of its sign (R97). -/
def readF (f : FFmt) (ftz : Bool) (c : Nat) : Val × BitVec 8 :=
  if ftz && f.ftz && isSubF f c then (.fin (c / 2 ^ (f.eb + f.mb) % 2 == 1) 0 0, fFtz) else (decodeF f c, 0)

/-- An element's value by format code (R78, R79); `mxs` gives INT8 its factor 2^-6. -/
def readElem (f : Nat) (mxs ftz : Bool) (c : Nat) : Val × BitVec 8 :=
  match f with
  | 0 => (.ofInt (BitVec.ofNat 4 c).toInt 0, 0)
  | 1 => (.ofInt (BitVec.ofNat 8 c).toInt (if mxs then -6 else 0), 0)
  | _ => match ffmt f with
    | some ff => readF ff ftz c
    | none => (.nan, 0)

/-- The value of an E8M0 scale byte (R83). -/
def e8m0 (b : Byte) : Val := if b = 0xFF then .nan else .fin false 1 ((b.toNat : Int) - 127)

/-- An element under a block scale (R84). -/
def scaled (b : Byte) (v : Val) : Val := mulVal (e8m0 b) v

/-! ### Storage (R82) -/

/-- Element `i` of the row stored in `l`. -/
def codeAt (f : Nat) (l : List Byte) (i : Nat) : Nat :=
  match f with
  | 3 => leNat ((l.drop (i / 16 * 16)).take 12) / 2 ^ (6 * (i % 16)) % 64
  | _ => match fmtBits f with
    | 4 => (l.getD (i / 2) 0).toNat / (if i % 2 = 0 then 1 else 16) % 16
    | 8 => (l.getD i 0).toNat
    | 16 => leNat ((l.drop (2 * i)).take 2)
    | 32 => leNat ((l.drop (4 * i)).take 4)
    | _ => 0

/-- The bytes of a number, lowest first. -/
def natBytes : Nat → Nat → List Byte
  | 0, _ => []
  | n + 1, x => BitVec.ofNat 8 x :: natBytes n (x / 256)

/-- The number formed by fields of width `w`, the first lowest. -/
def packFields (w : Nat) : List Nat → Nat
  | [] => 0
  | c :: t => c % 2 ^ w + 2 ^ w * packFields w t

/-- The storage of a row of codes (R82); E3M2 in units of 16 elements, its padding zero. -/
def storeCodes (f : Nat) (l : List Nat) : List Byte :=
  match f with
  | 3 => (List.range ((l.length + 15) / 16)).flatMap fun u =>
      natBytes 12 (packFields 6 ((l.drop (16 * u)).take 16)) ++ [0, 0, 0, 0]
  | _ => natBytes (fmtBytes f l.length) (packFields (fmtBits f) l)

/-! ### Rounding (R91 to R96) -/

/-- How a conversion chooses between neighbours: to nearest with ties away (R92), or by a random word (R96). -/
inductive RMode where
  | nearest
  | random (u : BitVec 32)
  deriving DecidableEq, Repr

/-- `num / den` to an integer (R92, R96). -/
def roundQ (r : RMode) (num den : Nat) : Nat :=
  match r with
  | .nearest => (2 * num + den) / (2 * den)
  | .random u => num / den + (if u.toNat < num % den * 2 ^ 32 / den then 1 else 0)

/-- `floor(log2 (num / den))` of a positive quotient. -/
def ilogQ (num den : Nat) : Int :=
  let k : Int := (Nat.log2 num : Int) - Nat.log2 den
  if shiftNat den (if 0 ≤ k then k else 0) ≤ shiftNat num (if 0 ≤ k then 0 else -k) then k else k - 1

/-- The quotient `num / den * 2^e` rounded at the precision of `f`, the exponent range unbounded above (R92). -/
def roundMag (f : FFmt) (r : RMode) (neg : Bool) (num den : Nat) (e : Int) : Val :=
  if num = 0 then .fin neg 0 0
  else
    let E := ilogQ num den + e
    let lo : Int := 1 - (f.bias : Int)
    let q := (if E < lo then lo else E) - f.mb
    let k := e - q
    .fin neg (roundQ r (shiftNat num (if 0 ≤ k then k else 0)) (den * 2 ^ (-k).toNat)) q

/-- What a conversion gives: the code, the value it stands for, its flags (R98), and whether it counts as overflowed or
vanished (R99). `big`: the rounded magnitude of a finite source exceeded the largest normal (R93). -/
structure Conv where
  code  : Nat
  val   : Val
  fl    : BitVec 8
  ovf   : Bool
  van   : Bool
  big  : Bool
  deriving DecidableEq, Repr

/-- The largest normal of a format with a sign. -/
def maxF (f : FFmt) (neg : Bool) : Val := match decodeF f f.maxC with | .fin _ m e => .fin neg m e | v => v

/-- Code of a value the format can hold: finite, infinite or NaN. -/
def codeOf (f : FFmt) : Val → Nat
  | .nan => f.nanC.getD 0
  | .inf n => f.infC.getD 0 + (if n then 2 ^ (f.eb + f.mb) else 0)
  | v => encodeF f v

/-- Conversion of a finite quotient to a float format (R91, R93, R97, R99). -/
def convQ (f : FFmt) (r : RMode) (sat ftz : Bool) (neg : Bool) (num den : Nat) (e : Int) : Conv :=
  let v := roundMag f r neg num den e
  let mx := maxF f false
  if ltVal mx v.abs then
    let o := if sat || f.infC.isNone then maxF f neg else .inf neg
    ⟨codeOf f o, o, 0, true, false, true⟩
  else if ftz && f.ftz && !v.isZero && decide (v.ilog < 1 - (f.bias : Int)) then
    ⟨codeOf f (.fin neg 0 0), .fin neg 0 0, fFtz, false, num != 0, false⟩
  else ⟨codeOf f v, v, 0, false, v.isZero && num != 0, false⟩

/-- Conversion to a float format (R90 to R93). -/
def convF (f : FFmt) (r : RMode) (sat ftz : Bool) : Val → Conv
  | .nan => match f.nanC with
    | some c => ⟨c, .nan, 0, false, false, false⟩
    | none => ⟨0, Val.zero, fNanLost, false, false, false⟩
  | .inf n =>
    match f.infC, f.nanC with
    | some _, _ => ⟨codeOf f (.inf n), .inf n, 0, false, false, false⟩
    | none, some c => if sat then ⟨codeOf f (maxF f n), maxF f n, 0, false, false, false⟩
      else ⟨c, .nan, 0, false, false, false⟩
    | none, none => ⟨codeOf f (maxF f n), maxF f n, 0, false, false, false⟩
  | .fin n m e => if 0 ≤ e then convQ f r sat ftz n (m * 2 ^ e.toNat) 1 0 else convQ f r sat ftz n m 1 e

/-- Conversion to an integer of `w` bits (R93, R94). -/
def convI (w : Nat) (r : RMode) (sat : Bool) : Val → Int × Conv
  | .nan => (0, ⟨0, Val.zero, fNanLost, false, false, false⟩)
  | .inf n =>
    let i : Int := if n then -(2 ^ (w - 1) : Nat) else (2 ^ (w - 1) - 1 : Nat)
    (i, ⟨(BitVec.ofInt w i).toNat, .ofInt i 0, 0, false, false, false⟩)
  | .fin n m e =>
    let k := roundQ r (shiftNat m (if 0 ≤ e then e else 0)) (2 ^ (-e).toNat)
    let i : Int := if n then -(k : Int) else k
    let lo : Int := -(2 ^ (w - 1) : Nat)
    let hi : Int := (2 ^ (w - 1) - 1 : Nat)
    let out := decide (i < lo) || decide (hi < i)
    let j := if out then (if sat then (if i < lo then lo else hi) else (BitVec.ofInt w i).toInt) else i
    (j, ⟨(BitVec.ofInt w j).toNat, .ofInt j 0, 0, out, m != 0 && j == 0 && !out, out⟩)

/-- Conversion to an element format by code, unscaled (R90). -/
def convElem (f : Nat) (r : RMode) (sat ftz : Bool) (v : Val) : Conv :=
  match f with
  | 0 => (convI 4 r sat v).2
  | 1 => (convI 8 r sat v).2
  | _ => match ffmt f with
    | some ff => convF ff r sat ftz v
    | none => ⟨0, .nan, 0, false, false, false⟩

/-- A conversion of a source that was read with flags `fl`: one that was not zero until its own flush, and is produced as zero, counts
as vanished too (R97, R99). -/
def fromRead (fl : BitVec 8) (c : Conv) : Conv := { c with van := c.van || (bit fl 0 && c.val.isZero) }

/-- Round to FP32 (R92). -/
def round32 (ftz : Bool) (v : Val) : Conv := convF fFP32 .nearest false ftz v

/-- The FP32 value of a word as an engine reads it. -/
def read32 (ftz : Bool) (w : BitVec 32) : Val × BitVec 8 := readF fFP32 ftz w.toNat

/-- `emax` of an element format (R85). -/
def emaxOf : Nat → Int
  | 2 => 2
  | 3 => 4
  | 4 => 8
  | 5 => 15
  | _ => 0

/-- Conversion of a block into an MX-scaled format: scale byte, conversions and flags (R85). -/
def convMx (f : Nat) (ftz : Bool) (l : List Val) : Byte × List Conv × BitVec 8 :=
  if l.any (fun v => v.isNan || v.isInf) then
    (0xFF, l.map (fun _ => ⟨0, Val.zero, 0, false, false, false⟩), fMxNan)
  else if l.all Val.isZero then (0x7F, l.map (convElem f .nearest true ftz), 0)
  else
    let top := (l.filter fun v => !v.isZero).foldl (fun (a : Option Int) v =>
      match a with | none => some v.ilog | some x => some (max x v.ilog)) none
    let e0 := top.getD 0 - emaxOf f
    let E := if e0 < -127 then -127 else if 127 < e0 then 127 else e0
    (BitVec.ofInt 8 (E + 127), l.map (fun v => convElem f .nearest true ftz (v.scale (-E + if f = 1 then 6 else 0))), 0)

/-! ### Q4X (R86 to R88) -/

/-- The 12-byte header of a group: scale, zero point, escape count and side list, with the flush of R87 (`sfl`: that of the
scale). -/
structure Q4Hdr where
  scale : Val
  zp    : Int
  esc   : Nat
  side  : List (Val × BitVec 8)
  bad   : Bool
  sfl   : BitVec 8
  fl    : BitVec 8
  deriving DecidableEq, Repr

/-- Read a header (R86, R88). -/
def q4Hdr (ftz : Bool) (l : List Byte) : Q4Hdr :=
  let r := fun i => readF fBF16 ftz (leNat ((l.drop i).take 2))
  let sc := r 0
  let side := [r 4, r 6, r 8, r 10]
  let esc := (l.getD 3 0).toNat
  let bad := sc.1.isNan || sc.1.isInf || decide (4 < esc)
  { scale := sc.1, zp := (l.getD 2 0).toInt, esc := esc, side := side, bad := bad, sfl := sc.2,
    fl := sc.2 ||| (if bad then fQ4xBad else 0) }

/-- The element of code `c` below 15 (R87): a zero value is +0; a step size read as zero is a flush of every element that uses it. -/
def q4Elem (h : Q4Hdr) (c : Nat) : Val × BitVec 8 :=
  let d : Int := (c : Int) - h.zp
  let v := mulVal (.ofInt d 0) h.scale
  if h.bad then (.nan, 0) else if v.isZero then (Val.zero, if d = 0 then 0 else h.sfl) else (v, 0)

/-- The `n`-th escape of a group (R87, R88). -/
def q4Esc (h : Q4Hdr) (n : Nat) : Val × BitVec 8 :=
  if h.bad then (.nan, 0) else if n < h.esc then h.side.getD n (.nan, 0) else (.nan, fQ4xBad)

/-- Decode codes in ascending order from escape position `n` (R87, R88): each value with its flags. -/
def q4Codes (h : Q4Hdr) : Nat → List Nat → List (Val × BitVec 8)
  | _, [] => []
  | n, c :: t => if c = 15 then q4Esc h n :: q4Codes h (n + 1) t else q4Elem h c :: q4Codes h n t

/-- The flags of a list of values as read. -/
def flagsOf (l : List (Val × BitVec 8)) : BitVec 8 := l.foldl (fun a v => a ||| v.2) 0

/-! ### Accumulation (R102 to R105) -/

/-- A K-group's sum under Aligned (R102). -/
def alignedGroup (p : List Val) : Val :=
  if p.any (fun v => !v.isFin) then sumVals (p.filter fun v => !v.isFin)
  else if p.all Val.isZero then .fin (p.all Val.isNeg) 0 0
  else
    let E := (p.filter fun v => !v.isZero).foldl (fun (a : Option Int) v =>
      match a with | none => some v.ilog | some x => some (max x v.ilog)) none
    let q := E.getD 0 - 39
    .ofInt (p.foldl (fun g v => g + v.at_ q) 0) q

/-- What an accumulate step gives: the two words, flags, and whether a rounding overflowed from finite terms. -/
structure AccR where
  a    : Val
  c    : Val
  fl   : BitVec 8
  big : Bool
  deriving DecidableEq, Repr

/-- The accumulate step (R103, R104). `a`, `c` are as read, already flushed. -/
def accumulate (ftz : Bool) (a c G : Val) : AccR :=
  if !G.isFin || !a.isFin || c.isNan then
    let s := round32 ftz (addVal a G)
    ⟨s.val, Val.zero, s.fl, false⟩
  else
    let g := round32 ftz G
    let r := addVal G g.val.neg
    let s := addVal a g.val
    let a' := round32 ftz s
    if g.big || a'.big then ⟨if a'.big then a'.val else g.val, Val.zero, g.fl ||| a'.fl, true⟩
    else
      let t := addVal s a'.val.neg
      let c' := round32 ftz (sumVals [c, t, r])
      ⟨a'.val, c'.val, g.fl ||| a'.fl ||| c'.fl, c'.big⟩

/-- The accumulate step outside MMA and MV, on FP32 words (R104): an overflow is the infinity with compensation +0. -/
def accumulateW (ftz : Bool) (a c : BitVec 32) (G : Val) : BitVec 32 × BitVec 32 × BitVec 8 :=
  let x := read32 ftz a
  let y := read32 ftz c
  let r := accumulate ftz x.1 y.1 G
  (BitVec.ofNat 32 (codeOf fFP32 r.a), BitVec.ofNat 32 (codeOf fFP32 (if r.a.isInf then Val.zero else r.c)),
    x.2 ||| y.2 ||| r.fl)

/-- A K-group under Ledger (R105): product by product. A product that rounds to an infinity overflows only into an entry that is still
finite (DEDUCED from R104 and R108: "from finite inputs", LOG 87). -/
def ledgerGroup (ftz : Bool) : AccR → List Val → AccR
  | s, [] => s
  | s, p :: t =>
    if s.big then s
    else
      let g := round32 ftz p
      if g.big && s.a.isFin && !s.c.isNan then ⟨g.val, Val.zero, s.fl ||| g.fl, true⟩
      else
        let n := accumulate ftz s.a s.c g.val
        ledgerGroup ftz ⟨n.a, n.c, s.fl ||| g.fl ||| n.fl, n.big⟩ t

/-- The value of an FP32 entry (R107). -/
def entryValue (ftz : Bool) (a c : BitVec 32) : Conv :=
  let x := read32 ftz a
  let y := read32 ftz c
  let r := round32 ftz (addVal x.1 y.1)
  { r with fl := r.fl ||| x.2 ||| y.2 }

/-- An integer shifted right by `n` bits, to nearest with ties away from zero (R110). -/
def shiftRound (i : Int) (n : Nat) : Int :=
  let k := (2 * i.natAbs + 2 ^ n) / 2 ^ (n + 1)
  if i < 0 then -(k : Int) else k

end Sys2Proof.Machine
end

