-- ==== Sys2Proof/Machine/Flags.lean ====
section
/-! DEFINITION. The flags and counts that arithmetic leaves: `fmt_flags` of a context (R98), the overflow and vanish
counts of a stage (R99, R195), and the tag of a set (R66). -/

namespace Sys2Proof.Machine

/-- What arithmetic leaves beside its results: flags, and one entry per overflowed or vanished value, by format code. -/
structure Eff where
  fl  : BitVec 8
  ovf : List Nat
  van : List Nat
  deriving DecidableEq, Repr

def Eff.none : Eff := ⟨0, [], []⟩

/-- Both effects. -/
def Eff.and (a b : Eff) : Eff := ⟨a.fl ||| b.fl, a.ovf ++ b.ovf, a.van ++ b.van⟩

/-- Only flags. -/
def Eff.flags (f : BitVec 8) : Eff := ⟨f, [], []⟩

/-- The effect of one conversion into format `f` (R99). -/
def Conv.eff (c : Conv) (f : Nat) : Eff := ⟨c.fl, if c.ovf then [f] else [], if c.van then [f] else []⟩

/-- The effects of several conversions into format `f`. -/
def convsEff (f : Nat) (l : List Conv) : Eff := l.foldl (fun e c => e.and (c.eff f)) Eff.none

/-- Set flags of a context; hardware's set wins (R6, R98). -/
def setFlags (s : State) (ctx : BitVec 6) (f : BitVec 8) : State :=
  if f = 0 then s else modCtx s ctx.toNat fun c => { c with flags := c.flags ||| f }

/-- Add 1 to counter `i` of the statistics half of stage `g` for step `k` (R195). -/
def addStat (s : State) (g : Nat) (k : BitVec 40) (i : Nat) : State :=
  let key := g * 2 + k.toNat % 2
  let h := tget [] s.stats key
  { s with stats := tput [] s.stats key (tput 0 h i (satInc (tget 0 h i))) }

/-- The statistics half of step `k` still stands: a later step's STEP_END has not reset it for another (R195). -/
def statStands (s : State) (k : BitVec 40) : Bool := k == s.run.step || k + 1 == s.run.step

/-- Count the effects of arithmetic for stage `g` in step `k`. -/
def countEff (s : State) (g : Nat) (k : BitVec 40) (e : Eff) : State :=
  if statStands s k then
    let s1 := e.ovf.foldl (fun s f => addStat s g k f) s
    e.van.foldl (fun s f => addStat s g k (16 + f)) s1
  else s

/-- A non-finite gradient of stage `g` in step `k` is counted (R195). -/
def countGradNf (s : State) (g : Nat) (k : BitVec 40) : State := if statStands s k then addStat s g k 32 else s

/-- The step of core `c`'s stream; the current step when it has none. -/
def coreStep (s : State) (c : CoreId) : BitVec 40 :=
  match (coreOf s c).stream with | some st => st.step | none => s.run.step

/-- Effects of a core's arithmetic: flags to its stream's owner, conversion counts to the stage that holds it. -/
def coreEff (s : State) (c : CoreId) (e : Eff) : State :=
  let s1 := setFlags s (coreCtx s c) e.fl
  match stageUmbel s c.toNat with
  | some u => countEff s1 (umStage u).toNat (coreStep s c) e
  | none => s1

/-- `ftz` of the owner of core `c`'s stream (R97). -/
def coreFtz (s : State) (c : CoreId) : Bool := cfgFtz (ctxOf s (coreCtx s c).toNat).cfg

/-! ### Tags (R66) -/

def tagKind (t : BitVec 8) : BitVec 2 := fld t 6 2
def tagRepeats (t : BitVec 8) : BitVec 2 := fld t 4 2
def tagOvf (t : BitVec 8) : Bool := bit t 3
def tagAudit (t : BitVec 8) : Bool := bit t 2

/-- A tag. -/
def mkTag (kind : BitVec 2) (repeats : Nat) (ovf audit : Bool) : BitVec 8 :=
  kind ++ BitVec.ofNat 2 repeats ++ BitVec.ofBool ovf ++ BitVec.ofBool audit ++ (0 : BitVec 2)

end Sys2Proof.Machine
end

