-- ==== Sys2Proof/Machine/FaultOps.lean ====
section
/-! DEFINITION. Hardware faults as every unit meets them: the one retry, transient and lasting faults, failure warnings
and the repair record's queue (R320, R397 to R401, R405). -/

namespace Sys2Proof.Machine

/-! ### Records in two copies of the flash (R404, R422) -/

/-- The copy in force: of the valid ones, the one with the higher sequence number. -/
def newest {α : Type} (c : Copies α) : Option (BitVec 32 × α) :=
  match c.a, c.b with
  | some x, some y => if x.1.toNat < y.1.toNat then some y else some x
  | some x, none => some x
  | none, y => y

/-- What the copy in force holds. -/
def inCopy {α : Type} (c : Copies α) : Option α := (newest c).map Prod.snd

/-- The other copy is written, with the next sequence number. -/
def writeCopy {α : Type} (c : Copies α) (v : α) : Copies α :=
  let n : BitVec 32 := match newest c with | some x => x.1 + 1 | none => 0
  match c.a, c.b with
  | some x, some y => if x.1.toNat < y.1.toNat then { c with a := some (n, v) } else { c with b := some (n, v) }
  | some _, none => { c with b := some (n, v) }
  | none, _ => { c with a := some (n, v) }

/-- The copies whose CRC does not hold are lost; they are numbered from `k`. -/
def dropBad {α : Type} (bad : List Nat) (k : Nat) (c : Copies α) : Copies α :=
  { a := if bad.contains k then none else c.a, b := if bad.contains (k + 1) then none else c.b }

/-- The entries of the repair record in force; empty where no copy is valid. -/
def repairs (h : Shordo) : List (BitVec 128) := (inCopy h.repair).getD []

/-- The keys of the key store in force (R423). -/
def keyStore (h : Shordo) : List Nat := (inCopy h.keys).getD []

/-- A copy of the repair record as the flash holds it (R404): magic, sequence number, entry count, CRC-32 over the copy with its own bytes
zero, 16 reserved bytes, the entries. -/
def repairBytes (x : BitVec 32 × List (BitVec 128)) : List Byte :=
  let head := leBytes 4 (0x52524543 : BitVec 32) ++ leBytes 4 x.1 ++ leBytes 4 (BitVec.ofNat 32 x.2.length)
  let rest := List.replicate 16 0 ++ x.2.flatMap fun e => leBytes 16 e
  head ++ leBytes 4 (Config.crc32 (head ++ List.replicate 4 0 ++ rest)) ++ rest

/-! ### Channels (R405) -/

/-- The kind of a channel. -/
def chKind (c : BitVec 32) : Nat := (fld c 24 8).toNat
/-- Bits [23:18] of its location: a site, tile or hub pair. -/
def chSite (c : BitVec 32) : Nat := (fld c 18 6).toNat
/-- Bits [17:10]: a physical cluster, or a rail group. -/
def chCluster (c : BitVec 32) : Nat := (fld c 10 8).toNat
/-- Bits [9:5]: a physical core. -/
def chCore (c : BitVec 32) : Nat := (fld c 5 5).toNat

/-! ### Lost cores and clusters of a site (R15) -/

/-- The retired cores of site `n`: (physical cluster, physical core). -/
def coresGone (r : List (BitVec 32)) (n : Nat) : List (Nat × Nat) :=
  (r.filter fun c => chKind c == 1 && chSite c == n).map fun c => (chCluster c, chCore c)

/-- The lost clusters of site `n` (R15): retired, or with two retired cores. -/
def clustersGone (r : List (BitVec 32)) (n : Nat) : List Nat :=
  let k := coresGone r n
  (((r.filter fun c => chKind c == 2 && chSite c == n).map chCluster) ++
    ((k.map Prod.fst).filter fun c => decide (2 ≤ (k.filter fun x => x.1 == c).length))).dedup

/-- The lost clusters of site `n` that a spare must replace, in ascending order, and the spares that may. -/
def needSpares (lost : List Nat) : List Nat := (List.range 160).filter fun c => lost.contains c
def haveSpares (lost : List Nat) : List Nat := ((List.range 10).map (· + 160)).filter fun c => !lost.contains c

/-- Site `n` needs more than its spare clusters (R15). -/
def sparesShort (r : List (BitVec 32)) (n : Nat) : Bool :=
  let lost := clustersGone r n
  !lost.isEmpty && decide ((haveSpares lost).length < (needSpares lost).length)

/-! ### Warnings, counts and records -/

/-- A failure warning (R320): posted with its row and channel, and seen by the next cut (R321). -/
def warn (s : State) (src : BitVec 32) (pm : Pm) (row : Nat) (ch : BitVec 32) : State :=
  modCkpt (post s src pm evCkptWarning none eOk [(8, row), (32, ch.toNat)]) fun k =>
    { k with warnSeen := true, warnRow := BitVec.ofNat 8 row }

/-- The unsettled steps (R201): from the lowest not settled to the current one. -/
def unsettled (s : State) : List (BitVec 40) :=
  (List.range ((s.run.step - s.run.settled).toNat + 1)).map fun i => s.run.settled + BitVec.ofNat 40 i

/-- `step_bad` of every unsettled step (R401), while a schedule is held or runs. -/
def markUnsettled (s : State) : State :=
  if s.sched = .running ∨ s.sched = .quiesced then (unsettled s).foldl markStep s else s

/-- A corrected error on a channel (R399): eight within one second are a failure warning (row 1 of R320). -/
def correctedError (s : State) (src : BitVec 32) (pm : Pm) (ch : BitVec 32) : State :=
  let hits := ((tget [] s.sh.warnHits ch.toNat).filter fun t => s.ns < t + 1000000000) ++ [s.ns]
  let s1 := modSh s fun x => { x with chanCorr := tput 0 x.chanCorr ch.toNat (tget 0 x.chanCorr ch.toNat + 1),
                                      warnHits := tput [] x.warnHits ch.toNat (if hits.length < 8 then hits else []) }
  if hits.length < 8 then s1 else warn s1 src pm 1 ch

/-- A transient fault (R398): counted and logged. -/
def transientFault (s : State) (src : BitVec 32) (pm : Pm) (ch : BitVec 32) (cause : BitVec 8) : State :=
  let n := tget 0 s.sh.chanTrans ch.toNat + 1
  postFault (modSh s fun x => { x with chanTrans := tput 0 x.chanTrans ch.toNat n }) false src pm (fld ch 24 8)
    (fld ch 0 24) cause eOk n false

/-- A retirement is queued for the repair record unless the channel is already retired (R398, R404, R406), and is a
failure warning (row 4 of R320). -/
def recordRetired (s : State) (src : BitVec 32) (pm : Pm) (ch : BitVec 32) (err : Err) : State :=
  if s.sh.retired.contains ch then s
  else
    let e : BitVec 128 := ch ++ err ++ (0 : BitVec 24) ++ pm
    warn (modSh s fun x => { x with retired := x.retired ++ [ch], repairQ := x.repairQ ++ [e] }) src pm 4 ch

/-- A lasting fault reported by fault.retired (R398). -/
def lastingFault (s : State) (src : BitVec 32) (pm : Pm) (ch : BitVec 32) (cause : BitVec 8) (err : Err)
    (spared : Bool) : State :=
  recordRetired (postFault s true src pm (fld ch 24 8) (fld ch 0 24) cause err (tget 0 s.sh.chanTrans ch.toNat) spared)
    src pm ch err

/-- An adder lane's residues disagree (R302): the repeat agrees, and the fault is transient, counted and logged; or the lane is
retired. -/
def laneFault (s : State) (src : BitVec 32) (pm : Pm) (ctx : BitVec 6) (ch : BitVec 32) (again : Bool) : State :=
  if s.sh.retired.contains ch then s
  else if again then recordRetired (post s src pm evCollLaneRetired (some ctx) eRetired []) src pm ch eRetired
  else post (modSh s fun x => { x with chanTrans := tput 0 x.chanTrans ch.toNat (tget 0 x.chanTrans ch.toNat + 1) }) src pm
    evCollResidue (some ctx) eOk []

/-- The channel of a core (R405). -/
def coreChannel (s : State) (c : CoreId) : BitVec 32 :=
  channel 1 (siteOfDie s (dieOf c) * 2 ^ 18 + physCluster s c * 2 ^ 10 + physCore s c * 2 ^ 5)

/-- The channel of a cluster (R405). -/
def clusterChannel (s : State) (die cl : Nat) : BitVec 32 :=
  channel 2 (siteOfDie s die * 2 ^ 18 + physCluster s (BitVec.ofNat 17 (die * 4096 + cl * 16)) * 2 ^ 10)

/-- Core `c` lies in a used umbel of the loaded image (R402). -/
def coreUsed (s : State) (c : CoreId) : Bool := (umbels s).any fun e => umUsed e.2 && umHas e.2 c.toNat

/-- The cores of a logical cluster. -/
def clusterCores (die cl : Nat) : List CoreId := (List.range 16).map fun i => BitVec.ofNat 17 (die * 4096 + cl * 16 + i)

/-- The cluster of core `c` already uses its spare core, physical core 16, or a substitution of one of its cores is asked for
(R15). -/
def spareUsed (s : State) (c : CoreId) : Bool :=
  (clusterCores (dieOf c) (c.toNat / 16 % 256)).any fun x =>
    physCore s x == 16 || s.sh.spareReq.contains (coreChannel s x) || s.sh.spareLate.contains (coreChannel s x)

/-- The lowest spare cluster of the die that is neither lost nor in use; physical clusters 160 to 169 are the spares (R12, R15). -/
def freeSpareCluster (s : State) (die : Nat) : Option Nat :=
  (haveSpares (clustersGone s.sh.retired (siteOfDie s die))).find? fun p =>
    !((List.range 160).any fun j => tget j s.sh.spareCl (die * 256 + j) == p)

/-- With channel `ch` lost too, the die needs more than its 10 spare clusters (R15). -/
def dieShort (s : State) (die : Nat) (ch : BitVec 32) : Bool := sparesShort (ch :: s.sh.retired) (siteOfDie s die)

/-- Every cell of `n` bytes from `a` goes back to zero. -/
def zeroMem (s : State) (a n : Nat) : State :=
  { s with mem := s.mem.filter fun e => !(decide (a ≤ e.1) && decide (e.1 < a + n)) }

/-- A core takes what the loader wrote: instruction store and envelope block; the rest is as after start-up (R403, R474). -/
def loadCore (s : State) (im : Image) (c : CoreId) : State :=
  let s1 := zeroMem (zeroMem s (isAddr c 0) isSize) (spAddr c 0) spSize
  let words := (im.streams.filter fun e => e.1 / 2048 == c.toNat).map fun e => (e.1 % 2048, e.2)
  let s2 := words.foldl (fun s w => wrMem s (isAddr c (8 * w.1)) (leBytes 8 w.2)) s1
  let s3 := setCore s2 c Core.reset
  modPort s3 c fun p => { Port.reset with
    blk := tget ⟨0, []⟩ im.envBlocks c.toNat, bankStall := p.bankStall, envSent := p.envSent, envAccepted := p.envAccepted,
    envRetries := p.envRetries, dlReceived := p.dlReceived, dlIssued := p.dlIssued, corrected := p.corrected,
    transient := p.transient }

/-- A core or cluster takes its loaded contents, where an image is loaded. -/
def reloadCore (s : State) (c : CoreId) : State :=
  match s.run.image with
  | some im => loadCore s im c
  | none => modPort (setCore s c Core.reset) c fun p => { p with xfers := [], outbox := [], slots := [], pillar := [] }

/-- The core a substitution request names, and whether it asks for the whole cluster. -/
def reqCore (s : State) (ch : BitVec 32) : Option (CoreId × Bool) :=
  ((s.cores.map fun k => (BitVec.ofNat 17 k.1 : CoreId)).findSome? fun c =>
    if coreChannel s c == ch then some (c, false)
    else if clusterChannel s (dieOf c) (c.toNat / 16 % 256) == ch then some (c, true) else none)

/-- The core of a request, or some core of its cluster, lies in a used umbel (R402). -/
def reqUsed (s : State) (x : CoreId × Bool) : Bool :=
  if x.2 then (clusterCores (dieOf x.1) (x.1.toNat / 16 % 256)).any (coreUsed s) else coreUsed s x.1

/-- The hub of a core's quadrant has lost its HBM range, so the image shadow of the quadrant is gone (R214, R403). -/
def shadowLost (s : State) (c : CoreId) : Bool := !(s.caps.hbmLive.getLsbD (dieOf c / 8))

/-- adapt.spare: cause, old and new physical number (R45). -/
def postSpare (s : State) (c : CoreId) (old new : Nat) : State :=
  post s (srcCore s c) (coreClock s c) evAdaptSpare none eOk [(8, eRetired.toNat), (8, old), (8, new)]

/-- Substitute for a retired core or cluster: the cluster's spare core, or a spare cluster of the die (R15, R402), whose clock
domain powers up (R34). -/
def substitute (s : State) (c : CoreId) (whole : Bool) : State :=
  let cl := c.toNat / 16
  let deny := fun (s : State) => postDenied s (srcCore s c) (coreClock s c) evAdaptSpare [(32, (coreChannel s c).toNat)]
  if shadowLost s c then deny s
  else if whole then
    match freeSpareCluster s (dieOf c) with
    | some p =>
      let old := physCluster s c
      let s1 := powerCluster (modSh s fun x => { x with
        spareCl := tput (cl % 256) x.spareCl cl p
        spareCore := (List.range 16).foldl (fun t i => tput i t (cl * 16 + i) i) x.spareCore }) cl
      let s2 := (List.range 16).foldl (fun s i => reloadCore s (BitVec.ofNat 17 (cl * 16 + i))) s1
      postSpare s2 (BitVec.ofNat 17 (cl * 16)) old p
    | none => deny s
  else
    let old := physCore s c
    let s1 := modSh s fun x => { x with spareCore := tput (c.toNat % 16) x.spareCore c.toNat 16 }
    postSpare (reloadCore s1 c) c old 16

/-- The latitude lets the package substitute (R14, R43, R402): as the loaded image says; with no image loaded there is no
latitude that forbids it (LOG 53). -/
def mayReplace (s : State) (lat : BitVec 256 → Bool) : Bool := s.run.image.isNone || lat (latitude s)

/-- A substitution is denied where the latitude forbids it; else it is made at once while no image runs, and asked for at
a boundary or a restore while one does (R402). -/
def askSpare (s : State) (c : CoreId) (whole ok : Bool) (ch : BitVec 32) : State :=
  if !ok then postDenied s (srcCore s c) (coreClock s c) evAdaptSpare [(32, ch.toNat)]
  else if s.sched = .running ∨ s.sched = .quiesced ∨ s.run.rolling.isSome = true then
    modSh s fun x => { x with spareReq := x.spareReq ++ [ch] }
  else substitute s c whole

/-- A die site is retired (R15, R401, R402): every core of its die stops; the quadrant's spare site takes its place at
the next start-up. -/
def retireSite (s : State) (die : Nat) (cause : BitVec 8) (err : Err) : State :=
  let n := siteOfDie s die
  let stop := fun (s : State) (c : CoreId) => modCore s c fun k => { k with phase := .retired, hold := .none }
  let s1 := modSite ((List.range 160).foldl (fun s cl => (clusterCores die cl).foldl stop s) s) n fun x => { x with failed := true }
  let s2 := lastingFault s1 (srcUnit s (0xB0 + n) 0 0) (clock s (domFabric n)) (channel 3 (n * 2 ^ 18)) cause err false
  if (umbels s).any fun e => umUsed e.2 && decide ((umFirst e.2).toNat < (die + 1) * 4096) &&
      decide (die * 4096 < (umFirst e.2).toNat + (umCount e.2).toNat) then markUnsettled s2 else s2

/-- A cluster is retired (R384, R398, R401, R402), and requests for its cores lapse; a die that needs more than its 10 spare
clusters has its site retired (R15). -/
def retireCluster (s : State) (die cl : Nat) (cause : BitVec 8) (err : Err) : State :=
  let ch := clusterChannel s die cl
  if dieShort s die ch then retireSite s die cause err
  else
    let c : CoreId := BitVec.ofNat 17 (die * 4096 + cl * 16)
    let ok := mayReplace s latSpareCluster
    let own := (clusterCores die cl).map (coreChannel s)
    let s0 := modSh s fun x => { x with spareReq := x.spareReq.filter fun r => !own.contains r
                                        spareLate := x.spareLate.filter fun r => !own.contains r }
    let s1 := (clusterCores die cl).foldl (fun s c => modCore s c fun k => { k with phase := .retired, hold := .none }) s0
    let s2 := askSpare (lastingFault s1 (srcCore s c) (coreClock s c) ch cause err ok) c true ok ch
    if (clusterCores die cl).any (coreUsed s) then markUnsettled s2 else s2

/-- A core is retired (R398, R401 to R403): it is stopped, a substitution is requested or denied, and the image's
unsettled steps are bad. A second one in a cluster whose spare is in use retires the cluster (R15). -/
def retireCore (s : State) (c : CoreId) (cause : BitVec 8) (err : Err) : State :=
  if spareUsed s c then retireCluster s (dieOf c) (c.toNat / 16 % 256) cause err
  else
    let ok := mayReplace s latSpareCore
    let ch := coreChannel s c
    let s1 := modCore s c fun k => { k with phase := .retired, hold := .none }
    let s2 := askSpare (lastingFault s1 (srcCore s c) (coreClock s c) ch cause err ok) c false ok ch
    if coreUsed s c then markUnsettled s2 else s2

/-- A pseudo-channel is retired: mem.pc_retired in place of fault.retired (R213, R398). -/
def retirePc (s : State) (h : Nat) (p : BitVec 8) (err : Err) : State :=
  let ch := channel 0x0A (h * 2 ^ 22 + p.toNat * 2 ^ 14)
  let st := 4 * h + p.toNat / 64
  let src := srcUnit s 0xAA h (p.toNat / 64)
  let pm := clock s (domHbm st)
  let s1 := modHub s h fun m => { m with pcDead := if m.pcDead.contains p then m.pcDead else m.pcDead ++ [p] }
  markUnsettled (recordRetired (post s1 src pm evMemPcRetired none err [(8, h), (8, p.toNat)]) src pm ch err)

/-- The pseudo-channel or slice channel that holds memory address `a`, with its hub. -/
def memChannel (s : State) (a : Nat) : Nat × BitVec 32 :=
  if a < 0x010000000000 then
    let h := a / 2 ^ 38
    (h, channel 0x0A (h * 2 ^ 22 + (hbmPlace (hashKey s (hkeyOf s h a)) a).toNat * 2 ^ 14))
  else
    let sl := (a - 0x010000000000) / 0x04000000
    (sl / 8, channel 0x0B (sl * 2 ^ 19))

/-- A memory channel fails for good: a pseudo-channel under R213, an LLM slice under R400. -/
def retireMem (s : State) (a : Nat) : State :=
  let m := memChannel s a
  if a < 0x010000000000 then retirePc s m.1 (hbmPlace (hashKey s (hkeyOf s m.1 a)) a) eRetired
  else
    let src := srcUnit s 0xAB m.1 ((a - 0x010000000000) / 0x04000000 % 8)
    markUnsettled (lastingFault s src (clock s (domHub m.1)) m.2 0x01 eRetired false)

/-- The channel of slice `sl` of the LLM. -/
def sliceChannel (sl : Nat) : BitVec 32 := channel 0x0B (sl * 2 ^ 19)

/-- The cache slice in front of HBM address `a` (R218): a slice of the hub in cache mode, live at start-up. None where the
hub has no such slice, or has stopped using them since one was retired (R400). -/
def cacheSlice (s : State) (a : Nat) : Option Nat :=
  let h := a / 2 ^ 38
  let l := (List.range 8).map (· + 8 * h)
  let cs := l.filter fun i => !s.regs.llmMode.getLsbD i && s.caps.llmLive.getLsbD i
  if 0x010000000000 ≤ a ∨ cs.any (fun i => s.sh.retired.contains (sliceChannel i)) then none
  else cs[(hbmPlace (hashKey s (hubOf s h).hkey) a).toNat % cs.length]?

/-- Unit `u` of HBM is poisoned (R400). -/
def poison (s : State) (u : Nat) : State := { s with mem := tput 0 s.mem (poisonKey u) 1 }

/-- A dirty line of unit `u` fails both of its reads (R400): its slice is retired and the unit is poisoned. -/
def lineLost (s : State) (sl u : Nat) : State :=
  let s1 := poison s u
  markUnsettled (lastingFault s1 (srcUnit s 0xAB (sl / 8) (sl % 8)) (clock s (domHub (sl / 8))) (sliceChannel sl) 0x01 eRetired false)

/-- The slice of an LLM address has been retired (R400). -/
def sliceRetired (s : State) (a : Nat) : Bool :=
  decide (0x010000000000 ≤ a) && decide (a < 0x010080000000) && s.sh.retired.contains (memChannel s a).2

/-- The access meets the scratchpad or instruction store of a retired core (R398). -/
def touchesDeadCore (s : State) (a n : Nat) : Bool :=
  let meets := fun (b len : Nat) => decide (a < b + len) && decide (b < a + n)
  s.cores.any fun k => k.2.phase = .retired &&
    (meets (spAddr (BitVec.ofNat 17 k.1) 0) spSize || meets (isAddr (BitVec.ofNat 17 k.1) 0) isSize)

/-- An access that touches a retired channel fails with E_RETIRED (R398). -/
def touchesRetired (s : State) (a n : Nat) : Bool :=
  touchesDead s a n || ((unitsOf a n).any fun u => sliceRetired s (u * 65536)) || touchesDeadCore s a n

end Sys2Proof.Machine
end

