-- ==== Sys2Proof/Machine/StatusOps.lean ====
section
/-! DEFINITION. The status spaces of the hubs (R210, R416) and the accesses every agent makes to package memory: where
an address lies in a status space, a read assembles the status words and a write reaches only their sticky bits. -/

namespace Sys2Proof.Machine

/-! ### Objects of the image by number -/

/-- Queue `q`'s descriptor (R148). -/
def queueDesc (s : State) (q : Nat) : Option (BitVec 256) :=
  match s.run.image with | some im => im.queues.find? fun d => (qdQueue d).toNat == q | none => none

/-- The umbel entry of stage `g` (R141). -/
def stageEnt (s : State) (g : Nat) : Option (BitVec 256) :=
  ((umbels s).find? fun e => umUsed e.2 && umIsStage e.2 && (umStage e.2).toNat == g).map Prod.snd

/-- The home hub of stage `g` (R141); hub C0 keeps the package row 1,024 (R195). -/
def homeHub (s : State) (g : Nat) : Nat :=
  match stageEnt s g with | some e => (umFirst e).toNat / 32768 | none => 0

/-- The stage's edition descriptor (R156). -/
def edDesc (s : State) (g : Nat) : Option (BitVec 256) :=
  match s.run.image with | some im => im.editions.find? fun d => (edStage d).toNat == g | none => none

/-- The layer record `l` (R120). -/
def layerRec (s : State) (l : Nat) : Option Layer :=
  match s.run.image with | some im => im.layers.find? fun r => (lrId r.hdr).toNat == l | none => none

/-- Plan entry `n` (R143); all zero, so unused, where the image lists none. -/
def planOf (s : State) (n : Nat) : BitVec 256 :=
  match s.run.image with | some im => tget 0 im.plans n | none => 0

/-! ### Release units as waiters -/

/-- The release entry that umbel `u` fires next (R40). -/
def nextRel (s : State) (u : Nat) : Option (BitVec 256) :=
  match s.run.image with
  | some im => if (relOf s u).idx < (umRelCount (umbelOf s u)).toNat then
      im.rels[(umRelOff (umbelOf s u)).toNat + (relOf s u).idx]? else none
  | none => none

/-- Umbel `u`'s release table (R37, R40). -/
def relEntries (s : State) (u : Nat) : List (BitVec 256) :=
  match s.run.image with
  | some im => (im.rels.drop (umRelOff (umbelOf s u)).toNat).take (umRelCount (umbelOf s u)).toNat
  | none => []

/-- The receipt that umbel `u`'s next entry waits on (R176). -/
def relRcpt (s : State) (u : Nat) (r : BitVec 256) : BitVec 14 := umRcptBase (umbelOf s u) + relReceipt r

/-- The subscriber whose copies an umbel's release unit judges (R40, R182): its die, or its hub. -/
def relSub (e : BitVec 256) : Nat :=
  if oneCluster e then (umFirst e).toNat / 4096 else 32 + (umFirst e).toNat / 32768

/-- The source id of an umbel's release unit (R41). -/
def relSrc (s : State) (e : BitVec 256) : BitVec 32 :=
  if oneCluster e then srcCore s (BitVec.ofNat 17 ((umFirst e).toNat / 16 * 16))
  else srcUnit s 0xA0 ((umFirst e).toNat / 32768) 0

/-- The absolute postmark of an entry in the umbel's present step (R36, R37). -/
def relPm (s : State) (u : Nat) (r : BitVec 256) : Pm := stepBase s (relOf s u).step + relOffset r

/-- The entry's receipt has reached its target (R40, R178). -/
def relMet (s : State) (u : Nat) (r : BitVec 256) : Bool :=
  relNoWait r ||
    rcReached (copyOf s (relSub (umbelOf s u)) (relRcpt s u r))
      (rcTarget s (relRcpt s u r) (relTarget r) (relOf s u).step)

/-! ### Other waiters -/

/-- Transfers of the schedule run only while it runs and no rollback is awaited (R206, R359). -/
def schedRuns (s : State) : Bool := s.sched = .running && s.run.rolling.isNone

/-- The update section of the loaded image. -/
def updSection (s : State) : Option UpdSection := s.run.image.bind (·.upd)

/-- The update entries of hub `h` with their places in the table (R188). -/
def hubEntries (s : State) (h : Nat) : List (Nat × BitVec 512) :=
  match updSection s with
  | some u => (u.entries.zipIdx.map fun x => (x.2, x.1)).filter fun x => homeHub s (ueStage x.2).toNat == h
  | none => []

/-- The entries that the hub's engine has finished in the current step. -/
def updDone (s : State) (u : UpdEng) : Nat := if u.step = s.run.step then u.done else 0

/-- The receipt on which the hub's update engine holds its next entry (R188). -/
def updHeld (s : State) (h : Nat) : Option (BitVec 14) :=
  let u := updOf s h
  if !schedRuns s || u.busy then none
  else match (hubEntries s h)[updDone s u]? with
    | some (_, e) =>
      if rcReached (copyOf s (Fin.ofNat 36 (32 + h)) (ueGo e)) (rcTarget s (ueGo e) (ueGoTarget e) s.run.step) then none else some (ueGo e)
    | none => none

/-- The receipt on which the commit unit holds its vote (R202). -/
def commitHeld (s : State) : Option (BitVec 14) :=
  match commitRec s with
  | some r =>
    if s.commit.phase = .open_ && !rcReached (copyOf s 32 (crReady r)) (rcTarget s (crReady r) (crReadyTarget r) s.commit.step) then
      some (crReady r)
    else none
  | none => none

/-- Agents now held on receipt `r` (R183): cores in WAIT.RCPT, umbels whose next entry is due but for it while the schedule runs,
update engines, and the commit unit. -/
def waitersOf (s : State) (r : BitVec 14) : Nat :=
  (s.cores.filter fun k => k.2.phase = .running && (match k.2.hold with
    | .rcpt x _ => x == r && !holdMet s (BitVec.ofNat 17 k.1) k.2
    | _ => false)).length +
  ((umbels s).filter fun e => schedRuns s && umUsed e.2 && (match nextRel s e.1 with
    | some x => relRcpt s e.1 x == r && !relMet s e.1 x && pmReached (clock s (relDom s e.2)) (relPm s e.1 x)
    | none => false)).length +
  ((List.range 4).filter fun h => updHeld s h == some r).length + b2n (commitHeld s == some r)

/-! ### The words (R154, R183, R195, R136, R416) -/

/-- A queue's watermark status word (R154). -/
def wmWord (q : Queue) : BitVec 64 :=
  (0 : BitVec 2) ++ BitVec.ofBool q.hiSticky ++ BitVec.ofBool q.loSticky ++ q.hiCount ++ q.loCount ++ q.hiPeak ++
    q.loTrough ++ (0 : BitVec 1) ++ q.occ

/-- A receipt's status word (R183). -/
def rcWord (s : State) (r : Nat) : BitVec 64 :=
  BitVec.ofBool (tget false s.rcpt.sticky r) ++ BitVec.ofNat 15 (min 0x7FFF (waitersOf s (BitVec.ofNat 14 r))) ++
    tget 0 s.rcpt.wmCount r ++ tget 0 s.rcpt.count r

/-- Word `i` of a half of the step statistics: `ovf` below `van` of a code, then `grad_nf` (R416). -/
def statWord (h : StatHalf) (i : Nat) : BitVec 64 :=
  if i < 10 then (tget 0 h (16 + i)) ++ (tget 0 h i) else if i = 10 then (tget 0 h 32).setWidth 64 else 0

/-- Word `i` of a layer record's counters (R136). -/
def layerWord (l : LayerSt) (i : Nat) : BitVec 64 :=
  match i with
  | 0 => l.qTensors.setWidth 64
  | 1 => l.escapes.setWidth 64
  | 2 => l.misfits.setWidth 64
  | 3 => l.pinSat.setWidth 64
  | 4 => l.reruns.setWidth 64
  | 5 => l.denied.setWidth 64
  | 6 => l.pinAdapts.setWidth 64
  | _ => 0

/-- A channel's state as the counters show it: 0 in service, 2 retired. -/
def chanState (s : State) (ch : BitVec 32) : Nat := if s.sh.retired.contains ch then 2 else 0

/-- Word `i` of a core's block (R416). -/
def coreWord (s : State) (c : CoreId) (i : Nat) : BitVec 64 :=
  let p := portOf s c
  let b := fun j => tget 0 p.bankStall j
  match i with
  | 0 => b 1 ++ b 0
  | 1 => b 3 ++ b 2
  | 2 => (b 4).setWidth 64
  | 3 => p.envSent.setWidth 64
  | 4 => p.envAccepted.setWidth 64
  | 5 => p.envRetries.setWidth 64
  | 6 => p.dlReceived.setWidth 64
  | 7 => p.dlIssued.setWidth 64
  | 8 => BitVec.ofNat 64 p.corrected
  | 9 => BitVec.ofNat 64 p.transient
  | 10 => match (coreOf s c).phase with | .faulted => 1 | .retired => 2 | _ => 0
  | _ => 0

/-- The links of hub `q` in ascending number (R251). -/
def linksOfHub (q : Nat) : List Nat := (List.range 12).filter fun l => hubOfLinkNo l == q
where
  /-- The hub of a link: twins and directions choose it. -/
  hubOfLinkNo (l : Nat) : Nat := l % 2 * 2 + l / 2 % 2

/-- Word `i` of a link's block (LOG 26 for the courier lane's two counters). -/
def linkWord (s : State) (l i : Nat) : BitVec 64 :=
  let c := tget LinkCtr.reset s.linkCtr l
  match i with
  | 0 => c.fecCorr.setWidth 64
  | 1 => c.fecUncorr.setWidth 64
  | 2 => c.replays.setWidth 64
  | 3 => c.flitsTx.setWidth 64
  | 4 => c.flitsRx.setWidth 64
  | 5 => c.gcmFail.setWidth 64
  | 6 => c.pktBad ++ c.retrains
  | 7 => c.courierTransient ++ c.transient
  | 8 => BitVec.ofNat 64 (tget 0 s.paths.courierDrop l)
  | _ => 0

/-- The HDI ports of hub `q`: its nine sites' four ports, then those of its hub pairs (R416), as bundle * 4 + port. -/
def portsOfHub (q : Nat) : List Nat :=
  (List.range 36).map (· + 36 * q) ++
    ((List.range 4).filter fun b => (hubPair b).1 == q || (hubPair b).2 == q).flatMap fun b =>
      (List.range 4).map (· + (36 + b) * 4)
where
  /-- The hub pairs in the order of R405. -/
  hubPair (b : Nat) : Nat × Nat := match b with | 0 => (0, 1) | 1 => (2, 3) | 2 => (0, 2) | _ => (1, 3)

/-- Word `i` of an HDI port's block. -/
def hdiWord (s : State) (p i : Nat) : BitVec 64 :=
  let h := hdiOf s p
  match i with
  | 0 => BitVec.ofNat 64 h.replays
  | 1 => BitVec.ofNat 64 h.transient
  | 2 => BitVec.ofNat 64 (h.spares.foldl (fun n x => n + x.2) 0)
  | _ => if p < 144 then BitVec.ofNat 64 (siteOf s (p / 4)).guestErr else 0

/-- Word `i` of a memory channel's 16 bytes: corrected and transient in four bytes each, then the state (LOG 26). -/
def memChanWord (s : State) (ch : BitVec 32) (i : Nat) : BitVec 64 :=
  if i = 0 then BitVec.ofNat 32 (tget 0 s.sh.chanTrans ch.toNat) ++ BitVec.ofNat 32 (tget 0 s.sh.chanCorr ch.toNat)
  else BitVec.ofNat 64 (chanState s ch)

/-- Word `i` of the sorting office's counters. -/
def officeWord (o : Office) (i : Nat) : BitVec 64 :=
  match i with
  | 0 => o.collDone.setWidth 64
  | 1 => o.collFailed.setWidth 64
  | 2 => o.piecesHeld.setWidth 64
  | 3 => o.holdRefused.setWidth 64
  | 4 => o.pieceStale.setWidth 64
  | 5 => o.residueRetries.setWidth 64
  | 6 => o.lanesLive.setWidth 64
  | _ => 0

/-- The 8-byte word at offset `o` of hub `q`'s counter block (R416). -/
def hubWord (s : State) (q o : Nat) : BitVec 64 :=
  let i := o / 8
  if o < 0x400 then
    match (linksOfHub q)[i / 16]? with | some l => linkWord s l (i % 16) | none => 0
  else if o < 0x1000 then
    match (portsOfHub q)[(i - 0x80) / 4]? with | some p => hdiWord s p ((i - 0x80) % 4) | none => 0
  else if o < 0x2000 then memChanWord s (channel 0x0A (q * 2 ^ 22 + (i - 0x200) / 2 * 2 ^ 14)) (i % 2)
  else if o < 0x2080 then memChanWord s (channel 0x0B ((q * 8 + (i - 0x400) / 2) * 2 ^ 19)) (i % 2)
  else if o < 0x2100 then 0
  else if o < 0x2200 then officeWord (officeOf s q) (i - 0x420)
  else if o < 0x2300 then
    match i - 0x440 with
    | 0 => (e2eOf s q).dupReq.setWidth 64
    | 1 => (e2eOf s q).dupRsp.setWidth 64
    | 2 => BitVec.ofNat 64 (tget 0 s.commit.stale q)
    | 3 => match (hubOf s q).short with
      | some x => (hubOf s q).shortUs.setWidth 64 + BitVec.ofNat 64 ((s.ns - x.sinceNs) / 1000)
      | none => (hubOf s q).shortUs.setWidth 64
    | _ => 0
  else if q = 0 then
    match i - 0x460 with
    | 0 => BitVec.ofNat 64 s.regs.bar0Bad
    | 1 => BitVec.ofNat 64 s.regs.bar2Refused
    | 2 => BitVec.ofNat 64 s.regs.urgBad
    | _ => 0
  else 0

/-- The 8-byte word at offset `o` of hub `q`'s status space (R416); an offset it does not list reads zero (R210). -/
def statusWord (s : State) (q o : Nat) : BitVec 64 :=
  let i := o / 8
  let own := fun (b : Bool) (w : BitVec 64) => if b then w else 0
  if o < 0x8000 then
    own ((queueDesc s i).any fun d => (qdHub d).toNat == q) (wmWord (queueOf s i))
  else if o < 0x10000 then 0
  else if o < 0x30000 then
    let n := (o - 0x10000) / 32
    own ((queueDesc s n).any fun d => (qdHub d).toNat == q)
      (match i % 4 with
       | 0 => (queueOf s n).posts.setWidth 64
       | 1 => (queueOf s n).collects.setWidth 64
       | 2 => (queueOf s n).fullWaits.setWidth 64
       | _ => (queueOf s n).emptyWaits.setWidth 64)
  else if o < 0x40000 then 0
  else if o < 0x60000 then
    let r := (o - 0x40000) / 8
    own (r / 4096 == q) (rcWord s r)
  else if o < 0x80000 then 0
  else if o < 0xC0100 then
    let g := (o - 0x80000) / 256
    own ((g == 1024 || (stageEnt s g).isSome) && homeHub s g == q)
      (statWord (tget [] s.stats (g * 2 + i % 32 / 16)) (i % 16))
  else if o < 0x100000 then 0
  else if o < 0x500000 then
    let l := (o - 0x100000) / 64
    own ((layerRec s l).any fun r => (lrHub r.hdr).toNat == q) (layerWord (layerOf s l) (i % 8))
  else if o < 0x600000 then
    let u := (o - 0x500000) / 16
    own (umUsed (umbelOf s u) && (umFirst (umbelOf s u)).toNat / 32768 == q)
      (if i % 2 = 0 then (relOf s u).slipMax.setWidth 32 ++ (relOf s u).slipCount else (relOf s u).slipTicks.setWidth 64)
  else if o < 0x1600000 then
    let c := BitVec.ofNat 17 ((o - 0x600000) / 128)
    own (coreExists c && c.toNat / 32768 == q) (coreWord s c (i % 16))
  else if o < 0x2000000 then 0
  else if o < 0x2010000 then hubWord s q (o - 0x2000000)
  else 0

/-! ### Package reads and writes -/

/-- `a` lies in a status space. -/
def inStatus (a : Nat) : Bool := decide (0x040000000000 ≤ a)

/-- One byte of package-physical memory as an access reads it. -/
def pkgByte (s : State) (a : Nat) : Byte :=
  if inStatus a then
    let o := a - 0x040000000000
    fld (statusWord s (o / 2 ^ 32) (o % 2 ^ 32 / 8 * 8)) (o % 8 * 8) 8
  else memByte s.mem a

/-- Bytes of package-physical memory as an access reads them. -/
def pkgRead (s : State) (a n : Nat) : List Byte :=
  if inStatus a then (List.range n).map fun i => pkgByte s (a + i) else memRead s.mem a n

/-- Clear a queue's high latch (R155). -/
def clearHi (s : State) (q : Nat) : State :=
  modQueue s q fun x => { x with hiSticky := false, hiCount := 0, hiPeak := 0 }

/-- Clear a queue's low latch (R155). -/
def clearLo (s : State) (q : Nat) : State :=
  modQueue s q fun x => { x with loSticky := false, loCount := 0, loTrough := 0 }

/-- Clear a receipt's watermark latch (R184). -/
def clearWm (s : State) (r : Nat) : State :=
  modRcpt s fun x => { x with sticky := tput false x.sticky r false, wmCount := tput 0 x.wmCount r 0 }

/-- One byte written to hub `q`'s status space at offset `o`: only the W1C bits of R154 and R183 act. -/
def statusPut (s : State) (q o : Nat) (b : Byte) : State :=
  if o % 8 ≠ 7 then s
  else if o < 0x8000 then
    if (queueDesc s (o / 8)).any fun d => (qdHub d).toNat == q then
      let s1 := if bit b 5 then clearHi s (o / 8) else s
      if bit b 4 then clearLo s1 (o / 8) else s1
    else s
  else if 0x40000 ≤ o ∧ o < 0x60000 ∧ (o - 0x40000) / 8 / 4096 = q ∧ bit b 7 = true then clearWm s ((o - 0x40000) / 8)
  else s

/-- Bytes written to a status space from address `a`. -/
def statusPuts (s : State) (a : Nat) : List Byte → State
  | [] => s
  | b :: t =>
    let o := a - 0x040000000000
    statusPuts (statusPut s (o / 2 ^ 32) (o % 2 ^ 32) b) (a + 1) t

/-- Write bytes of package-physical memory. -/
def pkgWrite (s : State) (a : Nat) (l : List Byte) : State := if inStatus a then statusPuts s a l else wrMem s a l

/-! ### What happens when an access reaches memory -/

/-- The checks of an access by its key, without effects: the first failing code in the order of R349 and R222. -/
def accessFault (s : State) (key : BitVec 16) (a n : Nat) (rd wr : Bool) : Option Err :=
  if !addrOk s a n then some eRange
  else if touchesCache s a n then some eMode
  else if !permitted s key a n rd wr then some eKey
  else if touchesRetired s a n || touchesPoison s a n (wr && !rd) then some eRetired
  else none

end Sys2Proof.Machine
end

