-- ==== Sys2Proof/Machine/CollOps.lean ====
section
/-! DEFINITION. The sorting office (R283 to R302): the order among collectives, the pieces they send and process, their
ends, and the checked adder lanes. -/

namespace Sys2Proof.Machine

/-! ### Order keys and states (R297) -/

/-- Key `a` is earlier than key `b`: by beat, then by id (R297). -/
def keyLt (a b : BitVec 40 × BitVec 32) : Bool := beatLater b.1 a.1 || (a.1 == b.1 && decide (a.2 < b.2))

/-- The order key of a collective (R297). -/
def collKey (c : Coll) : BitVec 40 × BitVec 32 := (c.start, coId c.entry)

/-- Entry `i` of umbel `u`'s release table. -/
def relAt (s : State) (u i : Nat) : Option (BitVec 256) :=
  match s.run.image with
  | some im => im.rels[(umRelOff (umbelOf s u)).toNat + i]?
  | none => none

/-- The COLL_START release that names collective `id`: umbel, index, entry (R290: exactly one). -/
def collRel (s : State) (id : BitVec 32) : Option (Nat × Nat × BitVec 256) :=
  (umbels s).findSome? fun e =>
    if umUsed e.2 then
      (List.range (umRelCount e.2).toNat).findSome? fun i =>
        match relAt s e.1 i with
        | some r => if relAction r == 3 && relObject r == id then some (e.1, i, r) else none
        | none => none
    else none

/-- The collective entries of hub `h` in the loaded image. -/
def hubColls (s : State) (h : Nat) : List (BitVec 512) :=
  match s.run.image with | some im => im.colls.filter fun e => (coHub e).toNat == h | none => []

/-- The start beat of the next instance of an image collective whose release has not fired (R297). -/
def nextInstance (s : State) (e : BitVec 512) : Option (BitVec 40) :=
  if s.sched = .running ∨ s.sched = .quiesced ∨ s.sched = .stopped then
    match collRel s (coId e) with
    | some (u, i, r) =>
      let x := relOf s u
      some (pmBeat (stepBase s (if i < x.idx then x.step + 1 else x.step) + relOffset r))
    | none => none
  else none

/-- The instance an office holds under a key. -/
def findColl (o : Office) (k : BitVec 40 × BitVec 32) : Option Coll := o.colls.find? fun c => collKey c == k

/-- The image lists an instance under the key whose release has not fired yet. -/
def isListed (s : State) (h : Nat) (k : BitVec 40 × BitVec 32) : Option (BitVec 512) :=
  (hubColls s h).find? fun e => coId e == k.2 && (match nextInstance s e with
    | some n => decide ((k.1 - n).toNat < 2 ^ 39) && (k.1 - n).toNat % stepBeats s == 0
    | none => false)

/-- The state of the collective with key `k` at office `h`. -/
def collState (s : State) (h : Nat) (k : BitVec 40 × BitVec 32) : Option CollSt :=
  match findColl (officeOf s h) k with
  | some c => some c.st
  | none => (isListed s h k).map fun _ => .listed

/-- Every key the office still expects: the next instance of each image collective, and what is armed or active. -/
def expectedKeys (s : State) (h : Nat) : List (BitVec 40 × BitVec 32) :=
  (hubColls s h).filterMap (fun e => (nextInstance s e).map fun n => (n, coId e)) ++
    ((officeOf s h).colls.filter fun c => c.st = .armed || c.st = .active).map collKey

/-- Some collective of the office with a key earlier than `k` has neither started nor failed (R297). -/
def mustWait (s : State) (h : Nat) (k : BitVec 40 × BitVec 32) : Bool :=
  let o := officeOf s h
  o.colls.any (fun c => c.st = .armed && keyLt (collKey c) k) ||
  (hubColls s h).any fun e => match nextInstance s e with
    | some n =>
      keyLt (n, coId e) k && (List.range ((k.1 - n).toNat / stepBeats s + 1)).any fun j =>
        let x := (n + BitVec.ofNat 40 (j * stepBeats s), coId e)
        keyLt x k && (match findColl o x with | some c => c.st = .armed || c.st = .listed | none => true)
    | none => false

/-- The active collectives of an office. -/
def activeColls (o : Office) : List Coll := o.colls.filter fun c => c.st = .active

/-- Replace the instance of the same key. -/
def putColl (s : State) (h : Nat) (c : Coll) : State :=
  modOffice s h fun o =>
    if (findColl o (collKey c)).isSome then
      { o with colls := o.colls.map fun x => if collKey x == collKey c then c else x }
    else { o with colls := o.colls ++ [c] }

/-! ### Shape of a collective (R287, R291, R293) -/

/-- Stations, elements and the station's place. -/
def coN (e : BitVec 512) : Nat := (coRingN e).toNat + 1
def coCount (e : BitVec 512) : Nat := (coElems e).toNat + 1
def isReduce (e : BitVec 512) : Bool := coKind e == 2 || coKind e == 3
def isBcast (e : BitVec 512) : Bool := coKind e == 1 || coKind e == 3
def isRoot (e : BitVec 512) : Bool := coPos e == coRoot e
/-- The station after the root begins each reduce piece (R293). -/
def isFirst (e : BitVec 512) : Bool := (coPos e).toNat == ((coRoot e).toNat + 1) % coN e
/-- The station before the root does not forward broadcast pieces (R293). -/
def isLast (e : BitVec 512) : Bool := ((coPos e).toNat + 1) % coN e == (coRoot e).toNat

/-- The reduce pieces of a sum or an all-reduce carry the overflow flag (R296). -/
def carriesOvf (e : BitVec 512) : Bool := (isReduce e && coOp e == 0) || coKind e == 3

/-- Bytes of one element in format `f` (BF16 or FP32). -/
def collBytes (f : BitVec 4) : Nat := if f = 6 then 2 else 4

/-- Elements per packet: 4,032 bytes of pairs or of values (R291). -/
def perPacket (e : BitVec 512) (bcast : Bool) : Nat := if bcast then 4032 / collBytes (coOutFmt e) else 504

/-- Elements of piece `i`. -/
def pieceElems (e : BitVec 512) (i : Nat) : Nat := min 8192 (coCount e - i * 8192)

/-- Pieces of a collective. -/
def pieceCount (e : BitVec 512) : Nat := (coCount e + 8191) / 8192

/-- The first element of a packet. -/
def packetElem (e : BitVec 512) (ph : BitVec 384) : Nat :=
  (phPiece ph).toNat * 8192 + (phPart ph).toNat * perPacket e (phRound ph)

/-- A piece header (R292). -/
def mkPh (id : BitVec 32) (start : BitVec 40) (i part : Nat) (round ovf abort : Bool) (code : Err) (n : Nat) : BitVec 384 :=
  id ++ start ++ BitVec.ofNat 27 i ++ BitVec.ofNat 5 part ++ BitVec.ofBool round ++ BitVec.ofBool ovf ++
    BitVec.ofBool abort ++ code ++ BitVec.ofNat 11 n ++ (0 : BitVec 258)

/-- The source id and clock of an office. -/
def officeSrc (s : State) (h : Nat) : BitVec 32 := srcUnit s 0xA6 h 0
def officePm (s : State) (h : Nat) : Pm := clock s (domHub h)

/-- The step an instance belongs to (R36); the current step for a host collective. -/
def collStep (s : State) (c : Coll) : BitVec 40 :=
  if c.isHost then s.run.step else BitVec.ofNat 40 ((c.start - s.run.startBeat).toNat / stepBeats s)

/-- The overflow flag of step `k` on this package (R196). -/
def ovfFlag (s : State) (k : BitVec 40) : Bool := s.run.ovf.contains k

/-- The overflow flag of step `k` is set. -/
def setOvf (s : State) (k : BitVec 40) : State :=
  if ovfFlag s k then s else modRun s fun r => { r with ovf := r.ovf ++ [k] }

/-! ### Sending -/

/-- A PIECE packet to the next station. -/
def sendPiece (s : State) (h : Nat) (c : Coll) (ph : BitVec 384) (data : List Byte) : State :=
  let e := c.entry
  trace (sendReqTo s h (coNextPkg e) (coNextHub e) none 5 (coFlow e) (leBytes 48 ph ++ data) (.piece (coId e)))
    (officeSrc s h) (officePm s h) evTracePiece (some (imgOwner s)) [(32, (phPiece ph).toNat), (16, 0)]

/-- The link toward the previous station's package on the flow's twin (R301). -/
def prevLink (s : State) (e : BitVec 512) : Option Nat :=
  (List.range 12).find? fun l => peerPkg s l == coPrevPkg e && l % 2 == b2n (flTwin (flowEnt s (coFlow e)))

/-- A COLL_ABORT to the next station (R300, R301). -/
def abortNext (s : State) (h : Nat) (c : Coll) (code : Err) : State :=
  let e := c.entry
  sendReqTo s h (coNextPkg e) (coNextHub e) none 5 (coFlow e) (leBytes 48 (mkPh (coId e) c.start 0 0 false false true code 0))
    (.piece (coId e))

/-- A COLL_ABORT to the previous station. -/
def abortPrev (s : State) (h : Nat) (c : Coll) (code : Err) : State :=
  let e := c.entry
  let via := if coPrevPkg e = s.place.addr then none else prevLink s e
  sendReqTo s h (coPrevPkg e) (coPrevHub e) via 5 (coFlow e) (leBytes 48 (mkPh (coId e) c.start 0 0 false false true code 0))
    (.piece (coId e))

/-! ### Ends (R297, R300) -/

/-- Pieces finished at the station. -/
def piecesDone (c : Coll) : Nat :=
  (if isReduce c.entry && !(coKind c.entry == 3 && !isRoot c.entry) then c.reduced else c.bcast) / 8192

/-- coll.done for a host collective that asked for it (R353). -/
def notifyColl (s : State) (h : Nat) (c : Coll) (code : Err) : State :=
  match c.notify with
  | some x => post s (officeSrc s h) (officePm s h) evCollDone (some (BitVec.ofNat 6 x.val)) code
      [(32, (coId c.entry).toNat), (64, c.start.toNat)]
  | none => s

/-- A station fails a collective with `code` and passes the abort on (R300). -/
def failColl (s : State) (h : Nat) (c : Coll) (code : Err) (next prev : Bool) : State :=
  let s1 := putColl s h { c with st := .failed }
  let s2 := modOffice s1 h fun o => { o with
    held := o.held.filter fun x => !(phId x.ph == coId c.entry && phStart x.ph == c.start)
    collFailed := satInc o.collFailed }
  let s3 := post s2 (officeSrc s h) (officePm s h) (if code = eCollOrder then evCollOrder else evCollFault)
    (some (imgOwner s)) code [(32, (coId c.entry).toNat), (64, c.start.toNat), (32, (coPos c.entry).toNat), (32, piecesDone c)]
  let s4 := notifyColl s3 h c code
  let s5 := if next then abortNext s4 h c code else s4
  if prev then abortPrev s5 h c code else s5

/-- Everything R293 gives the station is written and forwarded. -/
def collDoneNow (c : Coll) : Bool :=
  let e := c.entry
  (!isReduce e || c.reduced == coCount e) && (!isBcast e || isRoot e || c.bcast == coCount e)

/-- A station finishes (R297). -/
def finishColl (s : State) (h : Nat) (c : Coll) : State :=
  if c.st = .active ∧ collDoneNow c = true then
    let s1 := putColl s h { c with st := .finished }
    let s2 := modOffice s1 h fun o => { o with collDone := satInc o.collDone }
    notifyColl (addReceipt s2 (coDone c.entry) 1 (officeSrc s h)) h c eOk
  else s

/-! ### Elements (R294) -/

/-- The code a memory access of the office meets (R226, R300). -/
def collFault (s : State) (a n : Nat) (wr : Bool) : Option Err :=
  match accessFault s (ctxKey s (imgOwner s)) a n (!wr) wr with
  | some e => if e = eKey ∨ e = eRetired then some e else some eKey
  | none => none

/-- Element `i` of the station's contribution: its value and the flags of reading it. -/
def contribution (s : State) (e : BitVec 512) (ftz : Bool) (i : Nat) : Val × BitVec 8 :=
  let b := collBytes (coInFmt e)
  readF (if coInFmt e = 6 then fBF16 else fFP32) ftz (leNat (pkgRead s ((coSrc e).toNat + i * b) b))

/-- One element of a reduce round at a station: the pair that leaves it, with flags. -/
def reduceElem (e : BitVec 512) (ftz : Bool) (p : BitVec 64) (x : Val) : BitVec 64 × BitVec 8 :=
  if coOp e = 0 then
    let r := accumulateW ftz (fld p 32 32) (fld p 0 32) x
    (r.1 ++ r.2.1, r.2.2)
  else
    let a := read32 ftz (fld p 32 32)
    let v := if coOp e = 1 then maxVal a.1 x else minVal a.1 x
    (BitVec.ofNat 32 (codeOf fFP32 v) ++ (0 : BitVec 32), a.2)

/-- The result of an element at the root (R294): a + c exact, converted to the result format. -/
def rootElem (e : BitVec 512) (ftz : Bool) (p : BitVec 64) : Conv :=
  let a := read32 ftz (fld p 32 32)
  let c := read32 ftz (fld p 0 32)
  let r := fromRead (a.2 ||| c.2) (convF (if coOutFmt e = 6 then fBF16 else fFP32) .nearest false ftz (addVal a.1 c.1))
  { r with fl := r.fl ||| a.2 ||| c.2 }

/-- Packets of the values of a piece, in the broadcast round, as they stand at `dst` in the result format. -/
def bcastPackets (s : State) (h : Nat) (c : Coll) (piece : Nat) (ovf : Bool) : State :=
  let e := c.entry
  let n := pieceElems e piece
  let per := perPacket e true
  let ob := collBytes (coOutFmt e)
  (List.range ((n + per - 1) / per)).foldl (fun t part =>
    let k := min per (n - part * per)
    let first := piece * 8192 + part * per
    sendPiece t h c (mkPh (coId e) c.start piece part true ovf false eOk k) (pkgRead s ((coDst e).toNat + first * ob) (k * ob))) s

/-! ### The adder lanes (R302) -/

/-- The residues of a lane of the sorting office disagree at a piece (R302): the piece is computed again; with the lane retired, once
more on the remaining lanes. A retired lane computes nothing. -/
def laneCheck (s : State) (h : Nat) (bad : Option LaneFault) : State :=
  match bad with
  | none => s
  | some f =>
    let ch := channel 0x0C (h * 2 ^ 22 + f.lane.toNat * 2 ^ 11)
    if (officeOf s h).lanesLive = 0 ∨ s.sh.retired.contains ch then s
    else
      let s1 := modOffice s h fun o => { o with
        residueRetries := satInc o.residueRetries, lanesLive := if f.again then o.lanesLive - 1 else o.lanesLive }
      laneFault s1 (officeSrc s h) (officePm s h) (imgOwner s) ch f.again

/-- With no lane left every collective of the office that sums or compares fails with E_RETIRED (R300, R302). -/
def lanesGone (s : State) (h : Nat) : State :=
  if (officeOf s h).lanesLive = 0 then
    ((officeOf s h).colls.filter fun c => isReduce c.entry && (c.st = .armed || c.st = .active)).foldl
      (fun s c => failColl s h c eRetired true true) s
  else s

/-! ### Processing a packet (R293 to R296) -/

/-- A reduce packet at an active station. -/
def reducePacket (s : State) (h : Nat) (c : Coll) (ph : BitVec 384) (data : List Byte) : State :=
  let e := c.entry
  let ftz := cfgFtz (ctxOf s s.run.imgCtx.val).cfg
  let i0 := packetElem e ph
  let n := (phCount ph).toNat
  let ib := collBytes (coInFmt e)
  match collFault s ((coSrc e).toNat + i0 * ib) (n * ib) false with
  | some err => failColl s h c err true true
  | none =>
    let xs := (List.range n).map fun j => contribution s e ftz (i0 + j)
    let rs := (List.range n).map fun j =>
      reduceElem e ftz (leWord 64 ((data.drop (8 * j)).take 8)) ((xs.getD j (Val.zero, 0)).1)
    let fl := (xs.foldl (fun a x => a ||| x.2) 0) ||| (rs.foldl (fun a x => a ||| x.2) 0)
    let k := collStep s c
    let s1 := setFlags s (imgOwner s) fl
    let ovf := carriesOvf e && (phOvf ph || ovfFlag s k)
    if isRoot e then
      let ob := collBytes (coOutFmt e)
      let cs := rs.map fun r => rootElem e ftz r.1
      let bytes := cs.flatMap fun x => natBytes ob x.code
      let a := (coDst e).toNat + i0 * ob
      match collFault s1 a (n * ob) true with
      | some err => failColl s1 h c err true true
      | none =>
        let eff : Eff := if coOutFmt e = 6 then convsEff 6 cs else Eff.none
        let s2 := countEff (setFlags (pkgWrite s1 a bytes) (imgOwner s) (cs.foldl (fun a x => a ||| x.fl) 0)) 1024 k eff
        let ovf' := ovf || (carriesOvf e && cs.any fun x => !x.val.isFin)
        let c1 := { c with reduced := c.reduced + n, ovf := c.ovf || ovf' }
        let s3 := putColl s2 h c1
        let s4 := if ovf' then setOvf s3 k else s3
        let s5 := if coKind e = 3 ∧ c1.reduced % 8192 = pieceElems e (phPiece ph).toNat % 8192 then
            bcastPackets s4 h c1 (phPiece ph).toNat c1.ovf
          else s4
        finishColl s5 h c1
    else
      let c1 := { c with reduced := c.reduced + n }
      let out := rs.flatMap fun r => leBytes 8 r.1
      let s2 := sendPiece (putColl s1 h c1) h c1
        (mkPh (coId e) c.start (phPiece ph).toNat (phPart ph).toNat false ovf false eOk n) out
      finishColl s2 h c1

/-- A broadcast packet at an active station (R293, R295, R296). -/
def bcastPacket (s : State) (h : Nat) (c : Coll) (ph : BitVec 384) (data : List Byte) : State :=
  let e := c.entry
  let n := (phCount ph).toNat
  let ob := collBytes (coOutFmt e)
  let a := (coDst e).toNat + packetElem e ph * ob
  match collFault s a (n * ob) true with
  | some err => failColl s h c err true true
  | none =>
    let c1 := { c with bcast := c.bcast + n, ovf := c.ovf || phOvf ph }
    let s1 := putColl (pkgWrite s a (data.take (n * ob))) h c1
    let s2 := if coKind e = 3 ∧ phOvf ph = true then setOvf s1 (collStep s c) else s1
    let s3 := if isLast e then s2 else sendPiece s2 h c1 ph (data.take (n * ob))
    finishColl s3 h c1

/-- A packet of an active collective. -/
def piecePacket (s : State) (h : Nat) (c : Coll) (ph : BitVec 384) (data : List Byte) : State :=
  if phRound ph then (if isBcast c.entry && !isRoot c.entry then bcastPacket s h c ph data else s)
  else if isReduce c.entry then reducePacket s h c ph data else s

/-! ### Starting (R293, R297, R298) -/

/-- The first station of a reduce starts every piece: pairs of its own contribution (R293, R294). -/
def startReduce (s : State) (h : Nat) (k : BitVec 40 × BitVec 32) : State :=
  match findColl (officeOf s h) k with
  | none => s
  | some c =>
    (List.range (pieceCount c.entry)).foldl (fun s i =>
      (List.range ((pieceElems c.entry i + 503) / 504)).foldl (fun s part =>
        match findColl (officeOf s h) k with
        | some c =>
          if c.st = .active then
            let n := min 504 (pieceElems c.entry i - part * 504)
            reducePacket s h c (mkPh k.2 k.1 i part false false false eOk n) (List.replicate (8 * n) 0)
          else s
        | none => s) s) s

/-- The root of a broadcast converts every element to the result format, writes it at its own `dst` and sends every piece (R293). -/
def startBcast (s : State) (h : Nat) (c : Coll) : State :=
  let e := c.entry
  let ib := collBytes (coInFmt e)
  let ob := collBytes (coOutFmt e)
  let ftz := cfgFtz (ctxOf s s.run.imgCtx.val).cfg
  let f := if coOutFmt e = 6 then fBF16 else fFP32
  match collFault s (coSrc e).toNat (coCount e * ib) false, collFault s (coDst e).toNat (coCount e * ob) true with
  | some err, _ => failColl s h c err true true
  | _, some err => failColl s h c err true true
  | none, none =>
    let cs := (List.range (coCount e)).map fun i =>
      let x := contribution s e ftz i
      let r := fromRead x.2 (convF f .nearest false ftz x.1)
      { r with fl := r.fl ||| x.2 }
    let s1 := countEff (setFlags (pkgWrite s (coDst e).toNat (cs.flatMap fun x => natBytes ob x.code)) (imgOwner s)
      (cs.foldl (fun a x => a ||| x.fl) 0)) 1024 (collStep s c) (if coOutFmt e = 6 then convsEff 6 cs else Eff.none)
    let s2 := (List.range (pieceCount e)).foldl (fun s i => bcastPackets s h c i false) s1
    finishColl s2 h c

/-- The held pieces of a collective that has started, in piece order (R298). -/
def heldOf (o : Office) (k : BitVec 40 × BitVec 32) : List HeldPiece :=
  let l := o.held.filter fun x => phStart x.ph == k.1 && phId x.ph == k.2
  l.insertionSort fun a b => (phPiece a.ph).toNat * 32 + (phPart a.ph).toNat ≤ (phPiece b.ph).toNat * 32 + (phPart b.ph).toNat

/-- Armed collective `c` starts: it becomes active, begins its own pieces, and takes its held pieces out. -/
def startColl (s : State) (h : Nat) (c : Coll) : State :=
  let k := collKey c
  let held := heldOf (officeOf s h) k
  let c1 := { c with st := .active }
  let s1 := modOffice (putColl s h c1) h fun o =>
    { o with held := o.held.filter fun x => !(phStart x.ph == k.1 && phId x.ph == k.2) }
  let s2 := if isReduce c.entry then (if isFirst c.entry then startReduce s1 h k else s1)
    else if isRoot c.entry then startBcast s1 h c1 else s1
  held.foldl (fun s x => match findColl (officeOf s h) k with
    | some c => if c.st = .active then piecePacket s h c x.ph x.data else s
    | none => s) s2

/-- A COLL_START release, or an accepted host collective, arms an instance (R297, R299). -/
def armColl (s : State) (h : Nat) (e : BitVec 512) (start : BitVec 40) (host : Option (Option (Fin 64))) : State :=
  match findColl (officeOf s h) (start, coId e) with
  | some _ => s
  | none => putColl s h { entry := e, start := start, st := .armed, isHost := host.isSome, notify := host.getD none,
                          reduced := 0, bcast := 0, part := 0, bpart := 0, ovf := false }

/-! ### An arriving packet (R298, R300) -/

/-- Pieces in the hold, each taking one slot. -/
def heldPieces (o : Office) : List (BitVec 32 × BitVec 40 × BitVec 27 × Bool) :=
  (o.held.map fun x => (phId x.ph, phStart x.ph, phPiece x.ph, phRound x.ph)).dedup

/-- Slots of the hub's hold (R288); none without a section 0x06 header. -/
def holdSlots (s : State) (h : Nat) : Nat :=
  match s.run.image with | some im => ((im.collHubs[h]?).map fun b => (chHoldSlots b).toNat).getD 0 | none => 0

/-- A PIECE packet reaches its station (R298): the status of its response, and the state after it. -/
def pieceArrives (s : State) (h : Nat) (ph : BitVec 384) (data : List Byte) : State × Err :=
  let k := (phStart ph, phId ph)
  let o := officeOf s h
  match collState s h k with
  | some .active => match findColl o k with | some c => (piecePacket s h c ph data, eOk) | none => (s, eOk)
  | some .listed | some .armed =>
    let ps := heldPieces o
    if ps.contains (phId ph, phStart ph, phPiece ph, phRound ph) then (modOffice s h fun o => { o with held := o.held ++ [⟨ph, data⟩] }, eOk)
    else if ps.length < holdSlots s h then
      (modOffice s h fun o => { o with held := o.held ++ [⟨ph, data⟩], piecesHeld := satInc o.piecesHeld }, eOk)
    else (modOffice s h fun o => { o with holdRefused := satInc o.holdRefused }, eBusy)
  | some .finished | some .failed => (modOffice s h fun o => { o with pieceStale := satInc o.pieceStale }, eOk)
  | none =>
    if (expectedKeys s h).all fun x => keyLt k x then (modOffice s h fun o => { o with pieceStale := satInc o.pieceStale }, eOk)
    else (s, eRange)

/-- A COLL_ABORT reaches its station (R300): `toNext` and `toPrev` say which way it passes on. -/
def abortArrives (s : State) (h : Nat) (ph : BitVec 384) (toNext toPrev : Bool) : State :=
  let k := (phStart ph, phId ph)
  let pass := fun (s : State) (c : Coll) =>
    let s1 := if toNext then abortNext s h c (phCode ph) else s
    if toPrev then abortPrev s1 h c (phCode ph) else s1
  match findColl (officeOf s h) k with
  | some c =>
    match c.st with
    | .failed => s
    | .finished => pass s c
    | _ => failColl s h c (phCode ph) toNext toPrev
  | none =>
    match isListed s h k with
    | some e => failColl s h { entry := e, start := k.1, st := .listed, isHost := false, notify := none, reduced := 0,
                               bcast := 0, part := 0, bpart := 0, ovf := false } (phCode ph) toNext toPrev
    | none => s

/-- The image's collectives leave the offices (R206: the schedule's collectives stop with it; a rerun lists new ones). -/
def clearColls (s : State) : State :=
  { s with offices := tmap Office.reset (fun _ o =>
      { o with colls := o.colls.filter (·.isHost), held := o.held.filter fun x => bit (phId x.ph) 31 }) s.offices }

end Sys2Proof.Machine
end

