-- ==== Sys2Proof/Machine/EccOps.lean ====
section
/-! DEFINITION. What the error-correcting codes meet as an access's bytes move (R213, R397 to R400), and the accesses that wait
while a hub flushes its cache-mode slices (R229). -/

namespace Sys2Proof.Machine

/-- The channel, source and clock of the memory at address `a`; `none` in a status space. -/
def eccPlace (s : State) (a : Nat) : Option (BitVec 32 × BitVec 32 × Pm) :=
  if a < 0x010000000000 then
    let m := memChannel s a
    let st := (hbmPlace (hashKey s (hkeyOf s m.1 a)) a).toNat / 64
    some (m.2, srcUnit s 0xAA m.1 st, clock s (domHbm (4 * m.1 + st)))
  else if a < 0x010080000000 then
    let m := memChannel s a
    some (m.2, srcUnit s 0xAB m.1 ((a - 0x010000000000) / 0x04000000 % 8), clock s (domHub m.1))
  else none

/-- The core whose scratchpad or instruction store holds address `a`. -/
def coreOfAddr (a : Nat) : Option CoreId :=
  if 0x020000000000 ≤ a ∧ a < 0x020400000000 then some (BitVec.ofNat 17 ((a - 0x020000000000) / 131072))
  else if 0x030000000000 ≤ a ∧ a < 0x030080000000 then some (BitVec.ofNat 17 ((a - 0x030000000000) / 16384))
  else none

/-- A corrected or transient error at a core's own storage (R399: one channel per core). -/
def coreEcc (s : State) (c : CoreId) (o : EccOutcome) : State :=
  let pm := coreClock s c
  match o with
  | .clean => s
  | .corrected => correctedError (modPort s c fun p => { p with corrected := p.corrected + 1 }) (srcCore s c) pm (coreChannel s c)
  | .transient =>
    transientFault (modPort s c fun p => { p with transient := p.transient + 1 }) (srcCore s c) pm (coreChannel s c) 0x01
  | .lasting => retireCore s c 0x01 eRetired
  | .lineCorrected | .lineTransient | .lineLost => s

/-- What the cache slice in front of the HBM met (R399, R400). -/
def cacheEcc (s : State) (a : Nat) (o : EccOutcome) : State :=
  match cacheSlice s a with
  | none => s
  | some sl =>
    let src := srcUnit s 0xAB (sl / 8) (sl % 8)
    let pm := clock s (domHub (sl / 8))
    match o with
    | .lineCorrected => correctedError s src pm (sliceChannel sl)
    | .lineTransient => transientFault s src pm (sliceChannel sl) 0x01
    | .lineLost => lineLost s sl (a / 256)
    | _ => s

/-- What the codes met at package address `a` (R213, R398 to R400); a channel already retired gets no further retries. -/
def memEcc (s : State) (a : Nat) (o : EccOutcome) : State :=
  if touchesRetired s a 1 then s else
  match coreOfAddr a, eccPlace s a with
  | some c, _ => coreEcc s c o
  | none, some (ch, src, pm) =>
    match o with
    | .clean => s
    | .lineCorrected | .lineTransient | .lineLost => cacheEcc s a o
    | .corrected => correctedError s src pm ch
    | .transient => transientFault s src pm ch 0x01
    | .lasting => retireMem s a
  | none, none => s

/-- Address `a` lies within one of the accesses (address, length). -/
def within (as : List (Nat × Nat)) (a : Nat) : Bool := as.any fun x => decide (x.1 ≤ a) && decide (a < x.1 + x.2)

/-- What the codes met within the accesses of a command; outside of them, nothing. -/
def metEcc (s : State) (e : EccAt) (as : List (Nat × Nat)) : State :=
  if within as e.addr.toNat then memEcc s e.addr.toNat e.outcome else s

/-- An access of `n` bytes from `a` meets the HBM range of a hub that is flushing: it waits (R229). -/
def hbmWaits (s : State) (a n : Nat) : Bool :=
  n != 0 && decide (a < 0x010000000000) &&
    (List.range ((a + n - 1) / 2 ^ 38 - a / 2 ^ 38 + 1)).any fun i => (hubOf s (a / 2 ^ 38 + i)).flushing

/-- One of the accesses waits. -/
def anyWaits (s : State) (as : List (Nat × Nat)) : Bool := as.any fun x => hbmWaits s x.1 x.2

end Sys2Proof.Machine
end

