-- ==== Sys2Proof/Machine/Coll.lean ====
section
/-! DEFINITION. The sorting office's own events (R297, R300). -/

namespace Sys2Proof.Machine

/-- Earlier in key order. -/
def earliest (l : List Coll) : Option Coll :=
  l.foldl (fun a c => match a with | none => some c | some b => if keyLt (collKey c) (collKey b) then some c else a) none

/-- The office's collectives run: the schedule does, and no rollback awaits its restore; a collective of the host runs
whatever the schedule does. -/
def officeRuns (s : State) (c : Coll) : Bool := c.isHost || (s.sched = .running && s.run.rolling.isNone)

/-- The package memory that a collective reaches (R289). -/
def collSpans (e : BitVec 512) : List (Nat × Nat) :=
  [((coSrc e).toNat, coCount e * collBytes (coInFmt e)), ((coDst e).toNat, coCount e * collBytes (coOutFmt e))]

/-- COLLECTIVE_STARTS (R297): the earliest armed collective starts when every earlier one has started or failed and fewer
than 8 are active. `met` is what the adder lanes and the codes met in what it then computes (R213, R302); one
that sums or compares fails where no adder lane is left. -/
def execCollectiveStarts (h : Fin 4) (met : PieceMet) (s : State) : Res :=
  match earliest ((officeOf s h.val).colls.filter fun c => c.st = .armed) with
  | some c => whenever (officeRuns s c && !mustWait s h.val (collKey c) && decide ((activeColls (officeOf s h.val)).length < 8) &&
        !anyWaits s (collSpans c.entry)) s
      (let s1 := lanesGone (laneCheck (metEcc s met.ecc (collSpans c.entry)) h.val (if isReduce c.entry then met.lane else none)) h.val
       if isReduce c.entry ∧ (officeOf s1 h.val).lanesLive = 0 then s1 else startColl s1 h.val c)
  | none => .next s

/-- The beat at which a collective that has not started fails. -/
def collLate (s : State) (h : Nat) (start : BitVec 40) (e : BitVec 512) : Bool :=
  pmReached (officePm s h) (pmOfBeat (start + (coTimeout e).setWidth 40))

/-- COLL_TIMEOUT (R300): collective `id` has not started `timeout_beats` beats after its start. -/
def execCollTimeout (h : Fin 4) (id : BitVec 32) (s : State) : Res :=
  match (officeOf s h.val).colls.find? fun c => coId c.entry == id && (c.st = .armed || c.st = .listed) with
  | some c => whenever (collLate s h.val c.start c.entry) s (failColl s h.val c eCollOrder true true)
  | none =>
    match (hubColls s h.val).find? fun e => coId e == id with
    | some e =>
      match nextInstance s e with
      | some n =>
        whenever (officeRuns s ⟨e, n, .listed, false, none, 0, 0, 0, 0, false⟩ && (findColl (officeOf s h.val) (n, id)).isNone &&
            collLate s h.val n e) s
          (failColl s h.val { entry := e, start := n, st := .listed, isHost := false, notify := none, reduced := 0,
                              bcast := 0, part := 0, bpart := 0, ovf := false } eCollOrder true true)
      | none => .next s
    | none => .next s

end Sys2Proof.Machine
end

