-- ==== Sys2Proof/Machine/CoreOps.lean ====
section
/-! DEFINITION. What the SCU does between instructions: taking a start (R51), ending a stream, dispatching an envelope
(R172), and sending one (R164, R165). -/

namespace Sys2Proof.Machine

/-! ### Starts -/

/-- Nanoseconds from postmark `a` to `b` at the beat period (R25). -/
def pmNs (s : State) (a b : Pm) : Nat := (b - a).toNat * s.tb.beatPeriod.toNat / 2 ^ 24

/-- The bucket of a waiting time (R377). -/
def waitBucket (ns : Nat) : Nat := if ns < 128 then 0 else min 15 (Nat.log2 ns - 6)

/-- A measured start (R377): count, total and bucket of its owner. -/
def addWait (s : State) (ctx : BitVec 6) (ns : Nat) : State :=
  modCtx s ctx.toNat fun c =>
    { c with waitCount := c.waitCount + 1, waitTotal := c.waitTotal + BitVec.ofNat 64 ns,
             waitHist := tput 0 c.waitHist (waitBucket ns) (satInc (tget 0 c.waitHist (waitBucket ns))) }

/-- Roles become set 0 active for a stream's start (R66, R474): at once where nothing is queued, else by one more swap
in program order where the queued swaps would leave set 1 active. -/
def roleSetZero (k : Core) : Core :=
  let swaps := (k.mxaQ.filter fun o => match o with | .mma _ _ w .. => mmaSwap w | .swap _ => true).length
  if k.active == (swaps % 2 == 1) then k
  else if k.mxaQ.isEmpty && k.drainQ.isEmpty then { k with active := false }
  else { k with mxaQ := k.mxaQ ++ [.swap k.seq], seq := k.seq + 1 }

/-- A core begins a stream at a start (R51, R474): only set 0's role and the Q4X pairing change beside the control. -/
def beginStream (k : Core) (e : StartEnt) : Core :=
  roleSetZero { k with phase := .running, pc := e.addr.setWidth 12, stream := some e.stream, hold := .none, loops := [],
                       handler := none, half := none, halted := false }

/-- No core of the umbel still queues the start that fired at `t` (R377). -/
def startsDone (s : State) (u : BitVec 16) (t : Pm) : Bool :=
  let none_ := fun (q : List StartEnt) => q.all fun e => !(e.stream.umbel == u && e.fired == t)
  (umCores (umbelOf s u.toNat)).all (fun c => none_ (coreOf s c).startQ) &&
    s.evicts.all fun v => v.cores.all fun k => none_ k.2.startQ

/-- Core `c` takes a start; the last core of the umbel to begin ends the waiting time of that start. -/
def takeStart (s : State) (c : CoreId) (e : StartEnt) : State :=
  let s1 := modCore s c fun k => beginStream k e
  if startsDone s1 e.stream.umbel e.fired then
    addWait s1 e.stream.owner (pmNs s e.fired (coreClock s c))
  else s1

/-- The start at the head of the queue fired before the oldest envelope was accepted, or no envelope waits (R172). -/
def startFirst (k : Core) (p : Port) : Bool :=
  match k.startQ, p.pillar with
  | e :: _, v :: _ => pmLt e.fired v.at_
  | _ :: _, [] => true
  | [], _ => false

/-- What a core does at HALT (R51, R172): it takes the queued start that comes first, or stands idle. -/
def atHalt (s : State) (c : CoreId) : State :=
  let k := coreOf s c
  match k.startQ with
  | e :: t => if startFirst k (portOf s c) then takeStart (modCore s c fun k => { k with startQ := t }) c e
    else modCore s c fun k => { k with phase := .idle, hold := .none, halted := true }
  | [] => modCore s c fun k => { k with phase := .idle, hold := .none, halted := true }

/-! ### Dispatch (R172) -/

/-- The core has reached a point at which it dispatches: idle after a HALT, or held by an unmet WAIT.RCPT or WAIT.PM. -/
def atDispatchPoint (s : State) (c : CoreId) : Bool :=
  let k := coreOf s c
  match k.phase, k.hold with
  | .idle, _ => k.halted && !startFirst k (portOf s c)
  | .running, .pm _ => !holdMet s c k
  | .running, .rcpt _ _ => !holdMet s c k
  | _, _ => false

/-- The oldest accepted envelope goes to its handler. -/
def dispatchEnv (s : State) (c : CoreId) (v : Envelope) (rest : List Envelope) : State :=
  let inbox := (ebInbox (portOf s c).blk.hdr).toNat
  let h := tget 0 (portOf s c).blk.ents (ehHandler v.hdr).toNat
  let s1 := spWrite s c inbox (leBytes 64 v.hdr ++ v.payload)
  let s2 := modPort s1 c fun p => { p with pillar := rest }
  modCore s2 c fun k =>
    let k1 := { k with handler := some { pc := k.pc, hold := k.hold, wasIdle := k.phase = .idle,
                                         dstAdd := ehDstAdd v.hdr, dst := ehDstRcpt v.hdr },
                       phase := .running, hold := .none, pc := (heEntry h).setWidth 12 }
    setSreg (setSreg (setSreg (setSreg (setSreg k1 19 (BitVec.ofNat 64 inbox)) 20 (ehArg0 v.hdr)) 21 (ehArg1 v.hdr))
      22 (ehArg2 v.hdr)) 23 (ehArg3 v.hdr)

/-! ### Sending an envelope (R163 to R165) -/

/-- The header prepared at scratchpad address `a`. -/
def hdrAt (s : State) (c : CoreId) (a : Nat) : BitVec 512 := leWord 512 (spRead s c a 64)

/-- The first failing check of R164 on the header prepared at `a`; `none` where it may leave. -/
def sendFault (s : State) (c : CoreId) (a : Nat) : Option Err :=
  let h := hdrAt s c a
  if a % 64 ≠ 0 then some eAlign
  else if spSize < a + 64 then some eRange
  else if (ehLen h).toNat % 16 ≠ 0 then some eAlign
  else if 256 < (ehLen h).toNat ∨ spSize < a + 64 + (ehLen h).toNat then some eRange
  else if ehVersion h ≠ 1 then some eRange
  else if !ehRsv h || ehKind h != 0 || ehTries h != 0 || ehSrcPkg h != 0 || ehSrcCore h != 0 || ehNack h != 0
      || ehPostmark h != 0 then some eReserved
  else if !mayAdd s c (ehSrcRcpt h) then some eKey
  else none

/-- The header as it travels: the RO fields written by hardware (R163). -/
def travelHdr (s : State) (c : CoreId) (h : BitVec 512) (tries : Nat) (first : Pm) : BitVec 512 :=
  putFld (putFld (putFld (putFld h 481 (BitVec.ofNat 4 tries)) 418 s.place.addr) 401 c) 256 first

/-- The envelope of outbox entry `e` leaves core `c`: to a core of this package, or as an ENVELOPE request (R257). -/
def launch (s : State) (c : CoreId) (e : Fin 16) (o : OutEnt) : State :=
  let h0 := hdrAt s c o.addr.toNat
  let h := travelHdr s c h0 o.tries o.first
  let pay := spRead s c (o.addr.toNat + 64) (ehLen h0).toNat
  if ehDstPkg h = s.place.addr then { s with flights := s.flights ++ [.env h pay e none] }
  else sendReq s (dieOf c / 8) (ehDstPkg h) 2 (coreFlow s c) (leBytes 64 h ++ pay) (.envelope c e)

/-- The lowest free outbox entry (R165). -/
def freeEntry (p : Port) : Option Nat := (List.range 16).find? fun i => (tget none p.outbox i).isNone

/-- Send the prepared envelope at `a` through outbox entry `i` (R165): `env_sent` counts it. -/
def sendEnv (s : State) (c : CoreId) (i : Nat) (a : Word) : State :=
  let o : OutEnt := { addr := a, tries := 0, first := coreClock s c, retry := none }
  let s1 := modPort s c fun p => { p with outbox := tput none p.outbox i (some o), envSent := satInc p.envSent }
  let s2 := trace s1 (srcCore s c) (coreClock s c) evTraceEnvelope (some (coreCtx s c))
    [(16, (ehSeq (hdrAt s c a.toNat)).toNat), (16, (ehDstUmbel (hdrAt s c a.toNat)).toNat)]
  launch s2 c (Fin.ofNat 16 i) o

end Sys2Proof.Machine
end

