-- ==== Sys2Proof/Machine/QueueOps.lean ====
section
/-! DEFINITION. Receipt units (R176 to R184) and queues (R148 to R155): counts and copies, slot moves, occupancy and the
watermarks. -/

namespace Sys2Proof.Machine

/-! ### Receipts -/

/-- The new count of receipt `r` sets out to every subscriber (R182). -/
def sendCount (s : State) (r : BitVec 14) (n : BitVec 32) : State :=
  let subs := ((List.range 36).filter fun i => (rcptSubs s r).getLsbD i).map fun i => (Fin.ofNat 36 i, r, n)
  modRcpt s fun x => { x with sends := x.sends ++ subs }

/-- The count of receipt `r`. -/
def countOf (s : State) (r : BitVec 14) : BitVec 32 := tget 0 s.rcpt.count r.toNat

/-- Receipt `r` is set, by no add, to `n`: subscribers take it as the next count sent (R184, R202). -/
def setCount (s : State) (r : BitVec 14) (n : BitVec 32) : State :=
  if countOf s r = n then s else sendCount (modRcpt s fun x => { x with count := tput 0 x.count r.toNat n }) r n

/-- The watermark of receipt `r` is armed and crossed by the change (R184), in the package's current step. -/
def wmCrossed (s : State) (r : BitVec 14) (a b : BitVec 32) : Bool :=
  match rcptDesc s r with
  | some d => rdWmEn d && !rcReached a (rcTarget s r (rdWm d) s.run.step) && rcReached b (rcTarget s r (rdWm d) s.run.step)
  | none => false

/-- The source id of the first of `l`, from count `a` on, whose running sum brings the count to the watermark (R184). -/
def crossingAdd (s : State) (r : BitVec 14) : BitVec 32 → List (BitVec 32 × BitVec 32) → BitVec 32
  | _, [] => 0
  | a, x :: t => if wmCrossed s r a (a + x.1) then x.2 else crossingAdd s r (a + x.1) t

/-- Adds that reach receipt `r` in one hub cycle, as (increment, source id): applied as their sum, and the count is sent once (R179,
R182, R184). -/
def applyAdds (s : State) (r : BitVec 14) (l : List (BitVec 32 × BitVec 32)) : State :=
  let a := countOf s r
  let b := l.foldl (fun n x => n + x.1) a
  let s1 := modRcpt s fun x => { x with count := tput 0 x.count r.toNat b }
  let s2 :=
    if !wmCrossed s r a b then s1
    else if tget false s.rcpt.sticky r.toNat then
      modRcpt s1 fun x => { x with wmCount := tput 0 x.wmCount r.toNat (satInc (tget 0 x.wmCount r.toNat)) }
    else
      post (modRcpt s1 fun x => { x with sticky := tput false x.sticky r.toNat true,
                                         wmCount := tput 0 x.wmCount r.toNat 1 })
        (crossingAdd s r a (l.insertionSort fun x y => x.2.toNat ≤ y.2.toNat)) (clock s (domHub (r.toNat / 4096))) evRcptWm
        (some (imgOwner s)) eOk [(32, r.toNat), (64, s.run.step.toNat), (32, b.toNat)]
  if a = b then s2 else sendCount s2 r b

/-- One add of `inc` from source `src`. -/
def applyAdd (s : State) (r : BitVec 14) (inc : BitVec 32) (src : BitVec 32) : State := applyAdds s r [(inc, src)]

/-! ### Queues -/

/-- The slot that holds micro-batch `mb` (R149). -/
def slotIdx (d : BitVec 256) (mb : Nat) : Nat := mb % ((qdDepth d).toNat + 1)

/-- The storage of slot `i` (R149). -/
def slotAddr (d : BitVec 256) (i : Nat) : Nat := (qdBase d).toNat + i * (qdSlotBytes d).toNat

/-- Occupied: Full or Draining (R151). -/
def occupied (x : Slot) : Bool := x.st = .full || x.st = .draining

/-- The occupancy of a queue (R151). -/
def occupancy (s : State) (q : Nat) (d : BitVec 256) : BitVec 9 :=
  BitVec.ofNat 9 ((List.range ((qdDepth d).toNat + 1)).filter fun i => occupied (slotOf s q i)).length

/-- The queue's status after its occupancy becomes `n` (R153 to R155). -/
def queueAfter (d : BitVec 256) (x : Queue) (n : BitVec 9) : Queue :=
  let hi := qdHiEn d && decide (x.occ < qdWmHigh d) && decide (qdWmHigh d ≤ n)
  let lo := qdLoEn d && decide (qdWmLow d < x.occ) && decide (n ≤ qdWmLow d)
  { x with
    occ := n
    hiSticky := x.hiSticky || hi
    hiCount := if hi then (if x.hiSticky then satInc x.hiCount else 1) else x.hiCount
    hiPeak := if hi && !x.hiSticky then n else if x.hiSticky && decide (x.hiPeak < n) then n else x.hiPeak
    loSticky := x.loSticky || lo
    loCount := if lo then (if x.loSticky then satInc x.loCount else 1) else x.loCount
    loTrough := if lo && !x.loSticky then n else if x.loSticky && decide (n < x.loTrough) then n else x.loTrough }

/-- Occupancy is recomputed and a first crossing posts its record (R155); the peak or trough in the record is filled in
at its release. -/
def judgeQueue (s : State) (q : Nat) : State :=
  match queueDesc s q with
  | none => s
  | some d =>
    let x := queueOf s q
    let n := occupancy s q d
    let y := queueAfter d x n
    let h := (qdHub d).toNat
    let rec1 := fun (s : State) (code : BitVec 16) =>
      post s (srcUnit s 0xA0 h 0) (clock s (domHub h)) code (some (imgOwner s)) eOk [(16, q), (16, n.toNat)]
    let s1 := modQueue s q fun _ => y
    let s2 := if y.hiSticky && !x.hiSticky then rec1 s1 evQueueWmHigh else s1
    if y.loSticky && !x.loSticky then rec1 s2 evQueueWmLow else s2

/-- Occupancy after a return of slots to a snapshot, not judged for a crossing (R153). -/
def resetOcc (s : State) (q : Nat) : State :=
  match queueDesc s q with
  | none => s
  | some d => modQueue s q fun x => { x with occ := occupancy s q d }

/-- Replace slot `i` of queue `q`. -/
def putSlot (s : State) (q i : Nat) (x : Slot) : State := { s with slots := tput Slot.reset s.slots (q * 256 + i) x }

/-- A receipt add by queue `q`'s owning hub. -/
def queueAdd (s : State) (h : Nat) (r : BitVec 14) : State := addReceipt s r 1 (srcUnit s 0xA0 h 0)

/-- The slot accepts a POST for micro-batch `mb` (R151, R152). -/
def postAccepts (x : Slot) (mb : BitVec 8) : Bool :=
  (x.st = .empty && (x.claim.isNone || x.claim == some mb) && (!(x.b0 || x.b1) || x.mb == mb)) ||
    (x.st = .filling && x.mb == mb)

/-- The slot gives micro-batch `mb` to a COLLECT (R146). -/
def collectReady (x : Slot) (mb : BitVec 8) : Bool := occupied x && x.mb == mb

/-- A POST in transit claims an Empty slot for its micro-batch (R151). -/
def claimSlot (s : State) (q : Nat) (d : BitVec 256) (mb : BitVec 8) : State :=
  let i := slotIdx d mb.toNat
  let x := slotOf s q i
  if x.st = .empty then putSlot s q i { x with claim := some mb } else s

/-- A POST part for `mb` is delivered (R150): `n` names the consignment that posted it. -/
def postPart (s : State) (q : Nat) (d : BitVec 256) (mb : BitVec 8) (n : BitVec 20) : State :=
  let i := slotIdx d mb.toNat
  let x := slotOf s q i
  let got := (if x.st = .empty then 0 else x.got) + 1
  let full := got = (qdParts d).toNat + 1
  let y : Slot := { x with st := if full then .full else .filling, mb := mb, got := got, taken := 0, claim := none,
                           parts := (if x.st = .empty then [] else x.parts) ++ [n] }
  let s1 := modQueue (putSlot s q i y) q fun z => { z with posts := satInc z.posts }
  let s2 := if full then queueAdd s1 (qdHub d).toNat (qdArrive d) else s1
  judgeQueue s2 q

/-- A COLLECT part for `mb` is delivered (R150). -/
def collectPart (s : State) (q : Nat) (d : BitVec 256) (mb : BitVec 8) : State :=
  let i := slotIdx d mb.toNat
  let x := slotOf s q i
  let taken := x.taken + 1
  let last := taken = (qdParts d).toNat + 1
  let y : Slot := if last then { x with st := .empty, got := 0, taken := 0, claim := none, parts := [] }
    else { x with st := .draining, taken := taken }
  let s1 := modQueue (putSlot s q i y) q fun z => { z with collects := satInc z.collects }
  let s2 := if last then queueAdd s1 (qdHub d).toNat (qdFree d) else s1
  judgeQueue s2 q

/-- Set or clear boundary bit `b` (R152). -/
def setBound (b : Nat) (v : Bool) (x : Slot) : Slot := if b = 0 then { x with b0 := v } else { x with b1 := v }

/-- Clear boundary bit `b` of every slot (R152, R471). -/
def clearBounds (s : State) (b : Nat) : State :=
  { s with slots := tmap Slot.reset (fun _ => setBound b false) s.slots }

/-- Set boundary bit `b` of every slot that is not Empty (R152). -/
def setBounds (s : State) (b : Nat) : State :=
  { s with slots := tmap Slot.reset (fun _ x => if x.st = .empty then x else setBound b true x) s.slots }

end Sys2Proof.Machine
end

