-- ==== Sys2Proof/Machine/EditionOps.lean ====
section
/-! DEFINITION. Edition units (R156 to R162): editions and their numbers, granule tables, copy-on-write, resolution, the
flip and what frees an edition. -/

namespace Sys2Proof.Machine

/-- Bytes of a granule and of a frame (R156). -/
def granule : Nat := 65536

/-- Edition slot `n` of stage `g`. -/
def edOf (t : Stage) (n : Nat) : Edition := tget Edition.reset t.eds n

/-- The number of the edition in state `st`, if any. -/
def edIn (t : Stage) (st : EdSt) : Option Nat := (List.range 8).find? fun n => (edOf t n).st = st

/-- Live editions (R159). -/
def liveEds (t : Stage) : List Nat := (List.range 8).filter fun n => (edOf t n).st ≠ .free

/-- The oldest live edition. -/
def oldestEd (t : Stage) : Option Nat :=
  (liveEds t).foldl (fun a n => match a with
    | none => some n
    | some m => if (edOf t n).born < (edOf t m).born then some n else some m) none

/-- The hold count of edition `n`: the valid records that name it (R158). -/
def holds (t : Stage) (n : Nat) : Nat := (t.recs.filter fun r => r.2.valid && r.2.num.toNat == n).length

/-! ### Granule tables -/

/-- The address of pointer `g` of edition slot `n` (R156). -/
def gtAddr (d : BitVec 256) (n g : Nat) : Nat := (edGtBase d).toNat + (n * ((edGranules d).toNat + 1) + g) * 4

/-- The pointer. -/
def gtGet (s : State) (d : BitVec 256) (n g : Nat) : BitVec 32 := leWord 32 (memRead s.mem (gtAddr d n g) 4)

/-- Set the pointer. -/
def gtPut (s : State) (d : BitVec 256) (n g : Nat) (v : BitVec 32) : State := wrMem s (gtAddr d n g) (leBytes 4 v)

/-- The address of the frame a pointer names. -/
def frameOf (p : BitVec 32) : Nat := (fld p 0 31).toNat * granule

/-- `own` of a pointer. -/
def owns (p : BitVec 32) : Bool := bit p 31

/-- The pointers of edition slot `n`. -/
def gtAll (s : State) (d : BitVec 256) (n : Nat) : List (BitVec 32) :=
  (List.range ((edGranules d).toNat + 1)).map (gtGet s d n)

/-- The frames that a stage's editions take: those of its region and of its pool (R156, R160). -/
def stageFrames (d : BitVec 256) : List Nat :=
  (List.range ((edGranules d).toNat + 1)).map (· + (edBase d).toNat / granule) ++
    (List.range (edPool d).toNat).map (· + (edPoolBase d).toNat / granule)

/-- The frames that the live editions of a stage own. Every other frame is in the pool: edition 0's own go to it as they are freed
(R160). -/
def ownedFrames (s : State) (t : Stage) (d : BitVec 256) : List Nat :=
  (liveEds t).flatMap fun n => ((gtAll s d n).filter owns).map fun p => (fld p 0 31).toNat

/-- The lowest-addressed free frame of the pool (R160). -/
def freeFrame (s : State) (t : Stage) (d : BitVec 256) : Option Nat :=
  let own := ownedFrames s t d
  ((stageFrames d).filter fun f => !own.contains f).foldl (fun a f => match a with
    | none => some f
    | some g => if f < g then some f else some g) none



/-! ### Opening and writing a pending edition (R159 to R161) -/

/-- The number after `n`, and its epoch (R158). -/
def nextEd (t : Stage) (n : Nat) : Nat × BitVec 32 :=
  ((n + 1) % 8, if n = 7 then (edOf t n).epoch + 1 else (edOf t n).epoch)

/-- The stage may open a pending edition (R161). -/
def mayOpen (t : Stage) (d : BitVec 256) : Bool :=
  match edIn t .published with
  | some c => (edIn t .pending).isNone && decide ((liveEds t).length < (edMax d).toNat) &&
      decide ((edOf t (nextEd t c).1).st = .free)
  | none => false

/-- The table of edition `n` copied from edition `c` with every `own` clear (R159). -/
def copyTable (s : State) (d : BitVec 256) (c n : Nat) : State :=
  (List.range ((edGranules d).toNat + 1)).foldl (fun s g => gtPut s d n g (putBit (gtGet s d c g) 31 false)) s

/-- The pending edition of step `k`, opened where none stands; `none` where the write is refused (R161). -/
def pendFor (s : State) (g : Nat) (d : BitVec 256) (k : BitVec 40) : Option (State × Nat) :=
  let t := stageOf s g
  match edIn t .pending with
  | some n => if (edOf t n).step = k then some (s, n) else none
  | none =>
    match edIn t .published with
    | some c =>
      if mayOpen t d then
        let n := nextEd t c
        let e : Edition := { st := .pending, epoch := n.2, pins := 0, step := k, born := t.serial + 1 }
        some (copyTable (modStage s g fun t => { t with eds := tput Edition.reset t.eds n.1 e, serial := t.serial + 1 })
          d c n.1, n.1)
      else none
    | none => none

/-- Granule `i` of the pending edition `n` is made owned (R160); `none` when the pool is empty. -/
def ownGranule (s : State) (g : Nat) (d : BitVec 256) (n i : Nat) : Option State :=
  let p := gtGet s d n i
  if owns p then some s
  else
    match freeFrame s (stageOf s g) d with
    | none => none
    | some f =>
      let s1 := wrMem s (f * granule) (memRead s.mem (frameOf p) granule)
      let s2 := gtPut s1 d n i (putBit (BitVec.ofNat 32 f) 31 true)
      some (modStage s2 g fun t => { t with frames := satInc t.frames })

/-- Bytes written into granules of the pending edition, in ascending granule; on an empty pool the granule reached, and
what came before it stays written (R160). -/
def edPut (s : State) (g : Nat) (d : BitVec 256) (n : Nat) : Nat → Nat → List Byte → State × Option Nat
  | 0, _, _ => (s, none)
  | fuel + 1, o, l =>
    if l.isEmpty then (s, none)
    else
      let i := o / granule
      let room := granule - o % granule
      match ownGranule s g d n i with
      | none => (s, some i)
      | some s1 =>
        edPut (wrMem s1 (frameOf (gtGet s1 d n i) + o % granule) (l.take room)) g d n fuel (o + room) (l.drop room)

/-- Write the bytes `l` at offset `o` of the pending edition `n`. -/
def edWrite (s : State) (g : Nat) (d : BitVec 256) (n o : Nat) (l : List Byte) : State × Option Nat :=
  edPut s g d n (l.length / granule + 2) o l

/-- Byte `o` of the region in edition `n`. -/
def edByte (s : State) (d : BitVec 256) (n o : Nat) : Byte :=
  memByte s.mem (frameOf (gtGet s d n (o / granule)) + o % granule)

/-- Bytes of the region in edition `n`. -/
def edRead (s : State) (d : BitVec 256) (n o len : Nat) : List Byte := (List.range len).map fun i => edByte s d n (o + i)

/-- The bytes of the region at offset `o` as they lie in edition `n`, granule by granule: (address, length). -/
def edSpans (s : State) (d : BitVec 256) (n o len : Nat) : List (Nat × Nat) :=
  if len = 0 then []
  else (List.range ((o + len - 1) / granule - o / granule + 1)).map fun j =>
    let i := o / granule + j
    let a := max o (i * granule)
    (frameOf (gtGet s d n i) + a % granule, min (o + len) ((i + 1) * granule) - a)

/-- The edition unit's access fails: its key, then a retired pseudo-channel (R213, R226). -/
def edFault (s : State) (d : BitVec 256) (n o len : Nat) (wr : Bool) : Option Err :=
  let l := edSpans s d n o len
  if l.any fun x => !permitted s editionKey x.1 x.2 (!wr) wr then some eKey
  else if l.any fun x => touchesRetired s x.1 x.2 then some eRetired
  else none

/-- The edition that a reader of step `k` meets: the pending one of the step, else the current one (R160, R190). -/
def readEd (s : State) (g : Nat) (k : BitVec 40) : Option Nat :=
  match edIn (stageOf s g) .pending with
  | some n => if (edOf (stageOf s g) n).step = k then some n else edIn (stageOf s g) .published
  | none => edIn (stageOf s g) .published

/-- The source id of an edition unit. -/
def edSrc (s : State) (g : Nat) : BitVec 32 := srcUnit s 0xA2 (homeHub s g) 0

/-- The clock of an edition unit. -/
def edPm (s : State) (g : Nat) : Pm := clock s (domHub (homeHub s g))

/-- edition.pool_empty (R160): stage, step, granule, kind, consignment or entry. -/
def poolEmpty (s : State) (g : Nat) (k : BitVec 40) (i kind obj : Nat) : State :=
  markStep (post s (edSrc s g) (edPm s g) evEditionPoolEmpty (some (imgOwner s)) eCapacity
    [(16, g), (64, k.toNat), (32, i), (8, kind), (32, obj)]) k

/-- edition.full (R161): stage, step, step of the pending edition, live editions, kind, consignment or entry. -/
def edFull (s : State) (g : Nat) (k : BitVec 40) (kind obj : Nat) : State :=
  let t := stageOf s g
  let p := match edIn t .pending with | some n => (edOf t n).step.toNat | none => 2 ^ 64 - 1
  markStep (post s (edSrc s g) (edPm s g) evEditionFull (some (imgOwner s)) eCapacity
    [(16, g), (64, k.toNat), (64, p), (8, (liveEds t).length), (8, kind), (32, obj)]) k

/-! ### Resolution (R157) -/

/-- The edition that an ED_READ with `sel` resolves for `mb`; `none` where its start condition fails. -/
def resolveEd (t : Stage) (sel : BitVec 2) (mb : Nat) : Option Nat :=
  let r := tget EdRec.reset t.recs mb
  match sel.toNat with
  | 0 => edIn t .published
  | 1 => edIn t .published
  | 2 => if r.valid then some r.num.toNat else none
  | _ => edIn t .pending

/-! ### Freeing (R159, R160) -/

/-- The owned frames of the freed edition `n` that the next live edition `m` shares pass to it; the others are in the pool, for no
live edition owns them any more (R160). -/
def passFrames (s : State) (d : BitVec 256) (n : Nat) (m : Option Nat) : State :=
  (List.range ((edGranules d).toNat + 1)).foldl (fun s i =>
    let p := gtGet s d n i
    if !owns p then s
    else
      match m with
      | some m => let q := gtGet s d m i; if !owns q && fld q 0 31 == fld p 0 31 then gtPut s d m i (putBit q 31 true) else s
      | none => s) s

/-- The next live edition after `n` in age. -/
def nextLive (t : Stage) (n : Nat) : Option Nat :=
  ((liveEds t).filter fun m => decide ((edOf t n).born < (edOf t m).born)).foldl (fun a m => match a with
    | none => some m
    | some x => if (edOf t m).born < (edOf t x).born then some m else some x) none

/-- Free the oldest live edition while it is Superseded with neither holds nor pins (R159). -/
def freeOldest (s : State) (g : Nat) (d : BitVec 256) : Nat → State
  | 0 => s
  | fuel + 1 =>
    let t := stageOf s g
    match oldestEd t with
    | none => s
    | some n =>
      if (edOf t n).st = .superseded ∧ holds t n = 0 ∧ (edOf t n).pins = 0 then
        let s1 := passFrames s d n (nextLive t n)
        freeOldest (modStage s1 g fun t => { t with eds := tput Edition.reset t.eds n Edition.reset }) g d fuel
      else s

/-- Every freeing that R159 allows now. -/
def freeEds (s : State) (g : Nat) : State := match edDesc s g with | some d => freeOldest s g d 8 | none => s

/-- The pending edition of a step not earlier than `k` is freed: its owned frames are in the pool again (R159, R204). -/
def dropPending (s : State) (g : Nat) (k : BitVec 40) : State :=
  let t := stageOf s g
  match edIn t .pending with
  | some n =>
    if decide (k.toNat ≤ (edOf t n).step.toNat) then
      modStage s g fun t => { t with eds := tput Edition.reset t.eds n Edition.reset, frames := 0 }
    else s
  | none => s

/-! ### Settling (R158, R162) -/

/-- Records and drops of step `k` become final. -/
def settleRecs (k : BitVec 40) (t : Stage) : Stage :=
  { t with recs := tmap EdRec.reset (fun _ r =>
      if r.valid && r.dropPend && r.dropIn == k then EdRec.reset
      else if r.valid && r.tentative && r.madeIn == k then { r with tentative := false } else r) t.recs }

/-- Records and drops of the steps from `k` on are undone (R158). -/
def undoRecs (k : BitVec 40) (t : Stage) : Stage :=
  { t with recs := tmap EdRec.reset (fun _ r =>
      if r.valid && r.tentative && decide (k.toNat ≤ r.madeIn.toNat) then EdRec.reset
      else if r.valid && r.dropPend && decide (k.toNat ≤ r.dropIn.toNat) then { r with dropPend := false } else r) t.recs }

/-- The body of edition.flip (R162). -/
def flipBody (t : Stage) (g o n : Nat) (frames : BitVec 32) : BitVec 352 :=
  let h := (List.range 8).foldl (fun (a : BitVec 128) i =>
    a ||| (BitVec.ofNat 128 (if (edOf t i).st = .free then 0 else holds t i % 2 ^ 16) <<< (16 * i))) 0
  BitVec.ofNat 16 g ++ BitVec.ofNat 8 o ++ BitVec.ofNat 8 n ++ (edOf t o).epoch ++ (edOf t n).epoch ++ h ++ frames ++
    (0 : BitVec 96)

/-- The flip of stage `g` at the settlement of step `k` (R162): records settle, the pending edition of step `k` becomes
current, and what R159 then frees is freed. -/
def flipStage (s : State) (g : Nat) (k : BitVec 40) : State :=
  let s1 := modStage s g (settleRecs k)
  let t := stageOf s1 g
  let s2 := match edIn t .pending, edIn t .published with
    | some n, some o =>
      if (edOf t n).step = k then
        let e := edOf t n
        let p := edOf t o
        let s2 := modStage s1 g fun t => { t with
          eds := tput Edition.reset (tput Edition.reset t.eds n { e with st := .published }) o { p with st := .superseded },
          frames := 0 }
        postB s2 (edSrc s g) (edPm s g) evEditionFlip (some (imgOwner s)) eOk (flipBody (stageOf s2 g) g o n t.frames)
      else s1
    | _, _ => s1
  freeEds s2 g

/-- A settlement with the overflow flag set (R204): records settle, the pending edition is freed. -/
def skipStage (s : State) (g : Nat) (k : BitVec 40) : State :=
  let s1 := modStage s g (settleRecs k)
  let t := stageOf s1 g
  let s2 := match edIn t .pending with
    | some n => if (edOf t n).step = k then dropPending s1 g k else s1
    | none => s1
  freeEds s2 g

/-- The stages that have an edition descriptor. -/
def edStages (s : State) : List Nat :=
  match s.run.image with | some im => im.editions.map fun d => (edStage d).toNat | none => []

end Sys2Proof.Machine
end

