-- ==== Sys2Proof/Machine/Quant.lean ====
section
/-! DEFINITION. The quantiser (R124 to R136): fitting a tensor to its layer's bounds, the quant header and verdict, the
statistics, and the widening of pinned channels. -/

namespace Sys2Proof.Machine

/-! ### Bounds (R121) -/

/-- `lo` and `hi` in force of channel `i`, and whether it is pinned. -/
structure ChBound where
  lo : Val
  hi : Val
  pinned : Bool
  deriving DecidableEq, Repr

/-- The word of bounds entry `i` in force: the package's own where it has widened it, else the image's. -/
def boundWord (l : Layer) (st : LayerSt) (i : Nat) : BitVec 32 :=
  tget (fld (l.bounds.getD i 0) 32 32) st.bounds i

/-- The bounds in force of channel `i`. -/
def boundOf (l : Layer) (st : LayerSt) (i : Nat) : ChBound :=
  let w := boundWord l st i
  ⟨decodeF fBF16 (fld w 16 16).toNat, decodeF fBF16 (fld w 0 16).toNat, bePinned (l.bounds.getD i 0)⟩

/-- The lowest of zero and the values. -/
def lowest (l : List Val) : Val := l.foldl (fun a v => if ltVal v a then v else a) Val.zero
/-- The highest of zero and the values. -/
def highest (l : List Val) : Val := l.foldl (fun a v => if ltVal a v then v else a) Val.zero

/-! ### Quotients -/

/-- A finite value as a signed numerator over a power of two at exponent `q`. -/
def scaledInt (v : Val) (q : Int) : Int := v.at_ q

/-- rnd(x / y): the exact quotient of finite values to the nearest integer, ties away from zero (R92); `y` positive. -/
def rndQuot (x y : Val) : Int :=
  let q := min x.exp y.exp
  let n := (x.at_ q).natAbs
  let d := (y.at_ q).natAbs
  let k : Int := roundQ .nearest n d
  if x.isNeg then -k else k

/-- The smallest value of format `f` not below the positive quotient `v / d` (up32 of R125, up16 of R126). -/
def upQuot (f : FFmt) (v : Val) (d : Nat) : Val :=
  match v with
  | .fin _ m e =>
    if m = 0 then Val.zero
    else
      let E := ilogQ m d + e
      let lo : Int := 1 - (f.bias : Int)
      let q := (if E < lo then lo else E) - f.mb
      let k := e - q
      let num := shiftNat m (if 0 ≤ k then k else 0)
      let den := d * 2 ^ (-k).toNat
      .fin false ((num + den - 1) / den) q
  | v => v

/-- Clamp an integer. -/
def clampI (lo hi i : Int) : Int := if i < lo then lo else if hi < i then hi else i

/-- The scale and zero point of a range (R125, R126): `steps` codes above `qmin`. -/
def fitRange (f : FFmt) (L H : Val) (steps : Nat) (qmin : Int) : Val × Int :=
  let w := addVal H L.neg
  let scale := if w.isZero then .fin false 1 0 else upQuot f w steps
  (scale, clampI qmin (qmin + steps) (qmin + rndQuot L.neg scale))

/-! ### What quantising gives -/

/-- One written element: its code, a side entry where it is an escape, and what is counted. -/
structure QElem where
  code  : Int
  side  : Option Nat
  misfit : Bool
  pinSat : Bool
  ovf   : Bool
  van   : Bool
  nan   : Bool
  deriving DecidableEq, Repr

/-- An element under R125; `fz`: it was not zero until its flush as it was read (R97). -/
def quantInt (scale : Val) (zp qmin qmax : Int) (pinned fz : Bool) (x : Val) : QElem :=
  match x with
  | .nan => ⟨zp, none, true, false, false, false, true⟩
  | .inf n => ⟨if n then qmin else qmax, none, !pinned, false, false, false, false⟩
  | v =>
    let q := rndQuot v scale + zp
    let out := decide (q < qmin) || decide (qmax < q)
    let c := clampI qmin qmax q
    ⟨c, none, out && !pinned, out && pinned, out, (fz || !v.isZero) && c == zp, false⟩

/-- The elements of a group under R126, with `n` escapes taken: of each whether its channel is pinned, whether it was not zero until
its flush, and its value. -/
def quantQ4 (scale : Val) (zp : Int) : Nat → List (Bool × Bool × Val) → List QElem
  | _, [] => []
  | n, (pinned, fz, x) :: t =>
    let c := rndQuot x scale + zp
    let fits := x.isFin && decide (0 ≤ c) && decide (c ≤ 14)
    if fits then ⟨c, none, false, false, false, (fz || !x.isZero) && c == zp, false⟩ :: quantQ4 scale zp n t
    else if x.isFin && pinned then
      let c' := clampI 0 14 c
      ⟨c', none, false, true, true, c' == zp, false⟩ :: quantQ4 scale zp n t
    else if n < 4 then
      let r := convF fBF16 .nearest false false x
      ⟨15, some r.code, false, false, r.ovf, r.van, false⟩ :: quantQ4 scale zp (n + 1) t
    else
      let c' := match x with | .nan => zp | .inf m => if m then 0 else 14 | _ => clampI 0 14 c
      ⟨c', none, true, false, x.isFin, x.isFin && c' == zp, false⟩ :: quantQ4 scale zp n t

/-- The 44 bytes of a packed group (R86). -/
def packQ4 (scale : Val) (zp : Int) (es : List QElem) : List Byte :=
  let sides := es.filterMap (·.side)
  natBytes 2 (codeOf fBF16 scale) ++ [BitVec.ofInt 8 zp, BitVec.ofNat 8 sides.length] ++
    (List.range 4).flatMap (fun i => natBytes 2 (sides.getD i 0)) ++ storeCodes 0 (es.map fun e => e.code.toNat)

/-- A quantised tensor: rows of bytes, header fields and counts. -/
structure QTensor where
  rows   : List (List Byte)
  scale  : BitVec 32
  zp     : BitVec 32
  elems  : List QElem
  misfits : Nat
  deriving DecidableEq, Repr

/-- The saturated elements in pinned channels. -/
def QTensor.pins (t : QTensor) : Nat := (t.elems.filter (·.pinSat)).length

/-- INT4 and INT8 (R125): one range for the whole tensor. -/
def fitInt (n : Nat) (bs : List ChBound) (x : List (List (Val × BitVec 8))) : QTensor :=
  let qmin : Int := -((2 ^ (n - 1) : Nat) : Int)
  let qmax : Int := (2 ^ (n - 1) : Nat) - 1
  let r := fitRange fFP32 (lowest (bs.map (·.lo))) (highest (bs.map (·.hi))) (2 ^ n - 1) qmin
  let es := x.map fun row => List.zipWith (fun b (v : Val × BitVec 8) => quantInt r.1 r.2 qmin qmax b.pinned (bit v.2 0) v.1) bs row
  { rows := es.map fun row => storeCodes (if n = 4 then 0 else 1) (row.map fun e => (BitVec.ofInt n e.code).toNat)
    scale := BitVec.ofNat 32 (codeOf fFP32 r.1), zp := BitVec.ofInt 32 r.2, elems := es.flatten,
    misfits := (es.flatten.filter (·.misfit)).length }

/-- Consecutive pieces of `k` elements. -/
def piecesOf {α : Type} (k : Nat) : Nat → List α → List (List α)
  | 0, _ => []
  | n + 1, l => l.take k :: piecesOf k n (l.drop k)

/-- The scale, zero point and elements of one Q4X group. -/
def fitQ4Group (bs : List ChBound) (x : List (Val × BitVec 8)) : Val × Int × List QElem :=
  let r := fitRange fBF16 (lowest (bs.map (·.lo))) (highest (bs.map (·.hi))) 14 0
  (r.1, r.2, quantQ4 r.1 r.2 0 (List.zipWith (fun b (v : Val × BitVec 8) => (b.pinned, bit v.2 0, v.1)) bs x))

/-- Q4X (R126): group by group. -/
def fitQ4 (bs : List ChBound) (x : List (List (Val × BitVec 8))) : QTensor :=
  let n := bs.length / 64
  let gs := x.map fun row => List.zipWith fitQ4Group (piecesOf 64 n bs) (piecesOf 64 n row)
  { rows := gs.map fun row => row.flatMap fun g => packQ4 g.1 g.2.1 g.2.2
    scale := 0x3F800000, zp := 0, elems := gs.flatten.flatMap (·.2.2),
    misfits := (gs.flatten.filter fun g => g.2.2.any (·.misfit)).length }

/-- Quantise rows of values, each with the flags of reading it, by a record's destination format. -/
def quantise (l : Layer) (st : LayerSt) (x : List (List (Val × BitVec 8))) : QTensor :=
  let bs := (List.range ((lrInCh l.hdr).toNat + 1)).map (boundOf l st)
  match (lrDstFmt l.hdr).toNat with
  | 0 => fitInt 4 bs x
  | 1 => fitInt 8 bs x
  | _ => fitQ4 bs x

/-- The quant header (R128), little-endian. -/
def quantHeader (t : QTensor) (pins : Nat) (verdict : BitVec 2) : List Byte :=
  let h : BitVec 128 := t.scale ++ t.zp ++ BitVec.ofNat 16 (min 0xFFFF t.misfits) ++ BitVec.ofNat 16 (min 0xFFFF pins) ++
    (0 : BitVec 30) ++ verdict
  leBytes 16 h

/-! ### Statistics (R134, R135) -/

/-- The address of channel `i`'s entry in half `h` of a record's statistics. -/
def qstatAddr (l : Layer) (h i : Nat) : Nat := (lrStats l.hdr).toNat + (h * ((lrInCh l.hdr).toNat + 1) + i) * 8

/-- vmax and vmin of an entry. -/
def qstatOf (s : State) (l : Layer) (h i : Nat) : Val × Val :=
  let w := memWord s.mem (qstatAddr l h i)
  (decodeF fFP32 (fld w 32 32).toNat, decodeF fFP32 (fld w 0 32).toNat)

/-- Write vmax and vmin of an entry. -/
def qstatPut (s : State) (l : Layer) (h i : Nat) (mx mn : Val) : State :=
  wrMem s (qstatAddr l h i) (leBytes 8 (BitVec.ofNat 32 (codeOf fFP32 mx) ++ BitVec.ofNat 32 (codeOf fFP32 mn)))

/-- A half is reset: every entry to -infinity and +infinity. -/
def qstatReset (s : State) (l : Layer) (h : Nat) : State :=
  (List.range ((lrInCh l.hdr).toNat + 1)).foldl (fun s i => qstatPut s l h i (.inf true) (.inf false)) s

/-- The finite source values of one channel enter its entry. -/
def qstatAdd (s : State) (l : Layer) (h i : Nat) (vs : List Val) : State :=
  let fs := vs.filter Val.isFin
  if fs.isEmpty then s
  else
    let e := qstatOf s l h i
    qstatPut s l h i (fs.foldl maxVal e.1) (fs.foldl minVal e.2)

/-! ### The verdict (R129, R130) -/

/-- The items that calib.misfit, adapt.calib and adapt.denied carry (R130). -/
def misfitItems (l : Layer) (n : BitVec 20) (t : QTensor) : List (Nat × Nat) :=
  [(32, (lrId l.hdr).toNat), (32, n.toNat), (16, min 0xFFFF t.misfits), (32, (lrFallback l.hdr).toNat)]

/-- The verdict, the re-run count and the records. The spec gives the cause in adapt.calib (R45) no code: it is a free value (LOG 11). -/
def judgeQuant (s : State) (l : Layer) (n : BitVec 20) (t : QTensor) (pins : Nat) : State × BitVec 2 :=
  if t.misfits = 0 then (s, if pins = 0 then 0 else 1)
  else
    let h := (lrHub l.hdr).toNat
    let src := srcUnit s 0xA3 h 0
    let pm := clock s (domHub h)
    let ctx := some (imgOwner s)
    let s1 := post s src pm evCalibMisfit ctx eOk (misfitItems l n t)
    if latCalib (latitude s) && decide (s.run.reruns < latMaxReruns (latitude s)) then
      (post { modRun s1 (fun r => { r with reruns := r.reruns + 1 }) with free := s1.free + 1 } src pm evAdaptCalib ctx eOk
        ([(8, (Config.freeWord s1.free).toNat), (8, (lrDstFmt l.hdr).toNat), (8, 4)] ++ misfitItems l n t), 2)
    else (postDenied s1 src pm evAdaptCalib (misfitItems l n t), 3)

/-- The counters of R136 that elements move, and the channels that saturated in the current step `now` (R132). -/
def countElems (l : Layer) (t : QTensor) (now : Bool) (x : LayerSt) : LayerSt :=
  let w := (lrInCh l.hdr).toNat + 1
  let hit := ((List.range t.elems.length).filter fun i => (t.elems[i]?.map (·.pinSat)).getD false).map (· % w)
  { x with escapes := satAdd x.escapes (t.elems.filter (·.side.isSome)).length,
           misfits := satAdd x.misfits t.misfits, pinSat := satAdd x.pinSat t.pins,
           hitPins := if now then (x.hitPins ++ hit).dedup else x.hitPins }

/-- The counters of R136 that a verdict moves. -/
def countVerdict (v : BitVec 2) (x : LayerSt) : LayerSt :=
  { x with reruns := if v = 2 then satInc x.reruns else x.reruns, denied := if v = 3 then satInc x.denied else x.denied }

/-- A quantising consignment has completed (R136). -/
def countTensor (s : State) (l : Layer) : State := modLayer s (lrId l.hdr).toNat fun x => { x with qTensors := satInc x.qTensors }

/-- The elements of the rows `x` that a consignment of step `k` for stage `g` quantised leave their counts, their statistics and
their flags (R98, R127, R134 to R136). `fl` are the flags of reading the source. Once the STEP_END of step `k` has fired, its half of
the statistics is complete and takes nothing more (R135). -/
def countRows (s : State) (l : Layer) (t : QTensor) (k : BitVec 40) (g : Option Nat) (x : List (List (Val × BitVec 8)))
    (fl : BitVec 8) : State :=
  let s1 := modLayer s (lrId l.hdr).toNat (countElems l t (k == s.run.step))
  let s2 := if k == s.run.step then (List.range ((lrInCh l.hdr).toNat + 1)).foldl (fun s i =>
      qstatAdd s l (k.toNat % 2) i (x.map fun row => (row.getD i (.nan, 0)).1)) s1
    else s1
  let f := (lrDstFmt l.hdr).toNat
  let s3 := match g with
    | some g => countEff s2 g k ⟨0, (t.elems.filter (·.ovf)).map (fun _ => f), (t.elems.filter (·.van)).map (fun _ => f)⟩
    | none => s2
  setFlags s3 (imgOwner s) (fl ||| (if t.elems.any (·.nan) then fNanLost else 0))

/-- Quantise the source rows `x` of consignment `n` in step `k` for stage `g`: the written rows and header, and every
effect but the writing (R124 to R136). -/
def runQuant (s : State) (l : Layer) (n : BitVec 20) (k : BitVec 40) (g : Option Nat) (x : List (List (Val × BitVec 8)))
    (fl : BitVec 8) : State × List (List Byte) × List Byte :=
  let t := quantise l (layerOf s (lrId l.hdr).toNat) x
  let j := judgeQuant s l n t t.pins
  (countRows (modLayer j.1 (lrId l.hdr).toNat (countVerdict j.2)) l t k g x fl, t.rows, quantHeader t t.pins j.2)

/-! ### Pinned channels (R132, R133) -/

/-- widen(v): v × (1 + headroom / 16), to BF16 away from zero where it is not exact (R132). -/
def widen (headroom : Nat) (v : Val) : Val :=
  match v with
  | .fin n m e => match upQuot fBF16 (.fin false (m * (16 + headroom)) e) 16 with
    | .fin _ m' e' => .fin n m' e'
    | x => x
  | x => x

/-- The code of a widened bound; one past BF16's largest normal has no stated value and takes a free one (LOG 11). -/
def boundCode (free : BitVec 16) (v : Val) : BitVec 16 × Bool :=
  if ltVal (maxF fBF16 false) v.abs then (free, true) else (BitVec.ofNat 16 (codeOf fBF16 v), false)

/-- The new bounds word of a pinned channel (R132), and whether a free value stands in it. -/
def widened (s : State) (l : Layer) (k : BitVec 40) (i : Nat) : BitVec 32 × Bool :=
  let b := boundOf l (layerOf s (lrId l.hdr).toNat) i
  let e := qstatOf s l (k.toNat % 2) i
  let hr := (lrHeadroom l.hdr).toNat
  let hi := boundCode (fld (Config.freeWord s.free) 0 16) (let w := widen hr e.1; if e.1.isFin && ltVal b.hi w then w else b.hi)
  let lo := boundCode (fld (Config.freeWord s.free) 16 16) (let w := widen hr e.2; if e.2.isFin && ltVal w b.lo then w else b.lo)
  (lo.1 ++ hi.1, lo.2 || hi.2)

/-- At the STEP_END of step `k` the record's pinned channels that saturated, and whose bounds widen, get pending bounds (R132). -/
def pendBounds (s : State) (l : Layer) (k : BitVec 40) : State :=
  let id := (lrId l.hdr).toNat
  let hits := (layerOf s id).hitPins
  let s1 := hits.foldl (fun s i =>
    let w := widened s l k i
    if w.1 = boundWord l (layerOf s id) i then s
    else modLayer { s with free := if w.2 then s.free + 1 else s.free } id fun x =>
      { x with pendB := tput 0 x.pendB i w.1, pendStep := k }) s
  modLayer s1 id fun x => { x with hitPins := [] }

/-- The settlement of step `k` writes the record's pending bounds (R133). -/
def writeBounds (s : State) (l : Layer) (k : BitVec 40) : State :=
  let id := (lrId l.hdr).toNat
  let st := layerOf s id
  if st.pendB.isEmpty || st.pendStep != k then s
  else
    let h := (lrHub l.hdr).toNat
    st.pendB.foldl (fun s e =>
      let old := boundWord l (layerOf s id) e.1
      let s1 := modLayer s id fun x =>
        { x with bounds := tput (fld (l.bounds.getD e.1 0) 32 32) x.bounds e.1 e.2, pinAdapts := satInc x.pinAdapts }
      post s1 (srcUnit s 0xA3 h 0) (clock s (domHub h)) evAdaptPinScale (some (imgOwner s)) eOk
        [(16, (fld old 16 16).toNat), (16, (fld old 0 16).toNat), (16, (fld e.2 16 16).toNat), (16, (fld e.2 0 16).toNat)])
      (modLayer s id fun x => { x with pendB := [] })

/-- A rollback of step `k` discards pending bounds of it and of later steps (R133). -/
def dropBounds (k : BitVec 40) (x : LayerSt) : LayerSt :=
  if decide (k.toNat ≤ x.pendStep.toNat) then { x with pendB := [], hitPins := [] } else { x with hitPins := [] }

end Sys2Proof.Machine
end

