-- ==== Sys2Proof/Machine/Scu.lean ====
section
/-! DEFINITION. The scalar control unit (R54, R166, R472): one meaning per SCU instruction, over shared forms. -/

namespace Sys2Proof.Machine

/-! ### The field masks of R472 -/

def mRd : W56 := 0x1F <<< 51
def mRa : W56 := 0x1F <<< 46
def mRb : W56 := 0x1F <<< 41
def mImm32 : W56 := 0xFFFFFFFF
def mImm41 : W56 := 0x1FFFFFFFFFF
def mTarget : W56 := 0x7FF
def mOff : W56 := 0x1FFFF
def mRcpt : W56 := 0x3FFF <<< 42

/-- The instruction completes: core `c` becomes `k` and goes to the next word. -/
def done (s : State) (c : CoreId) (k : Core) : State := setCore s c (advance k)

/-- Issue of a word that names only the fields `used`: another non-zero bit faults with E_RESERVED (R472). -/
def scu (s : State) (c : CoreId) (w used : W56) (reads : List (BitVec 5)) (f : Core → State) : Res :=
  issue s c reads fun k => if onlyBits w used then f k else coreFault (setCore s c k) c eReserved

/-- `rd` = f `ra` `rb`. -/
def alu (s : State) (c : CoreId) (w : W56) (f : Word → Word → Word) : Res :=
  scu s c w (mRd ||| mRa ||| mRb) [scuRa w, scuRb w] fun k =>
    done s c (setSreg k (scuRd w) (f (sreg k (scuRa w)) (sreg k (scuRb w))))

/-- 1 or 0 as a register value. -/
def bool64 (b : Bool) : Word := if b then 1 else 0

/-- ADD: `rd` = `ra` + `rb` modulo 2^64 (R472). -/
def execAdd (c : CoreId) (w : W56) (s : State) : Res := alu s c w (· + ·)
/-- SUB: `rd` = `ra` - `rb` modulo 2^64 (R472). -/
def execSub (c : CoreId) (w : W56) (s : State) : Res := alu s c w (· - ·)
/-- AND, bitwise (R472). -/
def execAnd (c : CoreId) (w : W56) (s : State) : Res := alu s c w (· &&& ·)
/-- OR, bitwise (R472). -/
def execOr (c : CoreId) (w : W56) (s : State) : Res := alu s c w (· ||| ·)
/-- XOR, bitwise (R472). -/
def execXor (c : CoreId) (w : W56) (s : State) : Res := alu s c w (· ^^^ ·)
/-- SHL by `rb`[5:0] (R472). -/
def execShl (c : CoreId) (w : W56) (s : State) : Res := alu s c w fun a b => a <<< (fld b 0 6).toNat
/-- SHR, logical, by `rb`[5:0] (R472). -/
def execShr (c : CoreId) (w : W56) (s : State) : Res := alu s c w fun a b => a >>> (fld b 0 6).toNat
/-- SAR, arithmetic, by `rb`[5:0] (R472). -/
def execSar (c : CoreId) (w : W56) (s : State) : Res := alu s c w fun a b => a.sshiftRight (fld b 0 6).toNat
/-- MUL: the low 64 bits of the product (R472). -/
def execMul (c : CoreId) (w : W56) (s : State) : Res := alu s c w (· * ·)
/-- CMP.EQ (R472). -/
def execCmpEq (c : CoreId) (w : W56) (s : State) : Res := alu s c w fun a b => bool64 (a == b)
/-- CMP.LT, signed (R472). -/
def execCmpLt (c : CoreId) (w : W56) (s : State) : Res := alu s c w fun a b => bool64 (a.slt b)
/-- CMP.LTU, unsigned (R472). -/
def execCmpLtu (c : CoreId) (w : W56) (s : State) : Res := alu s c w fun a b => bool64 (a.ult b)

/-- ADDI: `rd` = `ra` + `imm32` sign-extended (R472). -/
def execAddi (c : CoreId) (w : W56) (s : State) : Res :=
  scu s c w (mRd ||| mRa ||| mImm32) [scuRa w] fun k =>
    done s c (setSreg k (scuRd w) (sreg k (scuRa w) + sext (scuImm32 w)))

/-- LI: `rd` = `imm41` sign-extended (R472). -/
def execLi (c : CoreId) (w : W56) (s : State) : Res :=
  scu s c w (mRd ||| mImm41) [] fun k => done s c (setSreg k (scuRd w) (sext (scuImm41 w)))

/-- LIH: `rd`[63:32] = `imm32`, `rd`[31:0] = `ra`[31:0] (R472). -/
def execLih (c : CoreId) (w : W56) (s : State) : Res :=
  scu s c w (mRd ||| mRa ||| mImm32) [scuRa w] fun k =>
    done s c (setSreg k (scuRd w) (scuImm32 w ++ fld (sreg k (scuRa w)) 0 32))

/-! ### Control flow -/

/-- A branch to word `t`. A loop's entry stays active when a branch leaves the loop, and counts against the nesting (DESIGN
CHOICE, LOG 87). -/
def jump (s : State) (c : CoreId) (k : Core) (t : BitVec 11) : State := setCore s c { k with pc := t.setWidth 12 }

/-- BEQZ (R472). -/
def execBeqz (c : CoreId) (w : W56) (s : State) : Res :=
  scu s c w (mRa ||| mTarget) [scuRa w] fun k =>
    if sreg k (scuRa w) = 0 then jump s c k (scuTarget w) else done s c k

/-- BNEZ (R472). -/
def execBnez (c : CoreId) (w : W56) (s : State) : Res :=
  scu s c w (mRa ||| mTarget) [scuRa w] fun k =>
    if sreg k (scuRa w) = 0 then done s c k else jump s c k (scuTarget w)

/-- JMP (R472). -/
def execJmp (c : CoreId) (w : W56) (s : State) : Res :=
  scu s c w mTarget [] fun k => jump s c k (scuTarget w)

/-- JR: to `ra`[10:0]; non-zero `ra`[63:11] faults with E_RANGE (R472). -/
def execJr (c : CoreId) (w : W56) (s : State) : Res :=
  scu s c w mRa [scuRa w] fun k =>
    if fld (sreg k (scuRa w)) 11 53 = 0 then jump s c k (fld (sreg k (scuRa w)) 0 11)
    else coreFault (setCore s c k) c eRange

/-- LOOP (R54, R472). An `end` not after the LOOP word faults with E_RANGE; a `count` of 0 goes on at word `end` + 1, or where an
outer loop that ends at that word goes on (DEDUCED, LOG 33); a third nested loop, which R54 forbids with no code, faults with a
code left open (LOG 11). -/
def execLoop (c : CoreId) (w : W56) (s : State) : Res :=
  scu s c w 0x7FFFFFF [] fun k =>
    if (scuEnd w).toNat ≤ k.pc.toNat then coreFault (setCore s c k) c eRange
    else if scuCount w = 0 then done s c { k with pc := (scuEnd w).setWidth 12 }
    else if 2 ≤ k.loops.length then
      coreFault { setCore s c k with free := s.free + 1 } c (Config.loopErr s.free)
    else setCore s c { k with pc := k.pc + 1,
                              loops := { first := k.pc + 1, last := (scuEnd w).setWidth 12, left := scuCount w } :: k.loops }

/-- NOP (R54). -/
def execNop (c : CoreId) (w : W56) (s : State) : Res := scu s c w 0 [] fun k => done s c k

/-- HALT (R51, R172, R173): ends the stream; in a handler it faults with E_MODE. -/
def execHalt (c : CoreId) (w : W56) (s : State) : Res :=
  scu s c w 0 [] fun k =>
    if k.handler.isSome then coreFault (setCore s c k) c eMode
    else atHalt (setCore s c (advance k)) c

/-! ### Scratchpad and counter reads -/

/-- The scratchpad address of LD.S and ST.S. -/
def lsAddr (k : Core) (w : W56) : Word := sreg k (scuRa w) + sext (scuOff w)

/-- E_ALIGN before E_RANGE (R472). -/
def lsFault (a : Word) : Option Err :=
  if a.toNat % 8 ≠ 0 then some eAlign else if spSize ≤ a.toNat then some eRange else none

/-- LD.S (R472). -/
def execLdS (c : CoreId) (w : W56) (s : State) : Res :=
  scu s c w (mRd ||| mRa ||| mOff) [scuRa w] fun k =>
    match lsFault (lsAddr k w) with
    | some e => coreFault (setCore s c k) c e
    | none => done s c (setSreg k (scuRd w) (memWord s.mem (spAddr c (lsAddr k w).toNat)))

/-- ST.S (R472). -/
def execStS (c : CoreId) (w : W56) (s : State) : Res :=
  scu s c w (mRa ||| mRb ||| mOff) [scuRa w, scuRb w] fun k =>
    match lsFault (lsAddr k w) with
    | some e => coreFault (setCore s c k) c e
    | none => done (spWrite s c (lsAddr k w).toNat (leBytes 8 (sreg k (scuRb w)))) c k

/-- PM.NOW: the cluster's postmark counter (R54). -/
def execPmNow (c : CoreId) (w : W56) (s : State) : Res :=
  scu s c w mRd [] fun k => done s c (setSreg k (scuRd w) (coreClock s c))

/-- PM.STEP: the base postmark of the current step (R36, R54). -/
def execPmStep (c : CoreId) (w : W56) (s : State) : Res :=
  scu s c w mRd [] fun k => done s c (setSreg k (scuRd w) (stepBase s s.run.step))

/-! ### Waits -/

/-- FENCE: issue is held until the named engines have made their scratchpad accesses (R53). -/
def execFence (c : CoreId) (w : W56) (s : State) : Res :=
  scu s c w 0xF [] fun k => done s c { k with hold := .fence (scuMask w) }

/-- WAIT.PM: issue is held until the cluster's counter reaches `ra` (R54); in a handler E_MODE (R173). -/
def execWaitPm (c : CoreId) (w : W56) (s : State) : Res :=
  scu s c w mRa [scuRa w] fun k =>
    if k.handler.isSome then coreFault (setCore s c k) c eMode
    else done s c { k with hold := .pm (sreg k (scuRa w)) }

/-- WAIT.RCPT: issue is held until the core's copy reaches the target, step-relative with `rel` (R178); in a handler
E_MODE (R173). -/
def execWaitRcpt (c : CoreId) (w : W56) (s : State) : Res :=
  scu s c w (mRcpt ||| (1 <<< 41) ||| mImm32) [] fun k =>
    if k.handler.isSome then coreFault (setCore s c k) c eMode
    else
      let t := scuImm32 w
      let step := match k.stream with | some st => st.step | none => s.run.step
      done s c { k with hold := .rcpt (scuRcpt w) (if bit w 41 then rcTarget s (scuRcpt w) t step else t) }

/-! ### Envelopes and receipts (R166) -/

/-- SEND (R164, R165). With all 16 outbox entries busy, issue stalls. -/
def execSend (c : CoreId) (w : W56) (s : State) : Res :=
  scu s c w mRa [scuRa w] fun k =>
    match freeEntry (portOf s c) with
    | none => s
    | some i =>
      let a := sreg k (scuRa w)
      match sendFault s c a.toNat with
      | some e => coreFault (setCore s c k) c e
      | none => sendEnv (done s c k) c i a

/-- ARM: envelope slot `slot` takes the address in `ra` (R165). -/
def execArm (c : CoreId) (w : W56) (s : State) : Res :=
  scu s c w ((0xF <<< 52) ||| mRa) [scuRa w] fun k =>
    modPort (done s c k) c fun p => { p with slots := tput none p.slots (fld w 52 4).toNat (some (sreg k (scuRa w))) }

/-- The register fields of RCPT.ADD and RCPT.READ. -/
def rcReg (w : W56) : BitVec 5 := fld w 37 5
def rcPkg (w : W56) : BitVec 5 := fld w 32 5
def rcRemote (w : W56) : Bool := bit w 31

/-- The check of RCPT.ADD: `rpkg`[63:15], the increment, then the permission (R472, R179, R181). -/
def rcFault (s : State) (c : CoreId) (k : Core) (w : W56) : Option Err :=
  let inc := sreg k (rcReg w)
  let pkg := sreg k (rcPkg w)
  let here := !rcRemote w || fld pkg 0 15 == s.place.addr
  if rcRemote w && fld pkg 15 49 != 0 then some eRange
  else if inc = 0 ∨ 2 ^ 31 ≤ inc.toNat then some eRange
  else if here && !mayAdd s c (scuRcpt w) then some eKey
  else none

/-- RCPT.ADD (R180): an add of the own package sets out to the receipt unit; one of another goes as a request. -/
def execRcptAdd (c : CoreId) (w : W56) (s : State) : Res :=
  scu s c w (mRcpt ||| (0x1F <<< 37) ||| (0x1F <<< 32) ||| (1 <<< 31))
    ([rcReg w] ++ if rcRemote w then [rcPkg w] else []) fun k =>
    match rcFault s c k w with
    | some e => coreFault (setCore s c k) c e
    | none =>
      let inc := fld (sreg k (rcReg w)) 0 32
      let pkg := fld (sreg k (rcPkg w)) 0 15
      let s1 := done s c k
      if !rcRemote w || pkg == s.place.addr then addReceipt s1 (scuRcpt w) inc (srcCore s c)
      else sendReq s1 (dieOf c / 8) pkg 3 (coreFlow s c) (leBytes 2 ((scuRcpt w).setWidth 16) ++ leBytes 4 inc)
        (.rcptAdd c (scuRcpt w))

/-- RCPT.READ: the core's copy of the count (R182). -/
def execRcptRead (c : CoreId) (w : W56) (s : State) : Res :=
  scu s c w (mRcpt ||| (0x1F <<< 37)) [] fun k =>
    done s c (setSreg k (rcReg w) ((copyOf s (dieOf c) (scuRcpt w)).setWidth 64))

/-- The handler entries with the mask bits of the handlers named in `m` set to `v` (R166, R167). -/
def maskEnts (m : Word) (v : Bool) (t : Tab (BitVec 16)) : Tab (BitVec 16) :=
  (List.range 64).foldl (fun t i => if m.getLsbD i then tput 0 t i (putBit (tget 0 t i) 14 v) else t) t

/-- HMASK (R166). -/
def execHmask (c : CoreId) (w : W56) (s : State) : Res :=
  scu s c w (mRa ||| 1) [scuRa w] fun k =>
    modPort (done s c k) c fun p =>
      { p with blk := { p.blk with ents := maskEnts (sreg k (scuRa w)) (bit w 0) p.blk.ents } }

/-- The add that HRET makes for `dst_add` (R173, R181): a receipt not open to the core is discarded with rcpt.refused. -/
def hretAdd (s : State) (c : CoreId) (h : Handler) : State :=
  if !h.dstAdd then s
  else if mayAdd s c h.dst then addReceipt s h.dst 1 (srcCore s c)
  else post s (srcCore s c) (coreClock s c) evRcptRefused (some (coreCtx s c)) eKey
    [(16, s.place.addr.toNat)]

/-- HRET (R173): outside a handler E_MODE; else the add of `dst_add`, and back to the recorded instruction, where a held
wait is judged afresh and a HALT goes on to the next start or envelope. -/
def execHret (c : CoreId) (w : W56) (s : State) : Res :=
  scu s c w 0 [] fun k =>
    match k.handler with
    | none => coreFault (setCore s c k) c eMode
    | some h =>
      let s1 := hretAdd (setCore s c { k with handler := none, pc := h.pc, hold := h.hold }) c h
      if h.wasIdle then atHalt s1 c else s1

end Sys2Proof.Machine
end

