-- ==== Sys2Proof/Machine/Xfer.lean ====
section
/-! DEFINITION. XFER and the memory-side adders (R221 to R224). An XFER is checked whole at issue; its
bytes move at XFER_COMPLETE, one XFER of a core after the other, so that the fabric port's accesses keep program order (R53, LOG 7). -/

namespace Sys2Proof.Machine

/-- The E_FORMAT conditions of R222. -/
def xferFormatBad (out : Bool) (w : W56) : Bool :=
  (!out && xfMop w != 0) || (out && xfIstore w) || (xfMop w == 0 && (xfMtype w != 0 || xfSat w)) ||
    (xfSat w && (xfMtype w == 0 || xfMtype w == 1))

/-- The first failing check of R222: format, alignment, range, mode, keys, retirement. -/
def xferFault (s : State) (c : CoreId) (out : Bool) (w : W56) (addr loc : Word) (n : Nat) : Option Err :=
  let mop := xfMop w != 0
  if !xfRsv w then some eReserved
  else if xferFormatBad out w then some eFormat
  else if addr.toNat % 16 ≠ 0 ∨ loc.toNat % 16 ≠ 0 then some eAlign
  else if (if xfIstore w then isSize else spSize) < loc.toNat + n then some eRange
  else if !addrOk s addr.toNat n then some eRange
  else if mop && decide (0x010000000000 < addr.toNat + n) then some eMode
  else if touchesCache s addr.toNat n then some eMode
  else if !permitted s (ctxKey s (coreCtx s c)) addr.toNat n (!out || mop) out then some eKey
  else if xfRadd w && !mayAdd s c (xfRcpt w) then some eKey
  else if touchesRetired s addr.toNat n || touchesPoison s addr.toNat n (out && !mop) then some eRetired
  else none

/-- The 16-byte units of a memory-side operation, in ascending address, on their way to their controllers (R224). -/
def pushMsos (s : State) (c : CoreId) (x : Xfer) (a : Nat) : List Byte → Nat → State
  | _, 0 => s
  | d, n + 1 =>
    let m : Mso := { addr := BitVec.ofNat 48 a, mop := x.mop, mtype := x.mtype, sat := x.sat, ftz := coreFtz s c,
                     ctx := coreCtx s c, data := d.take 16, core := c, flow := coreFlow s c }
    pushMsos (modHub s (a / 2 ^ 38) fun h => { h with msos := h.msos ++ [m] }) c x (a + 16) (d.drop 16) n

/-- The XFER at the head of the core's port begins (R53, R224): one with a memory-side operation reads its operands and sends
them to their controllers. -/
def xferBegin (s : State) (c : CoreId) : State :=
  match (portOf s c).xfers with
  | [] => s
  | x :: t =>
    if x.mop = 0 ∨ x.sent = true then s
    else pushMsos (modPort s c fun p => { p with xfers := { x with sent := true } :: t }) c x
      x.addr.toNat (spRead s c x.loc.toNat x.len) (x.len / 16)

/-- Issue of an XFER in either direction. -/
def xferIssue (out : Bool) (c : CoreId) (w : W56) (s : State) : Res :=
  issue s c [xfRa w, xfRs w] fun k =>
    let addr := sreg k (xfRa w)
    let loc := sreg k (xfRs w)
    let n := ((xfLen w).toNat + 1) * 16
    match xferFault s c out w addr loc n with
    | some e => coreFault (setCore s c k) c e
    | none =>
      let x : Xfer := { pc := k.pc, out := out, mop := xfMop w, mtype := xfMtype w, sat := xfSat w, istore := xfIstore w,
                        addr := addr.setWidth 48, loc := loc, len := n, rcpt := xfRcpt w, radd := xfRadd w, sent := false }
      let s1 := xferBegin (modPort (done s c k) c fun p => { p with xfers := p.xfers ++ [x] }) c
      trace s1 (srcCore s c) (coreClock s c) evTraceXfer (some (coreCtx s c))
        [(32, n), (16, match k.stream with | some st => st.umbel.toNat | none => 0)]

/-- XFER.IN (R221). -/
def execXferIn (c : CoreId) (w : W56) (s : State) : Res := xferIssue false c w s

/-- XFER.OUT (R221). -/
def execXferOut (c : CoreId) (w : W56) (s : State) : Res := xferIssue true c w s

/-- Units of an XFER's memory-side operation still on their way. -/
def msosLeft (s : State) (c : CoreId) (x : Xfer) : Bool :=
  (List.range 4).any fun h => (hubOf s h).msos.any fun m =>
    m.core == c && decide (x.addr.toNat ≤ m.addr.toNat) && decide (m.addr.toNat < x.addr.toNat + x.len)

/-- The bytes of an XFER move: IN writes the scratchpad or the instruction store, OUT the memory; a memory-side
operation has already been made. -/
def xferMove (s : State) (c : CoreId) (x : Xfer) : State :=
  if x.mop != 0 then s
  else if x.out then pkgWrite s x.addr.toNat (spRead s c x.loc.toNat x.len)
  else
    let d := pkgRead s x.addr.toNat x.len
    if x.istore then wrMem s (isAddr c x.loc.toNat) d else spWrite s c x.loc.toNat d

/-- The XFER's access to package memory, and to the core's own storage. -/
def xferSpan (x : Xfer) : Nat × Nat := (x.addr.toNat, x.len)
def xferOwn (c : CoreId) (x : Xfer) : Nat × Nat := (if x.istore then isAddr c x.loc.toNat else spAddr c x.loc.toNat, x.len)

/-- The XFER's access fails by now (R213, R398): what it reaches has been retired or poisoned since its issue. -/
def xferLost (s : State) (x : Xfer) : Bool :=
  touchesRetired s x.addr.toNat x.len || touchesPoison s x.addr.toNat x.len (x.out && x.mop == 0)

/-- XFER_COMPLETE (R221): the oldest XFER of the core writes its last byte, and `radd` adds 1 to `rcpt`, unless the core has
faulted (R56); the next XFER of the core begins. `ecc` is what the codes met, at the memory side or at the core's own storage; a
fault that its retry does not cure retires the channel and the XFER's word faults with E_RETIRED (R213, R398), as it does when
another access has retired the channel. An XFER of a flushing hub's HBM waits (R229). -/
def execXferComplete (c : CoreId) (ecc : EccAt) (atMem : Bool) (s : State) : Res :=
  if coreExists c then
    match (portOf s c).xfers with
    | [] => .next s
    | x :: t =>
      if msosLeft s c x || hbmWaits s x.addr.toNat x.len then .next s
      else
        let s2 := metEcc (modPort s c fun p => { p with xfers := t }) ecc [if atMem then xferSpan x else xferOwn c x]
        if (coreOf s2 c).phase = .retired then .next (xferBegin s2 c)
        else if xferLost s2 x then
          .next (xferBegin (if (coreOf s2 c).phase = .faulted then s2 else coreFaultAt s2 c x.pc eRetired) c)
        else
          let s3 := xferMove s2 c x
          .next (xferBegin (if x.radd && (coreOf s2 c).phase != .faulted then addReceipt s3 x.rcpt 1 (srcCore s c) else s3) c)
  else .fault (.noSuchCore c)

/-! ### Memory-side operations (R223, R224) -/

/-- Element width in bytes of `mtype`. -/
def mtypeBytes (t : BitVec 2) : Nat := if t = 1 then 2 else if t = 3 then 8 else 4

/-- An integer result of `n` bytes, reduced by `sat` (R94). -/
def intResult (n : Nat) (sat : Bool) (i : Int) : Nat :=
  let hi : Int := (2 ^ (8 * n - 1) : Nat) - 1
  let lo : Int := -((2 ^ (8 * n - 1) : Nat) : Int)
  let j := if sat then (if i < lo then lo else if hi < i then hi else i) else i
  (BitVec.ofInt (8 * n) j).toNat

/-- One element of a memory-side operation on codes `a` (memory) and `b` (operand): the new code and flags. -/
def msoElem (mop t : BitVec 2) (sat ftz : Bool) (a b : Nat) : Nat × BitVec 8 :=
  let n := mtypeBytes t
  if t = 0 ∨ t = 1 then
    let f := if t = 0 then fFP32 else fBF16
    let x := readF f ftz a
    let y := readF f ftz b
    if mop = 1 then
      let r := convF f .nearest false ftz (addVal x.1 y.1)
      (r.code, x.2 ||| y.2 ||| r.fl)
    else (codeOf f (if mop = 2 then maxVal x.1 y.1 else minVal x.1 y.1), x.2 ||| y.2)
  else
    let x : Int := (BitVec.ofNat (8 * n) a).toInt
    let y : Int := (BitVec.ofNat (8 * n) b).toInt
    if mop = 1 then (intResult n sat (x + y), 0)
    else ((BitVec.ofInt (8 * n) (if mop = 2 then max x y else min x y)).toNat, 0)

/-- The new bytes of a unit, element by element, with the flags. -/
def msoUnit (mop t : BitVec 2) (sat ftz : Bool) : Nat → List Byte → List Byte → List Byte × BitVec 8
  | 0, _, _ => ([], 0)
  | k + 1, m, d =>
    let n := mtypeBytes t
    let r := msoElem mop t sat ftz (leNat (m.take n)) (leNat (d.take n))
    let rest := msoUnit mop t sat ftz k (m.drop n) (d.drop n)
    (leBytes n (BitVec.ofNat 64 r.1) ++ rest.1, r.2 ||| rest.2)

/-- The adder lanes of the controller of stack `st` on hub `h` that live (R302, R405). -/
def msoLanes (s : State) (h st : Nat) : Nat :=
  32 - (s.sh.retired.filter fun c => chKind c == 0x0C && fld c 22 2 == BitVec.ofNat 2 h && (fld c 16 6).toNat == st + 1).length

/-- The controller's stack of a memory-side operation. -/
def msoStack (s : State) (m : Mso) : Nat :=
  let a := m.addr.toNat
  (hbmPlace (hashKey s (hkeyOf s (a / 2 ^ 38) a)) a).toNat / 64

/-- The residues of a controller's lane disagree (R302): once, and the repeat of the operation agrees; or twice, and the lane is
retired. -/
def msoLane (s : State) (h st : Nat) (ctx : BitVec 6) (bad : Option LaneFault) : State :=
  match bad with
  | none => s
  | some f => laneFault s (srcUnit s 0xAA h st) (clock s (domHbm (4 * h + st))) ctx
      (channel 0x0C (h * 2 ^ 22 + (st + 1) * 2 ^ 16 + f.lane.toNat * 2 ^ 11)) f.again

/-- A memory-side operation fails with E_RETIRED: its XFER's word faults (R213, R302). -/
def msoFails (s : State) (m : Mso) : State :=
  match (portOf s m.core).xfers with
  | x :: _ =>
    if (coreOf s m.core).phase = .faulted ∨ (coreOf s m.core).phase = .retired then s
    else coreFaultAt s m.core x.pc eRetired
  | [] => s

/-- One operation is applied to its unit as one read-modify-write (R223). -/
def msoApply (h : Nat) (s : State) (m : Mso) : State :=
  if touchesRetired s m.addr.toNat 16 || touchesPoison s m.addr.toNat 16 false || msoLanes s h (msoStack s m) == 0 then msoFails s m
  else
    let r := msoUnit m.mop m.mtype m.sat m.ftz (16 / mtypeBytes m.mtype) (memRead s.mem m.addr.toNat 16) m.data
    setFlags (wrMem s m.addr.toNat r.1) m.ctx r.2

/-- The operations at `reach` may reach their controllers together: none passes an earlier one of its core on the same unit
(R53). -/
def msoReach (l : List Mso) (reach : List Nat) : Bool :=
  reach.all fun i => match l[i]? with
    | none => false
    | some m => (List.range i).all fun j => reach.contains j || (match l[j]? with
      | some x => !(x.core == m.core && x.addr == m.addr)
      | none => true)

/-- The operations of one controller cycle in the order in which they are applied: ascending flow number (R224). -/
def msoOrder (l : List Mso) (reach : List Nat) : List Mso :=
  ((List.range l.length).filter fun i => reach.contains i).filterMap (fun i => l[i]?)
    |>.insertionSort fun a b => a.flow.toNat ≤ b.flow.toNat

/-- MEMORY_SIDE_OPERATION (R223, R224): the operations at places `reach` of hub `h`'s queue reach their controllers in one cycle and
are applied, in ascending flow number. `bad` is what the adder lanes met at the first of them, `ecc` what the codes met. -/
def execMemorySideOperation (h : Fin 4) (reach : List Nat) (bad : Option LaneFault) (ecc : EccAt) (s : State) : Res :=
  let l := (hubOf s h.val).msos
  match msoOrder l reach with
  | [] => .next s
  | m :: t => whenever (msoReach l reach && !(hubOf s h.val).flushing) s
      (let s1 := modHub s h.val fun x => { x with msos := (x.msos.zipIdx.filter fun y => !reach.contains y.2).map Prod.fst }
       let s2 := msoLane (metEcc s1 ecc ((m :: t).map fun x => (x.addr.toNat, 16))) h.val (msoStack s m) m.ctx bad
       (m :: t).foldl (msoApply h.val) s2)

end Sys2Proof.Machine
end

