-- ==== Sys2Proof/Machine/ConsignOps.lean ====
section
/-! DEFINITION. Consignments (R143 to R147): booking, the start condition, the bytes they move, and their ends. -/

namespace Sys2Proof.Machine

/-! ### Plan entries -/

def kCopy : Nat := 1
def kPost : Nat := 2
def kCollect : Nat := 3
def kEdRead : Nat := 4
def kEdWrite : Nat := 5

/-- The owning hub of a consignment (R143). -/
def consHub (n : Nat) : Nat := n / 262144

/-- Rows and bytes per row. -/
def plRowCount (p : BitVec 256) : Nat := (plRows p).toNat + 1
def plBytes (p : BitVec 256) : Nat := (plRowBytes p).toNat

/-- The source id of a hub's consignment engines (R407). -/
def consSrc (s : State) (n : Nat) : BitVec 32 := srcUnit s 0xA1 (consHub n) 0

/-- The clock of a hub's consignment engines. -/
def consPm (s : State) (n : Nat) : Pm := clock s (domHub (consHub n))

/-- The queue of a POST or COLLECT entry that lies on this package. -/
def planQueue (s : State) (p : BitVec 256) : Option (BitVec 256) :=
  if ((plKind p).toNat = kPost && !plRemote p) || (plKind p).toNat = kCollect then queueDesc s (plQueue p).toNat
  else none

/-- A local POST. -/
def isLocalPost (p : BitVec 256) : Bool := (plKind p).toNat = kPost && !plRemote p

/-! ### The start condition (R146) -/

/-- The layer record of a quantising entry. -/
def planLayer (s : State) (p : BitVec 256) : Option Layer := if plQuant p then layerRec s (plLayer p).toNat else none

/-- The start condition of entry `p`. -/
def canStart (s : State) (p : BitVec 256) : Bool :=
  (match planLayer s p with | some l => (layerOf s (lrId l.hdr).toNat).pendB.isEmpty | none => true) &&
  (match (plKind p).toNat with
   | 2 => match planQueue s p with
     | some d => postAccepts (slotOf s (plQueue p).toNat (slotIdx d (plMb p).toNat)) (plMb p)
     | none => true
   | 3 => match planQueue s p with
     | some d => collectReady (slotOf s (plQueue p).toNat (slotIdx d (plMb p).toNat)) (plMb p)
     | none => false
   | 4 => (resolveEd (stageOf s (plStage p).toNat) (plEdSel p) (plMb p).toNat).isSome
   | _ => true)

/-- The start condition of consignment `n` finds its slot taken or not ready: it waits, and its queue counts one wait, once for
the consignment (R151). -/
def countWait (s : State) (n : Nat) : State :=
  let p := planOf s n
  match planQueue s p with
  | none => s
  | some d =>
    let q := (plQueue p).toNat
    let x := slotOf s q (slotIdx d (plMb p).toNat)
    let ready := if isLocalPost p then postAccepts x (plMb p) else collectReady x (plMb p)
    if ready || (consOf s n).waited then s
    else modQueue (modCons s n fun c => { c with waited := true }) q fun y =>
      if isLocalPost p then { y with fullWaits := satInc y.fullWaits } else { y with emptyWaits := satInc y.emptyWaits }

/-- A slot has been claimed: the booked POSTs that it no longer accepts wait from now on (R151). -/
def recount (s : State) : State :=
  (s.cons.filter fun e => e.2.st = .booked && isLocalPost (planOf s e.1)).foldl (fun t e => countWait t e.1) s

/-! ### Booking (R146) -/

/-- The consignment is booked for a firing. -/
def book (s : State) (n : Nat) (pm : Pm) (u : BitVec 16) (k : BitVec 40) : State :=
  countWait (modCons s n fun _ => { Cons.reset with st := .booked, fired := pm, umbel := u, step := k }) n

/-- A CONSIGN release fires (R146): Idle books; else the rebook flag is set; with the flag set the firing is lost. -/
def fireCons (s : State) (n : Nat) (pm : Pm) (u : BitVec 16) (k : BitVec 40) : State :=
  let c := consOf s n
  if c.st = .idle then book s n pm u k
  else match c.again with
    | none => modCons s n fun c => { c with again := some (pm, u, k) }
    | some _ => post s (consSrc s n) (consPm s n) evConsignBusy (some (imgOwner s)) eBusy [(32, n)]

/-- The consignment reaches Idle; with the rebook flag set it is booked again at once. -/
def toIdle (s : State) (n : Nat) : State :=
  let c := consOf s n
  let s1 := modCons s n fun _ => Cons.reset
  match c.again with
  | some (pm, u, k) => book s1 n pm u k
  | none => s1

/-- The claim of a POST that is Returned lapses when no part was delivered and no other POST in transit holds it
(R151). -/
def dropClaim (s : State) (n : Nat) (p : BitVec 256) : State :=
  match planQueue s p with
  | none => s
  | some d =>
    let q := (plQueue p).toNat
    let x := slotOf s q (slotIdx d (plMb p).toNat)
    let other := s.cons.any fun e => e.1 != n && e.2.st = .inTransit && isLocalPost (planOf s e.1) &&
      plQueue (planOf s e.1) == plQueue p && plMb (planOf s e.1) == plMb p
    if isLocalPost p && x.st = .empty && x.claim == some (plMb p) && !other then
      putSlot s q (slotIdx d (plMb p).toNat) { x with claim := none }
    else s

/-- The consignment is Returned (R147): alarm with number, code and bytes written; `step_bad` of its step is set. -/
def returnCons (s : State) (n : Nat) (err : Err) (bytes : Nat) : State :=
  let k := (consOf s n).step
  let s1 := modCons s n fun c => { c with st := .returned, err := err, bytes := bytes }
  let s2 := post s1 (consSrc s n) (consPm s n) evConsignReturned (some (imgOwner s)) err
    [(32, n), (8, err.toNat), (64, bytes)]
  markStep (dropClaim s2 n (planOf s n)) k

/-! ### The bytes (R124, R143) -/

/-- The address, or region offset, of source row `i`. -/
def srcRow (s : State) (p : BitVec 256) (i : Nat) : Nat :=
  let o := (plSrc p).toNat + i * ((plSrcStride p).toNat * 16)
  match (plKind p).toNat, planQueue s p with
  | 3, some d => slotAddr d (slotIdx d (plMb p).toNat) + o
  | _, _ => o

/-- The address, or region offset, of destination row `i`. -/
def dstRow (s : State) (p : BitVec 256) (i : Nat) : Nat :=
  let o := (plDst p).toNat + i * ((plDstStride p).toNat * 16)
  match (plKind p).toNat, planQueue s p with
  | 2, some d => slotAddr d (slotIdx d (plMb p).toNat) + o
  | _, _ => o

/-- The bytes of source row `i`; an ED_READ reads edition `ed`. -/
def readRow (s : State) (p : BitVec 256) (ed i : Nat) : List Byte :=
  if (plKind p).toNat = kEdRead then
    match edDesc s (plStage p).toNat with
    | some d => edRead s d ed (srcRow s p i) (plBytes p)
    | none => []
  else pkgRead s (srcRow s p i) (plBytes p)

/-- Bytes of a quantised row (R82, R86, R124). -/
def quantRowBytes (l : Layer) : Nat :=
  let n := (lrInCh l.hdr).toNat + 1
  match (lrDstFmt l.hdr).toNat with | 0 => n / 2 | 1 => n | _ => n / 64 * 44

/-- Bytes of a written row. -/
def dstBytes (s : State) (p : BitVec 256) : Nat :=
  match planLayer s p with | some l => quantRowBytes l | none => plBytes p

/-- The offset of the quant header from the first destination byte (R124). -/
def headerAt (l : Layer) (p : BitVec 256) : Nat :=
  ((plRowCount p - 1) * ((plDstStride p).toNat * 16) + quantRowBytes l + 15) / 16 * 16

/-- The accesses of row `i` of an entry to package memory: (address, length, write). Edition accesses carry the edition key and are
made by the edition unit alone (R157, R226). -/
def rowAccesses (s : State) (p : BitVec 256) (i : Nat) : List (Nat × Nat × Bool) :=
  let k := (plKind p).toNat
  (if k = kEdRead then [] else [(srcRow s p i, plBytes p, false)]) ++
    (if k = kEdWrite || plRemote p then [] else [(dstRow s p i, dstBytes s p, true)])

/-- The accesses of an entry: those of its rows, then its quant header. -/
def accesses (s : State) (p : BitVec 256) : List (Nat × Nat × Bool) :=
  (List.range (plRowCount p)).flatMap (rowAccesses s p) ++
  (match planLayer s p with
   | some l => if plRemote p then [] else [(dstRow s p 0 + headerAt l p, 16, true)]
   | none => [])

/-- Everything in package memory that consignment `n` reaches, its edition's bytes among it. -/
def consSpans (s : State) (n : Nat) (p : BitVec 256) : List (Nat × Nat) :=
  ((accesses s p).map fun a => (a.1, a.2.1)) ++
    (match edDesc s (plStage p).toNat, (plKind p).toNat with
     | some d, 4 => (List.range (plRowCount p)).flatMap fun i => edSpans s d (consOf s n).ed.toNat (srcRow s p i) (plBytes p)
     | some d, 5 => match readEd s (plStage p).toNat (consOf s n).step with
       | some e => (List.range (plRowCount p)).flatMap fun i => edSpans s d e (dstRow s p i) (plBytes p)
       | none => []
     | _, _ => [])

/-- The access meets a retired core, slice or pseudo-channel, or poisoned memory (R147, R398, R400). -/
def meetsRetired (s : State) (a n : Nat) (wr : Bool) : Bool := touchesRetired s a n || touchesPoison s a n wr

/-- The edition unit's access for row `i` of consignment `n` (R157). -/
def edRowFault (s : State) (n : Nat) (p : BitVec 256) (i : Nat) : Option Err :=
  match edDesc s (plStage p).toNat, (plKind p).toNat with
  | some d, 4 => edFault s d (consOf s n).ed.toNat (srcRow s p i) (plBytes p) false
  | some d, 5 => match readEd s (plStage p).toNat (consOf s n).step with
    | some e => edFault s d e (dstRow s p i) (plBytes p) true
    | none => none
  | _, _ => none

/-- An access of the image owner's key that fails (R147). -/
def accessBad (s : State) (a : Nat × Nat × Bool) : Bool :=
  !permitted s (ctxKey s (imgOwner s)) a.1 a.2.1 (!a.2.2) a.2.2 || meetsRetired s a.1 a.2.1 a.2.2

/-- The first failing check of the accesses of consignment `n`, entry `p` (R147, R226). -/
def consFault (s : State) (n : Nat) (p : BitVec 256) : Option Err :=
  let key := ctxKey s (imgOwner s)
  let as := accesses s p
  let eds := (List.range (plRowCount p)).map (edRowFault s n p)
  if (as.any fun a => !permitted s key a.1 a.2.1 (!a.2.2) a.2.2) || eds.contains (some eKey) then some eKey
  else if (as.any fun a => meetsRetired s a.1 a.2.1 a.2.2) || eds.contains (some eRetired) then some eRetired
  else none

/-- The rows of an entry before the first whose accesses fail: those it can have written before it is Returned (R147). -/
def goodRows (s : State) (n : Nat) (p : BitVec 256) : Nat :=
  ((List.range (plRowCount p)).takeWhile fun i => !(rowAccesses s p i).any (accessBad s) && (edRowFault s n p i).isNone).length

/-- The stage whose statistics a quantisation counts for (R195): that of the queue's consumer, else of the core whose scratchpad
receives the tensor; where neither names one (a tensor that goes to HBM, LLM or another package), the stage that holds the umbel `u`
of the release (DEDUCED, LOG 34). -/
def quantStage (s : State) (p : BitVec 256) (u : BitVec 16) : Option Nat :=
  let c : Option Nat := match planQueue s p with
    | some d => some (umFirst (umbelOf s (qdConsumer d).toNat)).toNat
    | none => if plRemote p then none else (coreOfAddr (plDst p).toNat).map (·.toNat)
  (stageUmbel s (c.getD (umFirst (umbelOf s u.toNat)).toNat)).map fun e => (umStage e).toNat

/-- Source rows as values for the quantiser, each with the flags of reading it. -/
def quantRows (s : State) (l : Layer) (rows : List (List Byte)) : List (List (Val × BitVec 8)) :=
  let f := (lrSrcFmt l.hdr).toNat
  let ftz := cfgFtz (ctxOf s s.run.imgCtx.val).cfg
  rows.map fun r => (List.range ((lrInCh l.hdr).toNat + 1)).map fun i => readElem f false ftz (codeAt f r i)

/-- The flags of reading rows. -/
def rowFlags (v : List (List (Val × BitVec 8))) : BitVec 8 := v.flatten.foldl (fun a x => a ||| x.2) 0

/-- The rows an entry writes, at their destinations, and every effect of forming them: a plain entry hands its source on,
a quantising one quantises it and adds the quant header. -/
def formRows (s : State) (n : BitVec 20) (p : BitVec 256) : State × List (Nat × List Byte) :=
  let c := consOf s n.toNat
  let rows := (List.range (plRowCount p)).map (readRow s p c.ed.toNat)
  match planLayer s p with
  | some l =>
    let v := quantRows s l rows
    let r := runQuant s l n c.step (quantStage s p c.umbel) v (rowFlags v)
    (r.1, (r.2.1.zipIdx.map fun x => (dstRow s p x.2, x.1)) ++ [(dstRow s p 0 + headerAt l p, r.2.2)])
  | none => (s, rows.zipIdx.map fun x => (dstRow s p x.2, x.1))

/-- What an entry that is Returned had formed of its first `m` rows: no header, no verdict. -/
def partRows (s : State) (n : BitVec 20) (p : BitVec 256) (m : Nat) : State × List (Nat × List Byte) :=
  let c := consOf s n.toNat
  let rows := (List.range m).map (readRow s p c.ed.toNat)
  match planLayer s p with
  | some l =>
    let v := quantRows s l rows
    let t := quantise l (layerOf s (lrId l.hdr).toNat) v
    (countRows s l t c.step (quantStage s p c.umbel) v (rowFlags v), t.rows.zipIdx.map fun x => (dstRow s p x.2, x.1))
  | none => (s, rows.zipIdx.map fun x => (dstRow s p x.2, x.1))

/-- Write rows to package memory. -/
def putRows (s : State) (rows : List (Nat × List Byte)) : State := rows.foldl (fun s r => pkgWrite s r.1 r.2) s

/-- The first `n` bytes of rows, in order. -/
def takeRows : Nat → List (Nat × List Byte) → List (Nat × List Byte)
  | _, [] => []
  | n, (a, l) :: t => if l.length ≤ n then (a, l) :: takeRows (n - l.length) t else [(a, l.take n)]

/-- Write rows into the pending edition of step `k` (R160): the granule at which the pool was empty, and the bytes
written before it. -/
def edRows (s : State) (g : Nat) (d : BitVec 256) (e : Nat) : List (Nat × List Byte) → Nat → State × Option (Nat × Nat)
  | [], _ => (s, none)
  | (o, l) :: t, done =>
    match edWrite s g d e o l with
    | (s1, none) => edRows s1 g d e t (done + l.length)
    | (s1, some i) => (s1, some (i, done + (i * granule - o)))

/-! ### Ends -/

/-- The POST part that a COLLECT part takes: the entry of the same position, counted in ascending number among the POST
and COLLECT entries of the queue and micro-batch (R150). -/
def partPost (s : State) (n : Nat) (p : BitVec 256) : Option Nat :=
  let same := fun (k : Nat) (e : Nat × BitVec 256) => (plKind e.2).toNat = k && plQueue e.2 == plQueue p && plMb e.2 == plMb p
  match s.run.image with
  | none => none
  | some im =>
    let i := (im.plans.filter fun e => same kCollect e && decide (e.1 < n)).length
    ((im.plans.filter fun e => same kPost e && !plRemote e.2)[i]?).map Prod.fst

/-- The consignment is delivered (R146): its receipt counts, its slot moves, and it passes on: a local POST waits for its
collection, a COLLECT's POST becomes Collected and Idle, every other kind Idle, each in the next hub cycle (LOG 10). -/
def deliver (s : State) (n : Nat) (p : BitVec 256) : State :=
  let s1 := addReceipt s (plRcpt p) 1 (consSrc s n)
  let s2 := trace s1 (consSrc s n) (consPm s n) evTraceConsign (some (imgOwner s)) [(32, n), (16, (consOf s n).umbel.toNat)]
  match (plKind p).toNat, planQueue s p with
  | 2, some d => modCons (postPart s2 (plQueue p).toNat d (plMb p) (BitVec.ofNat 20 n)) n fun c => { c with st := .delivered }
  | 3, some d =>
    let s3 := collectPart s2 (plQueue p).toNat d (plMb p)
    let s4 := match partPost s n p with
      | some m => if (consOf s3 m).st = .delivered then toIdle s3 m else s3
      | none => s3
    toIdle s4 n
  | _, _ => toIdle s2 n

/-- One piece of a remote tensor: the bytes of the tensor before it, its offset in the slot, its bytes, and whether it is
the last. -/
structure WritePiece where
  index : Nat
  off   : Nat
  bytes : List Byte
  last  : Bool
  deriving DecidableEq, Repr

/-- A WRITE packet's data (LOG 23): plan entry, consignment, producer umbel, length, index of the first byte, offset with
the last piece's mark, bytes. -/
def writeData (p : BitVec 256) (n : Nat) (u : BitVec 16) (x : WritePiece) : List Byte :=
  leBytes 32 p ++ leBytes 4 (BitVec.ofNat 32 n) ++ leBytes 2 u ++ leBytes 2 (BitVec.ofNat 16 x.bytes.length) ++
    leBytes 8 (BitVec.ofNat 64 x.index) ++ leBytes 8 (BitVec.ofNat 64 (x.off + if x.last then 2 ^ 63 else 0)) ++ x.bytes

/-- The pieces of a remote tensor's rows, at most 4,016 bytes each. -/
def writePieces (rows : List (Nat × List Byte)) : List WritePiece :=
  let l := rows.flatMap fun r => (List.range ((r.2.length + 4015) / 4016)).map fun j =>
    (r.1 + j * 4016, (r.2.drop (j * 4016)).take 4016)
  l.zipIdx.map fun x => { index := ((l.take x.2).map fun y => y.2.length).sum, off := x.1.1, bytes := x.1.2,
                          last := x.2 + 1 == l.length }

/-- The flow of a consignment (R470). -/
def consFlowOf (s : State) (n : Nat) : BitVec 12 :=
  match s.run.image with | some im => fld (tget 0 im.consFlow n) 0 12 | none => 0

/-- The WRITE requests of a remote POST (R146, R257). -/
def sendWrites (s : State) (n : Nat) (p : BitVec 256) (rows : List (Nat × List Byte)) : State :=
  (writePieces rows).foldl (fun t x => sendReq t (consHub n) (plDstPkg p) 1 (consFlowOf t n)
    (writeData p n (consOf t n).umbel x) (.write (BitVec.ofNat 20 n))) s

/-- A remote POST sets out (R146): its bytes go to the queue's package. One whose source its checks refuse sends nothing and is
Returned (R147). -/
def sendRemote (s : State) (n : Nat) (p : BitVec 256) : State :=
  if (consFault s n p).isSome then s
  else
    let r := formRows s (BitVec.ofNat 20 n) p
    modCons (sendWrites r.1 n p r.2) n fun c => { c with sent := true }

/-- What happens as the consignment enters In transit (R146, R151, R157): a POST claims its slot, an ED_READ resolves its
edition and records it, a remote POST's bytes set out. -/
def enter (s : State) (n : Nat) (p : BitVec 256) : State :=
  let s1 := modCons s n fun c => { c with st := .inTransit }
  match (plKind p).toNat with
  | 2 =>
    if plRemote p then sendRemote s1 n p
    else match planQueue s p with
      | some d => recount (claimSlot s1 (plQueue p).toNat d (plMb p))
      | none => s1
  | 4 =>
    let g := (plStage p).toNat
    let t := stageOf s g
    let mb := (plMb p).toNat
    match resolveEd t (plEdSel p) mb with
    | none => s1
    | some e =>
      if plEdSel p = 1 then
        if (tget EdRec.reset t.recs mb).valid then returnCons s1 n eState 0
        else
          let r : EdRec := { num := BitVec.ofNat 3 e, valid := true, tentative := true, dropPend := false,
                             madeIn := (consOf s n).step, dropIn := 0 }
          modCons (modStage s1 g fun t => { t with recs := tput EdRec.reset t.recs mb r }) n fun c =>
            { c with ed := BitVec.ofNat 3 e }
      else modCons s1 n fun c => { c with ed := BitVec.ofNat 3 e }
  | _ => s1

/-- An ED_WRITE writes the rows `rows` into its stage's pending edition (R160, R161); `done` says what follows when all are
written. A stage that may not open one, or whose pool runs empty, returns the consignment. -/
def edDeliver (s : State) (n : Nat) (p : BitVec 256) (rows : List (Nat × List Byte)) (done : State → State) : State :=
  let k := (consOf s n).step
  let g := (plStage p).toNat
  match edDesc s g with
  | none => returnCons s n eCapacity 0
  | some d =>
    match pendFor s g d k with
    | none => returnCons (edFull s g k 0 n) n eCapacity 0
    | some (s1, e) =>
      match edRows s1 g d e rows 0 with
      | (s2, none) => done s2
      | (s2, some (i, b)) => returnCons (poolEmpty s2 g k i 0 n) n eCapacity b

/-- A quantising consignment has completed (R136). -/
def countDone (s : State) (p : BitVec 256) : State :=
  match planLayer s p with | some l => countTensor s l | none => s

/-- The last byte of a local consignment is written. -/
def finish (s : State) (n : Nat) (p : BitVec 256) : State :=
  if (plKind p).toNat = kEdWrite then
    edDeliver s n p ((List.range (plRowCount p)).map fun i => (dstRow s p i, readRow s p 0 i)) fun t => deliver t n p
  else
    let r := formRows s (BitVec.ofNat 20 n) p
    let s1 := deliver (countDone (putRows r.1 r.2) p) n p
    if (plKind p).toNat = kEdRead && plEdSel p == 2 && plEdDrop p then
      modStage s1 (plStage p).toNat fun t =>
        let x := tget EdRec.reset t.recs (plMb p).toNat
        if x.valid then
          { t with recs := tput EdRec.reset t.recs (plMb p).toNat { x with dropPend := true, dropIn := (consOf s n).step } }
        else t
    else s1

/-- A local consignment is Returned with `err` after at most `bytes` bytes of the rows that its checks let pass; what it wrote
stands (R147). -/
def cutShort (s : State) (n : Nat) (p : BitVec 256) (err : Err) (bytes : Nat) : State :=
  let m := goodRows s n p
  if (plKind p).toNat = kEdWrite then
    let rows := takeRows bytes ((List.range m).map fun i => (dstRow s p i, readRow s p 0 i))
    if rows.isEmpty then returnCons s n err 0
    else edDeliver s n p rows fun t => returnCons t n err (rows.map fun r => r.2.length).sum
  else
    let all := (partRows s (BitVec.ofNat 20 n) p m).2
    let rows := takeRows bytes all
    let r := partRows s (BitVec.ofNat 20 n) p rows.length
    returnCons (putRows r.1 rows) n err (rows.map fun x => x.2.length).sum

end Sys2Proof.Machine
end

