-- ==== Sys2Proof/Machine/CommitOps.lean ====
section
/-! DEFINITION. The commit unit (R196 to R208, R471, R475): settlement, the loss scale, the step record, rounds and their
ends, and the beginning of a rollback. -/

namespace Sys2Proof.Machine

/-- The source id and clock of the commit unit, in hub C0 (R407). -/
def commitSrc (s : State) : BitVec 32 := srcUnit s 0xA7 0 0
def hub0Pm (s : State) : Pm := clock s (domHub 0)

/-! ### The loss scale (R197) -/

/-- A change of the settled exponent by `d` for flag `f`: made within the bounds, else denied. -/
def changeScale (s : State) (f : Bool) (d : BitVec 8) : State :=
  let old := s.commit.settledExp
  let new := old + d
  let s1 := modCommit s fun c => { c with lsClean := 0 }
  if decide ((latLsMin (latitude s)).toInt ≤ new.toInt) && decide (new.toInt ≤ (latLsMax (latitude s)).toInt) then
    post (modCommit s1 fun c => { c with settledExp := new }) (commitSrc s) (hub0Pm s) evAdaptLossScale none eOk
      [(8, b2n f), (8, old.toNat), (8, new.toNat)]
  else postDenied s1 (commitSrc s) (hub0Pm s) evAdaptLossScale [(8, old.toNat), (8, new.toNat)]

/-- A settled step's flag enters the loss scale (R197); an image with no update section keeps none. -/
def settleScale (s : State) (f : Bool) : State :=
  if (s.run.image.bind (·.upd)).isNone then s
  else if f then changeScale s true 0xFF
  else
    let s1 := modCommit s fun c => { c with lsClean := c.lsClean + 1 }
    if s1.commit.lsClean.toNat < (latLsGrowth (latitude s)).toNat then s1 else changeScale s1 false 1

/-! ### Settlement (R204, R471) -/

/-- Boundary bit `b` clears in every slot, but for the slots whose local cut write is unfinished: those keep it until
then (R152, R325). -/
def settleBits (s : State) (b : Nat) : State :=
  if s.ckpt.writing && !s.ckpt.localDone then
    let kept := (s.slots.filter fun x => x.2.st != .empty && (if b = 0 then x.2.b0 else x.2.b1)).map fun x => (x.1, b)
    modCkpt { s with slots := tmap Slot.reset (fun i x => if kept.contains (i, b) then x else setBound b false x) s.slots }
      fun k => { k with heldBits := k.heldBits ++ kept }
  else clearBounds s b

/-- Step `k` settles as a completed commit with its overflow flag (R204, R471): editions are published or freed, records,
drops, bounds, queue boundaries and the loss scale settle, and the step's boundary state is freed (R208). -/
def settleStep (s : State) (k : BitVec 40) : State :=
  let f := ovfFlag s k
  let s1 := (edStages s).foldl (fun s g => if f then skipStage s g k else flipStage s g k) s
  let s2 := if f then post s1 (commitSrc s) (hub0Pm s) evUpdateSkipped (some (imgOwner s)) eOk [] else s1
  let s3 := (match s.run.image with | some im => im.layers | none => []).foldl (fun s l => writeBounds s l k) s2
  let s4 := settleScale (settleBits s3 (k.toNat % 2)) f
  let s5 := modCommit s4 fun c => { c with lastFlag := f }
  modRun s5 fun r => { r with
    settled := k + 1
    stepBad := r.stepBad.filter fun j => decide (k.toNat < j.toNat)
    ovf := r.ovf.filter fun j => decide (k.toNat < j.toNat)
    bounds := r.bounds.filter fun b => decide (k.toNat < b.step.toNat) }

/-! ### Boundary states and the step record (R198, R205) -/

/-- The bytes of every layer's statistics area (R135). -/
def qstatBytes (s : State) : List (Nat × List Byte) :=
  match s.run.image with
  | some im => im.layers.map fun l =>
      let n := 2 * ((lrInCh l.hdr).toNat + 1) * 8
      ((lrStats l.hdr).toNat, memRead s.mem (lrStats l.hdr).toNat n)
  | none => []

/-- The boundary state of the step `k` that begins now (R205). -/
def boundaryNow (s : State) (k : BitVec 40) : Boundary :=
  { step := k, counts := s.rcpt.count, slots := s.slots, reruns := s.run.reruns, forceExp := s.commit.forceExp,
    qstats := qstatBytes s }

/-- Keep the boundary state of step `k`. -/
def keepBoundary (s : State) (k : BitVec 40) : State :=
  modRun s fun r => { r with bounds := r.bounds.filter (fun b => b.step != k) ++ [boundaryNow s k] }

/-- The step record's 64 bytes (R198). -/
def stepRecord (s : State) (k : BitVec 40) : List Byte :=
  leBytes 8 (k.setWidth 64) ++ [s.commit.forceExp, BitVec.ofNat 8 (b2n s.commit.lastFlag), 0, 0] ++
    leBytes 4 s.commit.lsClean ++ List.replicate 48 0

/-- Hub C0 writes the step record of step `k` where the image holds a commit record (R198). -/
def writeStepRecord (s : State) (k : BitVec 40) : State :=
  match commitRec s with
  | some r => pkgWrite s (crStepRec r).toNat (stepRecord s k)
  | none => s

/-! ### Members and windows (R199, R202) -/

/-- Members of the D group less one, plus one. -/
def crN (r : BitVec 256) : Nat := (crCount r).toNat + 1

/-- The package address of the member at position `i` (R199). -/
def memberAddr (s : State) (r : BitVec 256) (i : Nat) : BitVec 15 :=
  addrOf s (coordOf s s.place.addr 0) (((crFirst r).toNat + i) % axisLen s 1) (coordOf s s.place.addr 2)

/-- The position of a package among the members. -/
def memberPos (s : State) (r : BitVec 256) (a : BitVec 15) : Option Nat :=
  (List.range (crN r)).find? fun i => memberAddr s r i == a

/-- Every member's bit. -/
def fullMask (r : BitVec 256) : BitVec 64 := BitVec.ofNat 64 (2 ^ crN r - 1)

/-- V, C and D (R202). -/
def voteEnd (s : State) (r : BitVec 256) : Pm := pmAddTicks s.commit.pc (16 * (crVoteWin r).toNat)
def confirmEnd (s : State) (r : BitVec 256) : Pm := pmAddTicks (voteEnd s r) (16 * (crConfirmWin r).toNat)
def doubtEnd (s : State) (r : BitVec 256) : Pm := pmAddTicks (confirmEnd s r) (16 * (crDoubtWin r).toNat)

/-- The current round (R202). -/
def currentRound (s : State) : BitVec 32 := s.commit.closed + 1

/-- A round is open on this member. -/
def roundOpen (s : State) : Bool := s.commit.phase != .closed

/-- The step has settled (R206 to R208). -/
def isSettled (s : State) (k : BitVec 40) : Bool := decide (k.toNat < s.run.settled.toNat)

/-- A COMMIT packet's data (LOG 23): kind 1 vote, 2 confirm, 3 abort, 4 query; then the round. -/
def commitData (what : Nat) (round : BitVec 32) : List Byte := BitVec.ofNat 8 what :: leBytes 4 round

/-- A commit request to every other member. -/
def sendMembers (s : State) (r : BitVec 256) (what : Nat) : State :=
  (List.range (crN r)).foldl (fun t i =>
    let a := memberAddr s r i
    if a = s.place.addr then t
    else sendReq t 0 a 4 (Config.unitFlow 0) (commitData what (currentRound s)) (.commit what (currentRound s))) s

/-- The receipt that counts adds of kind `what`. -/
def commitRcpt (r : BitVec 256) (what : Nat) : BitVec 14 :=
  match what with | 1 => crVote r | 2 => crConfirm r | _ => crAbort r

/-- An accepted commit add of the member at position `i` (R202): its receipt counts it. -/
def commitAdd (s : State) (r : BitVec 256) (what i : Nat) : State :=
  let b : BitVec 64 := BitVec.ofNat 64 (2 ^ i)
  let s1 := match what with
    | 1 => modCommit s fun c => { c with votes := c.votes ||| b }
    | 2 => modCommit s fun c => { c with confirms := c.confirms ||| b }
    | _ => s
  applyAdd s1 (commitRcpt r what) 1 ((memberAddr s r i).setWidth 32 <<< 17 ||| 0xA70)

/-- The package's own add of kind `what`. -/
def ownAdd (s : State) (r : BitVec 256) (what : Nat) : State :=
  match memberPos s r s.place.addr with | some i => commitAdd s r what i | none => s

/-- An abort of the current round has been counted (R202). -/
def abortCounted (s : State) (r : BitVec 256) : Bool :=
  countOf s (crAbort r) != s.commit.closed * BitVec.ofNat 32 (crN r)

/-- `ready_rcpt` has reached its target for step `k` (R201). -/
def readyRcpt (s : State) (r : BitVec 256) (k : BitVec 40) : Bool :=
  rcReached (copyOf s 32 (crReady r)) (rcTarget s (crReady r) (crReadyTarget r) k)

/-! ### Ends of a round -/

/-- commit.done or commit.rollback (R203). -/
def postRound (s : State) (done : Bool) (cause : Nat) : State :=
  post s (commitSrc s) (hub0Pm s) (if done then evCommitDone else evCommitRollback) (some (imgOwner s)) eOk
    [(32, (currentRound s).toNat), (64, s.commit.step.toNat), (8, cause), (64, s.commit.votes.toNat),
     (64, s.commit.confirms.toNat)]

/-- The current round closes with an outcome: the commit receipts are set to n × r (R202). -/
def closeRound (s : State) (r : BitVec 256) (o : RoundOutcome) : State :=
  let n := currentRound s
  let t := n * BitVec.ofNat 32 (crN r)
  let s1 := modCommit s fun c => { c with
    closed := n, phase := .closed, votes := 0, confirms := 0, answers := 0
    outcomes := tput .notVoted c.outcomes n.toNat o }
  setCount (setCount (setCount s1 (crVote r) t) (crConfirm r) t) (crAbort r) t

/-! ### Rollback (R205, R206, R375, R475) -/

/-- An eviction ends in a discard (R375, R378). -/
def discardEvict (s : State) (e : Evict) : State :=
  let s1 := modCtx s e.owner.toNat fun c => { c with preemptCount := c.preemptCount + 1,
                                                     preemptLost := c.preemptLost + BitVec.ofNat 64 (s.ns - e.atNs) }
  post s1 (relSrc s (umbelOf s e.umbel.toNat)) (clock s (relDom s (umbelOf s e.umbel.toNat))) evCtxDiscard (some e.owner)
    eOk []

/-- Every eviction is discarded. -/
def discardEvicts (s : State) : State := { s.evicts.foldl discardEvict s with evicts := [] }

/-- Every core's own activity stops (R476): the SCU stands idle with an empty start queue; a faulted or retired core stays
as it is. -/
def stopCores (s : State) : State :=
  { s with cores := tmap Core.reset (fun _ k =>
      if k.phase = .faulted ∨ k.phase = .retired then { k with startQ := [] }
      else { k with phase := .idle, hold := .none, loops := [], handler := none, stream := none, startQ := [] }) s.cores }

/-- A rollback of step `k` acts (R206, R359): the schedule and every core stop, and the restore is awaited. A rollback that already
awaits its restore takes in the lower of the two steps. -/
def stopFor (s : State) (k : BitVec 40) : State :=
  let j := match s.run.rolling with | some j => if j.toNat < k.toNat then j else k | none => k
  modRun { stopCores (discardEvicts s) with sched := .stopped } fun r => { r with rolling := some j }

/-- The member closes its round as rolled back and rolls back its step (R202, R203, R475). -/
def rollRound (s : State) (r : BitVec 256) (cause : Nat) (sendAbort : Bool) : State :=
  let s1 := if sendAbort then ownAdd (sendMembers s r 3) r 3 else s
  let k := s1.commit.step
  let s2 := closeRound (postRound s1 false cause) r .rolledBack
  stopFor (modCommit s2 fun c => { c with waiting := none }) k

/-- A STOP, or another rollback, acts (R359, R475): every unsettled step is to be restored; an unconfirmed round is
aborted, a confirmed one runs on. -/
def beginRollback (s : State) : State :=
  if s.sched = .running ∨ s.sched = .quiesced then
    match commitRec s with
    | some r =>
      if s.commit.phase = .open_ ∨ s.commit.phase = .voted then
        stopFor (rollRound s r 9 true) s.run.settled
      else stopFor (modCommit s fun c => { c with waiting := none }) s.run.settled
    | none => stopFor s s.run.settled
  else s

/-! ### Opening and completing a round -/

/-- The member votes (R202). -/
def vote (s : State) (r : BitVec 256) : State :=
  ownAdd (sendMembers (modCommit s fun c => { c with phase := .voted }) r 1) r 1

/-- The member confirms when every vote is counted before V (R202). -/
def tryConfirm (s : State) (r : BitVec 256) : State :=
  if s.commit.phase = .voted ∧ s.commit.votes = fullMask r ∧ pmLt (hub0Pm s) (voteEnd s r) = true then
    ownAdd (sendMembers (modCommit s fun c => { c with phase := .confirmed }) r 2) r 2
  else s

/-- What an open, unvoted round does when it can (R201, R202): aborts on `step_bad`, votes when ready before V. -/
def tryVote (s : State) (r : BitVec 256) : State :=
  if s.commit.phase = .open_ then
    if s.run.stepBad.contains s.commit.step then rollRound s r 3 true
    else if readyRcpt s r s.commit.step && pmLt (hub0Pm s) (voteEnd s r) then tryConfirm (vote s r) r
    else s
  else s

/-- A round opens for the COMMIT entry of step `j` at its scheduled postmark (R202, R207). -/
def openRound (s : State) (r : BitVec 256) (pc : Pm) (j : BitVec 40) : State :=
  let k := j - (crLag r).setWidth 40
  if j.toNat < (crLag r).toNat || isSettled s k then s
  else
    let s1 := modCommit s fun c => { c with phase := .open_, step := k, pc := pc }
    if abortCounted s1 r then rollRound s1 r 6 false else tryVote s1 r

/-- The round commits (R202, R203): its step settles, a rollback that waits restores only later steps (R475), and a
waiting COMMIT opens the next round. -/
def commitRound (s : State) (r : BitVec 256) (cause : Nat) : State :=
  let k := s.commit.step
  let w := s.commit.waiting
  let s1 := closeRound (postRound s true cause) r .committed
  let s2 := modCommit (settleStep s1 k) fun c => { c with waiting := none }
  let s3 := modRun s2 fun x => { x with rolling := x.rolling.map fun j => if j.toNat ≤ k.toNat then k + 1 else j }
  match w with
  | some (pc, j) => if s3.run.rolling.isSome then s3 else openRound s3 r pc j
  | none => s3

/-- The step completes when every confirm is counted before C (R202). -/
def tryCommit (s : State) (r : BitVec 256) : State :=
  if s.commit.phase = .confirmed ∧ s.commit.confirms = fullMask r ∧ pmLt (hub0Pm s) (confirmEnd s r) = true then
    commitRound s r 1
  else s

/-- What follows from the counts as they stand. A member alone in its group needs no other's add: the round that waited may complete
at once too. -/
def roundGoesOn (s : State) (r : BitVec 256) : State := tryCommit (tryCommit (tryConfirm s r) r) r

/-- A COMMIT entry fires: its round opens, or waits until the round before it has closed. -/
def fireCommit (s : State) (pc : Pm) (j : BitVec 40) : State :=
  match commitRec s with
  | none => s
  | some r => if roundOpen s then modCommit s fun c => { c with waiting := some (pc, j) } else roundGoesOn (openRound s r pc j) r

/-! ### Arriving commit requests (R202, R203) -/

/-- The outcome of round `n` as this member answers it (R203). -/
def outcomeOf (s : State) (n : BitVec 32) : RoundOutcome :=
  if n = currentRound s then
    match s.commit.phase with
    | .voted | .confirmed | .doubt => .inDoubt
    | _ => .notVoted
  else tget .notVoted s.commit.outcomes n.toNat

/-- The byte that carries an outcome (LOG 23). -/
def outcomeByte : RoundOutcome → Byte
  | .committed => 0
  | .rolledBack => 1
  | .inDoubt => 2
  | .notVoted => 3

/-- The outcome a byte carries. -/
def outcomeFrom (b : Byte) : RoundOutcome :=
  match b.toNat with | 0 => .committed | 1 => .rolledBack | 2 => .inDoubt | _ => .notVoted

/-- A vote, confirm or abort of package `src` for round `n` reaches its receipt unit (R202). -/
def commitArrives (s : State) (src : BitVec 15) (what : Nat) (n : BitVec 32) : State :=
  match commitRec s with
  | none => s
  | some r =>
    match memberPos s r src with
    | some i =>
      if n = currentRound s ∧ src ≠ s.place.addr then
        let s1 := commitAdd s r what i
        if what = 3 then (if roundOpen s then rollRound s1 r 6 false else s1) else roundGoesOn s1 r
      else modCommit s fun c => { c with
        stale := tput 0 c.stale ((commitRcpt r what).toNat / 4096) (tget 0 c.stale ((commitRcpt r what).toNat / 4096) + 1) }
    | none => modCommit s fun c => { c with
        stale := tput 0 c.stale ((commitRcpt r what).toNat / 4096) (tget 0 c.stale ((commitRcpt r what).toNat / 4096) + 1) }

/-- An answer of package `src` to commit.query of round `n` (R203). -/
def answerArrives (s : State) (src : BitVec 15) (n : BitVec 32) (o : RoundOutcome) : State :=
  match commitRec s with
  | none => s
  | some r =>
    if s.commit.phase = .doubt ∧ n = currentRound s ∧ pmLt (hub0Pm s) (doubtEnd s r) = true then
      match memberPos s r src with
      | none => s
      | some i =>
        if o = .committed then commitRound s r 2
        else
          let s1 := modCommit s fun c => { c with answers := c.answers ||| BitVec.ofNat 64 (2 ^ i) }
          let own : BitVec 64 := match memberPos s r s.place.addr with | some j => BitVec.ofNat 64 (2 ^ j) | none => 0
          if s1.commit.answers ||| own = fullMask r then rollRound s1 r 7 false else s1
    else s

end Sys2Proof.Machine
end

