-- ==== Sys2Proof/Machine/CkptOps.lean ====
section
/-! DEFINITION. Checkpoints (R320 to R333): the warn sum, the cut, its generation, and how a cut state comes back. -/

namespace Sys2Proof.Machine

/-- The checkpoint record of the loaded image (R322). -/
def ckptRec (s : State) : Option (BitVec 256) := s.run.image.bind (·.ckptRec)

/-! ### The warn sum (R321) -/

/-- The entry of the collective that carries the warn sum. -/
def warnColl (s : State) (r : BitVec 256) : Option (BitVec 512) :=
  match s.run.image with | some im => im.colls.find? fun e => coId e == ckWarnColl r | none => none

/-- At the COLL_START of the warn collective the package writes 1.0 or +0 into element 0 of its contribution (R321). The record's cause
is the row of the latest failure warning, and its old and new values are those of the element (DESIGN CHOICE, LOG 27). -/
def warnWrite (s : State) (e : BitVec 512) : State :=
  match ckptRec s with
  | none => s
  | some r =>
    if coId e ≠ ckWarnColl r then s
    else
      let L := latitude s
      let soon := match s.ckpt.lastWarnNs with
        | some t => decide (s.ns < t + (latCkptMin L).toNat * 1000000000)
        | none => false
      let put := fun (s : State) (w : BitVec 32) => pkgWrite s (coSrc e).toNat (leBytes 4 w)
      let body := [(8, s.ckpt.warnRow.toNat), (32, 0), (32, 0x3F800000)]
      if !s.ckpt.warnSeen then put s 0
      else if latCkptAuto L && !soon then
        post (modCkpt (put s 0x3F800000) fun k => { k with lastWarnNs := some s.ns }) (srcUnit s 0xA0 0 0) (hub0Pm s)
          evAdaptCheckpoint none eOk body
      else postDenied (put s 0) (srcUnit s 0xA0 0 0) (hub0Pm s) evAdaptCheckpoint body

/-- The warn sum delivered for the step before `j` is not zero. -/
def warnSum (s : State) (r : BitVec 256) (j : BitVec 40) : Bool :=
  match warnColl s r with
  | some e => j != 0 && !((readF (if coOutFmt e = 6 then fBF16 else fFP32) false
      (leNat (pkgRead s (coDst e).toNat (collBytes (coOutFmt e))))).1.isZero)
  | none => false

/-- A cut is due at the CKPT_CUT of step `j` (R321). -/
def cutDue (s : State) (r : BitVec 256) (j : BitVec 40) : Bool :=
  (ckEvery r != 0 && j.toNat % (ckEvery r).toNat == 0) || warnSum s r j

/-! ### Pins (R324, R327) -/

/-- Add `d` pins, or take them away, on listed editions of stages. -/
def movePins (up : Bool) (l : List (Nat × Nat)) (s : State) : State :=
  l.foldl (fun s p => modStage s p.1 fun t =>
    let e := edOf t p.2
    { t with eds := tput Edition.reset t.eds p.2 { e with pins := if up then e.pins + 1 else e.pins - 1 } }) s

/-- The live editions that are not pending, of every stage (R324). -/
def livePins (s : State) : List (Nat × Nat) :=
  (edStages s).flatMap fun g => ((liveEds (stageOf s g)).filter fun n => (edOf (stageOf s g) n).st != .pending).map fun n => (g, n)

/-- A generation is discarded: its pins drop, and what they alone held is freed (R327). -/
def discardGen (s : State) (g : Option Gen) : State :=
  match g with
  | none => s
  | some g => (edStages s).foldl freeEds (movePins false g.pins s)

/-! ### The cut (R324 to R328) -/

/-- The edition unit of a stage as a rollback of step `j` would leave it (R324). -/
def cutStage (j : BitVec 40) (t : Stage) : Stage :=
  let u := undoRecs j t
  { u with eds := tmap Edition.reset (fun _ e => if e.st = .pending then Edition.reset else e) u.eds, frames := 0 }

/-- The storage of every slot that is not Empty at the cut (R325). -/
def carriedSlots (s : State) (b : Boundary) : List (Nat × List Byte) :=
  (b.slots.filter fun x => x.2.st != .empty).filterMap fun x =>
    match queueDesc s (x.1 / 256) with
    | some d => some (slotAddr d (x.1 % 256), memRead s.mem (slotAddr d (x.1 % 256)) (qdSlotBytes d).toNat)
    | none => none

/-- Bytes of an array of `n` elements of `b` bytes, in granules. -/
def arrayGranules (n b : Nat) : Nat := (n * b + granule - 1) / granule

/-- The owned granules of an update entry: its master, m1 and m2 arrays (R326). -/
def ownedGranules (e : BitVec 512) : List Nat :=
  let n := (ueElems e).toNat + 1
  let mb := if ueMomFp32 e then 4 else 2
  let run := fun (g : BitVec 24) (b : Nat) => (List.range (arrayGranules n b)).map (· + g.toNat)
  run (ueMaGran e) 4 ++ run (ueM1Gran e) mb ++ run (ueM2Gran e) mb

/-- The pointer of granule `i` in the current edition of stage `g`. -/
def curFrame (s : State) (g i : Nat) : Nat :=
  match edDesc s g, edIn (stageOf s g) .published with
  | some d, some n => frameOf (gtGet s d n i)
  | _, _ => 0

/-- The frame that held granule `i` of stage `g` in a generation: the pinned edition that was current at its cut keeps its
table while it is pinned (R324). -/
def genFrame (s : State) (x : Gen) (g i : Nat) : Nat :=
  match edDesc s g, edIn (tget Stage.reset x.stages g) .published with
  | some d, some n => frameOf (gtGet s d n i)
  | _, _ => 0

/-- The owned granules a generation sends: all in a base; in a difference those whose frame has changed (R326). -/
def sentGranules (s : State) (prev : Option Gen) : Nat :=
  match s.run.image.bind (·.upd) with
  | none => 0
  | some u => (u.entries.map fun e =>
      ((ownedGranules e).filter fun i => match prev with
        | some x => curFrame s (ueStage e).toNat i != genFrame s x (ueStage e).toNat i
        | none => true).length).sum

/-- SYS.PLACE as a generation header holds it (R329, R310). -/
def placeBits (s : State) : BitVec 36 :=
  s.place.lenP ++ s.place.lenD ++ s.place.lenS ++ s.place.p ++ s.place.d ++ s.place.s

/-- `job_digest` of the loaded image. -/
def jobDigest (s : State) : BitVec 64 := match s.run.image with | some im => pbDigest im.placement | none => 0

/-- A generation header (R329). The private directory's offset and CRC are free (LOG 29). -/
def genHeader (s : State) (kind : Nat) (j : BitVec 40) (bytes : Nat) : BitVec 512 :=
  (1 : BitVec 8) ++ BitVec.ofNat 2 kind ++ (0 : BitVec 1) ++ (0 : BitVec 5) ++ j.setWidth 64 ++ s.commit.closed ++
    jobDigest s ++ placeBits s ++ BitVec.ofNat 48 bytes ++ fld (Config.freeWord s.free) 0 48 ++
    Config.freeWord (s.free + 1) ++ (0 : BitVec 140)

/-- The source id of the checkpoint unit: hub C0's fabric (LOG 27). -/
def ckptSrc (s : State) : BitVec 32 := srcUnit s 0xA0 0 0

/-- The newer generation is lost, with the code: its pins drop, the next cut is a base (R330). -/
def ckptFault (s : State) (err : Err) : State :=
  let s1 := discardGen s s.ckpt.newer
  post (modCkpt s1 fun k => { k with newer := none, writing := false, localDone := false, nextBase := true, heldBits := [] })
    (ckptSrc s) (hub0Pm s) evCkptFault (some (imgOwner s)) err [(8, err.toNat)]

/-- The bytes of the boundary block are private: a free number of 32 bits (LOG 29). -/
def blockBytes (s : State) : Nat := (fld (Config.freeWord (s.free + 2)) 0 32).toNat

/-- The granule tables of pinned editions, by address (R325). -/
def pinTables (s : State) (pins : List (Nat × Nat)) : List (Nat × List Byte) :=
  pins.filterMap fun p => match edDesc s p.1 with
    | some d => some (gtAddr d p.2 0, memRead s.mem (gtAddr d p.2 0) (((edGranules d).toNat + 1) * 4))
    | none => none

/-- The generation of step `j` is written as the newer one (R325 to R328). A difference is against the last complete generation. -/
def writeCut (s : State) (r : BitVec 256) (j : BitVec 40) (b : Boundary) : State :=
  let prev := match s.ckpt.newer with | some g => some g | none => s.ckpt.older
  let s1 := discardGen s s.ckpt.older
  let base := s.ckpt.nextBase || prev.isNone
  let carried := carriedSlots s b
  let small := blockBytes s + (carried.map fun x => x.2.length).sum
  let bytes := small + sentGranules s (if base then none else prev) * granule
  let old := match s.ckpt.newer with | some g => (ghBytes g.hdr).toNat | none => 0
  let room := ((ckBuddyGib r).toNat + 1) * 2 ^ 30
  let fall := decide (room < bytes + old)
  let kind := if fall then 2 else if base then 0 else 1
  let total := if fall then small else bytes
  let pins := livePins s1
  let g : Gen := { hdr := genHeader s kind j total, sealed_ := false, step := j, block := b,
                   settledExp := s.commit.settledExp, lsClean := s.commit.lsClean, round := s.commit.closed,
                   stats := s.stats, stages := tmap Stage.reset (fun _ => cutStage j) s1.stages, layers := s.layers,
                   tables := pinTables s1 pins, carried := carried, pins := pins, began := s.ns }
  let s2 := movePins true pins (modCkpt { s1 with free := s.free + 3 } fun k =>
    { k with older := s.ckpt.newer, newer := some g, writing := true, localDone := false, nextBase := fall, warnSeen := false })
  if room < small ∨ ((ckStoreGib r).toNat + 1) * 2 ^ 30 < small then ckptFault s2 eCapacity
  else if fall then
    post s2 (ckptSrc s) (hub0Pm s) evCkptFallback (some (imgOwner s)) eCapacity [(64, bytes + old)]
  else s2

/-- A CKPT_CUT release of step `j` fires (R321, R327). A step that has itself settled by then keeps no boundary state, and its cut is
not taken (DEDUCED, LOG 29). -/
def fireCut (s : State) (j : BitVec 40) : State :=
  match ckptRec s with
  | none => s
  | some r =>
    if !cutDue s r j then s
    else if s.ckpt.writing then post s (ckptSrc s) (hub0Pm s) evCkptSkipped (some (imgOwner s)) eOk []
    else match s.run.bounds.find? fun b => b.step == j with
      | some b => writeCut s r j b
      | none => s

/-! ### Coming back (R205, R333) -/

/-- Receipts take the counts `cs`; the receipts of `keep` stand (R205). Every subscriber's copy takes the count with them,
and counts still on their way lapse. -/
def restoreCounts (s : State) (cs : Tab (BitVec 32)) (keep : List (BitVec 14)) : State :=
  let kept := keep.map fun r => (r.toNat, countOf s r)
  let count := kept.foldl (fun t x => tput 0 t x.1 x.2) cs
  let keepCopy := s.rcpt.copy.filter fun x => keep.any fun r => r.toNat == x.1 % 16384
  let subs := fun (r : Nat) => (List.range 36).filter fun i => (rcptSubs s (BitVec.ofNat 14 r)).getLsbD i
  let copy := count.foldl (fun t x =>
    if keep.any (fun r => r.toNat == x.1) then t else (subs x.1).foldl (fun t i => tput 0 t (i * 16384 + x.1) x.2) t) keepCopy
  modRcpt s fun x => { x with count := count, copy := copy, adds := [],
                              sends := x.sends.filter fun y => keep.contains y.2.1 }

/-- The three commit receipts (R202). -/
def commitRcpts (s : State) : List (BitVec 14) :=
  match commitRec s with | some r => [crVote r, crConfirm r, crAbort r] | none => []

/-- Slots return to a snapshot: only boundary bit `b(k mod 2)` stands (R152). -/
def restoreSlots (s : State) (k : BitVec 40) (sl : Tab Slot) : State :=
  let s1 := { s with slots := tmap Slot.reset (fun _ x => setBound (1 - k.toNat % 2) false { x with claim := none }) sl }
  (match s.run.image with | some im => im.queues.map fun d => (qdQueue d).toNat | none => []).foldl resetOcc s1

/-- The quantiser statistics halves return (R205). -/
def restoreQstats (s : State) (l : List (Nat × List Byte)) : State := l.foldl (fun s x => wrMem s x.1 x.2) s

/-- The release tables stand at the first entry of step `k` (R206); their counters stand. -/
def restartTables (s : State) (k : BitVec 40) : State :=
  modRun s fun r => { r with
    rel := (umbels s).foldl (fun t e => tput Rel.reset t e.1 { (tget Rel.reset t e.1) with idx := 0, step := k, stalled := 0 }) r.rel }

end Sys2Proof.Machine
end

