-- ==== Sys2Proof/Machine/SchedOps.lean ====
section
/-! DEFINITION. The step boundary (R39, R473) and the restore of a rollback (R205, R206): spares, re-keys, links that come
back, statistics halves, boundary states. -/

namespace Sys2Proof.Machine

/-! ### Substitution at boundaries (R14, R402) -/

/-- The most substitutions at one boundary (R43). -/
def spareMax (s : State) : Nat := (latSpareMax (latitude s)).toNat

/-- Make the first `n` of the requests `l`, in their order (R43, R402). -/
def substituteAll (s : State) (n : Nat) (l : List (BitVec 32)) : State :=
  (l.take n).foldl (fun s ch => match reqCore s ch with | some c => substitute s c.1 c.2 | none => s) s

/-- A request whose core `pick` takes. -/
def reqPicked (s : State) (pick : CoreId × Bool → Bool) (ch : BitVec 32) : Bool :=
  match reqCore s ch with | some c => pick c | none => false

/-- The substitutions of a step boundary (R14, R402): those that an earlier boundary or restore had no room for, then those of
cores outside every used umbel; what is beyond the limit waits for the next. -/
def spareBoundary (s : State) : State :=
  let mine := s.sh.spareLate ++ s.sh.spareReq.filter (reqPicked s fun c => !reqUsed s c)
  let s1 := substituteAll s (spareMax s) mine
  modSh s1 fun x => { x with spareReq := x.spareReq.filter fun ch => !mine.contains ch, spareLate := mine.drop (spareMax s) }

/-- The substitutions of a rollback's restore (R205, R402): those of cores in used umbels; what is beyond the limit waits for
the next boundary. -/
def spareRestore (s : State) : State :=
  let mine := s.sh.spareReq.filter (reqPicked s (reqUsed s))
  let s1 := substituteAll s (spareMax s) mine
  modSh s1 fun x => { x with spareReq := x.spareReq.filter fun ch => !mine.contains ch
                             spareLate := x.spareLate ++ mine.drop (spareMax s) }

/-! ### Re-keys (R228 to R230) -/

/-- The relocatable regions of a hub in ascending base order, as indices. -/
def relocatable (h : HubMem) : List Nat :=
  ((h.regions.filter fun e => rgValid e.2 && rgReloc e.2).insertionSort fun a b => rgBase a.2 ≤ rgBase b.2).map Prod.fst

/-- The group's re-key is allowed now. -/
def mayRekey (s : State) (q : RekeyReq) : Bool :=
  let L := latitude s
  let h := hubOf s q.hub.val
  (if q.hbm then latRekeyHbm L && !(relocatable h).isEmpty && h.migr.isNone else latRekeyLlm L) &&
    (match s.run.lastRekeyNs with
     | some t => decide (t + max 60 (latRekeyMin L).toNat * 1000000000 ≤ s.ns)
     | none => true)

/-- Make one re-key (R229, R230). -/
def makeRekey (s : State) (q : RekeyReq) : State :=
  let h := hubOf s q.hub.val
  let src := srcUnit s 0xA0 q.hub.val 0
  let pm := clock s (domHub q.hub.val)
  let s1 := modRun s fun r => { r with lastRekeyNs := some s.ns }
  let rep := fun (s : State) (old new : BitVec 2) => post s src pm evAdaptRekey none eOk
    [(8, q.hub.val), (8, b2n q.hbm), (8, old.toNat), (8, new.toNat), (32, q.ratio.toNat)]
  if q.hbm then
    match relocatable h with
    | [] => s1
    | i :: _ =>
      let k := rgHkey (tget 0 h.regions i)
      rep (modHub s1 q.hub.val fun h => { h with migr := some { index := i, chunk := 0, moved := 0, sinceNs := s.ns } }) k (k + 1)
  else rep (modHub s1 q.hub.val fun h => { h with hkey := h.hkey + 1, flushing := true }) h.hkey (h.hkey + 1)

/-- The re-keys of a boundary: the first allowed request is made, every other is denied (R228). -/
def rekeyAll (s : State) : State :=
  let rs := s.run.rekeys.insertionSort fun a b => a.hub.val * 2 + b2n a.hbm ≤ b.hub.val * 2 + b2n b.hbm
  let r := rs.foldl (fun (x : State × Bool) q =>
    if !x.2 && mayRekey x.1 q then (makeRekey x.1 q, true)
    else (postDenied x.1 (srcUnit x.1 0xA0 q.hub.val 0) (clock x.1 (domHub q.hub.val)) evAdaptRekey
      [(8, q.hub.val), (8, b2n q.hbm), (32, q.ratio.toNat)], x.2)) (modRun s fun r => { r with rekeys := [] }, false)
  r.1

/-! ### The boundary (R39, R473) -/

/-- Links that have come up again carry their flows again (R268). -/
def returnLinks (s : State) : State :=
  { s with links := tmap Link.reset (fun _ l =>
      if l.failedOver && (l.st = .up || l.st = .replaying) then { l with failedOver := false } else l) s.links }

/-- The step statistics half that step `k` will collect is reset (R195). -/
def resetStatHalf (s : State) (k : BitVec 40) : State :=
  { s with stats := s.stats.filter fun x => x.1 % 2 != k.toNat % 2 }

/-- Set the boundary bit of the step that begins (R152); a clear that a local write held back for the same bit lapses. -/
def beginBits (s : State) (b : Nat) : State :=
  modCkpt (setBounds s b) fun k => { k with heldBits := k.heldBits.filter fun x => x.2 != b }

/-- The layers of the loaded image. -/
def imageLayers (s : State) : List Layer := match s.run.image with | some im => im.layers | none => []



/-- The pending bounds of a record at the STEP_END of step `k`; those of a step that has settled already are written at once
(R132, R133). -/
def boundsAt (k : BitVec 40) (s : State) (l : Layer) : State :=
  let s1 := pendBounds s l k
  if isSettled s k then writeBounds s1 l k else s1

/-- The STEP_END entry of step `k` fires: the boundary between step `k` and step `k + 1` (R39). -/
def boundary (s : State) (k : BitVec 40) : State :=
  let j := k + 1
  let s1 := (imageLayers s).foldl (boundsAt k) s
  let s2 := if (commitRec s).isNone then settleStep s1 k else s1
  let s3 := beginBits s2 (j.toNat % 2)
  let s4 := resetStatHalf ((imageLayers s).foldl (fun s l => qstatReset s l (j.toNat % 2)) s3) j
  let s5 := modCommit (modRun s4 fun r => { r with reruns := 0, step := j }) fun c => { c with forceExp := c.settledExp }
  let s6 := writeStepRecord (keepBoundary s5 j) j
  let s7 := returnLinks (rekeyAll (spareBoundary s6))
  if s7.tb.lost then modTb { s7 with sched := .quiesced } fun t => { t with lost := false } else s7

/-- The STEP_END entry of step `k`, which begins step `k + 1`, may be due: step `k - lag` has settled. R208 holds back "the STEP_END
release of step k + lag + 1" for step k: read as the release that begins that step, as R152 and R197 name it, it leaves at most `lag` + 1
boundary states (DEDUCED, LOG 46). -/
def boundaryDue (s : State) (k : BitVec 40) : Bool :=
  match commitRec s with
  | some r => decide (k.toNat < s.run.settled.toNat + (crLag r).toNat)
  | none => true

/-! ### The restore (R205, R206, R476) -/

/-- Nothing of the schedule's own agents is at work: every core's engines and transfers are done, and every add has reached its
receipt unit (R476). -/
def agentsStopped (s : State) : Bool :=
  s.cores.all (fun k => k.2.mxaQ.isEmpty && k.2.drainQ.isEmpty && k.2.drain.isEmpty) && s.ports.all (fun p => p.2.xfers.isEmpty) && s.rcpt.adds.isEmpty

/-- The edition units of a rollback of step `k` (R158, R159). -/
def rollStages (s : State) (k : BitVec 40) : State :=
  (edStages s).foldl (fun s g => freeEds (dropPending (modStage s g (undoRecs k)) g k) g) s

/-- The boundary state of step `k` is restored, and step `k` will rerun (R205, R206, R473). -/
def restoreStep (s : State) (k : BitVec 40) (b : Boundary) : State :=
  let s1 := restoreSlots (restoreCounts s b.counts (commitRcpts s)) k b.slots
  let s2 := rollStages { s1 with cons := [], upd := [] } k
  let s3 := { s2 with layers := tmap LayerSt.reset (fun _ => dropBounds k) s2.layers }
  let s4 := (List.range ((s.run.step - k).toNat + 1)).foldl (fun s i => resetStatHalf s (k + BitVec.ofNat 40 i)) s3
  let s5 := restoreQstats s4 b.qstats
  let s6 := modCommit s5 fun c => { c with forceExp := b.forceExp }
  let s7 := modRun s6 fun r => { r with
    reruns := b.reruns, step := k, rolling := none
    stepBad := r.stepBad.filter fun j => decide (j.toNat < k.toNat)
    ovf := r.ovf.filter fun j => decide (j.toNat < k.toNat)
    bounds := r.bounds.filter fun x => decide (x.step.toNat ≤ k.toNat) }
  clearColls (restartTables (spareRestore s7) k)

end Sys2Proof.Machine
end

