-- ==== Sys2Proof/Machine/Commit.lean ====
section
/-! DEFINITION. The events of the commit unit, of a rollback's restore and of the checkpoint copy (R202 to R208, R325 to
R327). -/

namespace Sys2Proof.Machine

/-- The commit unit acts on the image's commit record. -/
def withCommit (s : State) (f : BitVec 256 → State) : Res :=
  match commitRec s with | some r => .next (f r) | none => .next s

/-- MEMBER_READY (R201, R202): an open round whose member is ready before V votes; one whose `step_bad` is set aborts. -/
def execMemberReady (s : State) : Res := withCommit s fun r => roundGoesOn (tryVote s r) r

/-- VOTE_WINDOW_EXPIRY (R202): V passes before the member is ready, or before every vote has come. -/
def execVoteWindowExpiry (s : State) : Res :=
  withCommit s fun r =>
    if pmLt (hub0Pm s) (voteEnd s r) then s
    else if s.commit.phase = .open_ then rollRound s r (if s.run.stepBad.contains s.commit.step then 3 else 4) true
    else if s.commit.phase = .voted then rollRound s r 5 true
    else s

/-- CONFIRM_DEADLINE (R203): C passes short of the confirms; the member is in doubt and asks every other one. -/
def execConfirmDeadline (s : State) : Res :=
  withCommit s fun r =>
    if s.commit.phase = .confirmed ∧ pmLt (hub0Pm s) (confirmEnd s r) = false then
      sendMembers (modCommit s fun c => { c with phase := .doubt, answers := 0 }) r 4
    else s

/-- DOUBT_DEADLINE (R203): D passes with no member committed. -/
def execDoubtDeadline (s : State) : Res :=
  withCommit s fun r =>
    if s.commit.phase = .doubt ∧ pmLt (hub0Pm s) (doubtEnd s r) = false then rollRound s r 8 false else s

/-- ROLLBACK_RESTORE (R205, R206, R475, R476): once every agent has stopped and no round is open, the boundary state comes
back. -/
def execRollbackRestore (s : State) : Res :=
  match s.run.rolling with
  | some k => whenever (!roundOpen s && agentsStopped s) s
      (restoreStep s k ((s.run.bounds.find? fun b => b.step == k).getD (boundaryNow s k)))
  | none => .next s

/-- The buddy of this package (R323): one further on D. -/
def buddyAddr (s : State) : BitVec 15 :=
  addrOf s (coordOf s s.place.addr 0) ((coordOf s s.place.addr 1 + 1) % axisLen s 1) (coordOf s s.place.addr 2)

/-- The request that stands for the copy of a generation to the buddy (LOG 30). -/
def copyRequest (s : State) (r : BitVec 256) : State :=
  let plan : BitVec 256 := (ckBuddyBase r).setWidth 256 <<< 72
  sendReq s 0 (buddyAddr s) 1 (ckFlow r) (leBytes 32 plan ++ List.replicate 24 0) .ckpt

/-- LOCAL_WRITE_COMPLETE (R325, R326): the local write of the cut ends; boundary bits it held back clear, and the copy to
the buddy begins. -/
def execLocalWriteComplete (s : State) : Res :=
  match ckptRec s with
  | some r =>
    if s.ckpt.writing && !s.ckpt.localDone && s.sched = .running then
      let s1 := s.ckpt.heldBits.foldl (fun s x =>
        { s with slots := tput Slot.reset s.slots x.1 (setBound x.2 false (tget Slot.reset s.slots x.1)) }) s
      .next (copyRequest (modCkpt s1 fun k => { k with localDone := true, heldBits := [] }) r)
    else .next s
  | none => .next s

/-- GENERATION_SEALED (R327): the copy's last byte has been acknowledged and the header is sealed at the buddy. -/
def execGenerationSealed (s : State) : Res :=
  match ckptRec s, s.ckpt.newer with
  | some r, some g =>
    if s.ckpt.writing && s.ckpt.localDone && s.sched = .running && !((e2eOf s 0).reqs.any fun x => x.for_ == .ckpt) then
      let s1 := modCkpt s fun k =>
        { k with writing := false, newer := some { g with sealed_ := true, hdr := putBit g.hdr 501 true } }
      .next (post (addReceipt s1 (ckDone r) 1 (ckptSrc s)) (ckptSrc s) (hub0Pm s) evCkptDone (some (imgOwner s)) eOk
        [(64, g.step.toNat), (8, (ghKind g.hdr).toNat), (64, (ghBytes g.hdr).toNat), (32, (s.ns - g.began) / 1000)])
    else .next s
  | _, _ => .next s

end Sys2Proof.Machine
end

