-- ==== Sys2Proof/Machine/Consign.lean ====
section
/-! DEFINITION. The consignment events (R146, R147). -/

namespace Sys2Proof.Machine

/-- An earlier firing, or an equal one of a lower number, whose start condition also holds at the same hub (R146). -/
def startsBefore (s : State) (n : Nat) (e : Nat × Cons) : Bool :=
  e.1 != n && consHub e.1 == consHub n && e.2.st = .booked && canStart s (planOf s e.1) &&
    (pmLt e.2.fired (consOf s n).fired || (e.2.fired == (consOf s n).fired && decide (e.1 < n)))

/-- An engine of the hub is free: 256 each (R146). -/
def engineFree (s : State) (h : Nat) : Bool :=
  decide ((s.cons.filter fun e => consHub e.1 == h && e.2.st = .inTransit).length < 256)

/-- CONSIGN_START (R146): a booked consignment whose start condition holds takes a free engine, in the order of the
firings. `ecc` is what the codes met at the source of a remote POST, whose bytes set out here (R213). -/
def execConsignStart (n : BitVec 20) (ecc : EccAt) (s : State) : Res :=
  let i := n.toNat
  let p := planOf s i
  let spans := if plRemote p then consSpans s i p else []
  whenever (schedRuns s && (consOf s i).st = .booked && canStart s p && engineFree s (consHub i) &&
    !s.cons.any (startsBefore s i) && !anyWaits s spans) s (enter (metEcc s ecc spans) i p)

/-- CONSIGN_DELIVERED (R146, R150, R157 to R161): the last byte of a consignment in transit is written; an ED_WRITE that
its stage refuses, or whose pool runs empty, is Returned instead. An error that the codes met and its retry did not cure leaves it in
transit, to be Returned (R213). -/
def execConsignDelivered (n : BitVec 20) (ecc : EccAt) (s : State) : Res :=
  let i := n.toNat
  let p := planOf s i
  whenever (schedRuns s && (consOf s i).st = .inTransit && !plRemote p && (consFault s i p).isNone && !anyWaits s (consSpans s i p)) s
    (let s1 := metEcc s ecc (consSpans s i p)
     if (consFault s1 i p).isSome then s1 else finish s1 i p)

/-- The code of a return cause (R147). -/
def causeErr : ReturnCause → Err
  | .key => eKey
  | .retired => eRetired
  | .linkDown => eLinkDown
  | .range => eRange
  | .state => eState

/-- CONSIGN_RETURNED (R147): a destination or source that refuses returns a local consignment, with the bytes already
written standing; a remote POST is returned when its source refuses it, its path is lost or its destination refuses it. -/
def execConsignReturned (n : BitVec 20) (cause : ReturnCause) (bytes : Nat) (s : State) : Res :=
  let i := n.toNat
  let p := planOf s i
  let err := causeErr cause
  let remote := decide (cause = .linkDown ∨ cause = .range ∨ cause = .state)
  if schedRuns s = false ∨ (consOf s i).st ≠ .inTransit then .next s
  else if plRemote p && (consOf s i).sent then
    whenever remote s (returnCons (modE2e s (consHub i) fun e =>
      { e with reqs := e.reqs.filter fun r => r.for_ != .write n }) i err bytes)
  else if plRemote p then whenever (consFault s i p == some err) s (returnCons s i err 0)
  else whenever (consFault s i p == some err) s (cutShort s i p err bytes)

/-- REMOTE_POST_ACK (R146): the acknowledgement of the last WRITE of a remote POST has come; the consignment is Delivered
and Idle in the next hub cycle, and no receipt of this package counts. -/
def execRemotePostAck (n : BitVec 20) (s : State) : Res :=
  let i := n.toNat
  let p := planOf s i
  whenever ((consOf s i).st = .inTransit && plRemote p && (consOf s i).sent &&
    !((e2eOf s (consHub i)).reqs.any fun r => r.for_ == .write n)) s (toIdle (countDone s p) i)

end Sys2Proof.Machine
end

