-- ==== Sys2Proof/Machine/Clock.lean ====
section
/-! DEFINITION. What the clocks do when nothing is commanded: beat time runs on. -/

namespace Sys2Proof.Machine

/-- The timebase's own postmark advances once it holds a beat count, and while it acquires its first one (R31, R315). -/
def tbRuns (s : State) : Bool := powered s && (s.tb.hasCount || s.tb.st = .acquiring)

/-- A clock domain's counter over one nanosecond (R32): `clk` eightieths of a cycle pass, and each whole cycle adds the rate
value. One paused at a correction pulse stands until the timebase, at `now`, reaches it (R33); one whose domain is off, or has
not been loaded since it powered up, stands (R34). -/
def ctrAdvance (now : Pm) (c : Ctr) : Ctr :=
  if !(c.on && c.loaded) then c
  else if c.paused then (if pmReached now c.pm then { c with paused := false } else c)
  else
    let ph := c.phase + c.clk.toNat
    let a := c.frac.toNat + ph / 80 * c.rate.toNat
    { c with phase := ph % 80, frac := BitVec.ofNat 32 a, pm := c.pm + BitVec.ofNat 64 (a / 2 ^ 32) }

/-- The timebase advances by `d` sub-ticks, less what it is ahead of its upstream (R31, R33). -/
def tbAdvance (d : Nat) (t : Timebase) : Timebase :=
  { t with now := t.now + BitVec.ofNat 64 (d - t.ahead), ahead := t.ahead - d }

/-- The once-per-second edge of TB_IN that follows the lock of a root with TB_IN places beat 0 (R27). -/
def ppsEdge (ns : Nat) (t : Timebase) : Timebase :=
  match t.ppsDue with
  | some n => if n ≤ ns then { t with now := 0, acc := 0, hasCount := true, ppsDue := none } else t
  | none => t

/-- One nanosecond passes: a beat of `beat_period` ns holds 2^24 sub-ticks, so the timebase advances by the whole part
of the exact quotient and carries the rest (R24, R25); every running counter advances by its own rate (R32); a courier lane whose next
slot has come sends the frame that it goes to (R276). -/
def tickNs (s : State) : State :=
  let a := s.tb.acc + 2 ^ 24
  let p := s.tb.beatPeriod.toNat
  let t := ppsEdge (s.ns + 1) (if tbRuns s then tbAdvance (a / p) { s.tb with acc := a % p } else s.tb)
  slots { s with ns := s.ns + 1, tb := t, clk := s.clk.map (ctrAdvance t.now) }

end Sys2Proof.Machine
end

