-- ==== Sys2Proof/Machine/PreemptOps.lean ====
section
/-! DEFINITION. Handing a start to the cores of an umbel (R51, R371) and the phases of an eviction (R372 to R378). -/

namespace Sys2Proof.Machine

/-! ### Handing a start (R51) -/

/-- A core receives a start: it waits in the start queue of four, or the core faults with E_CAPACITY; a retired core takes
none. -/
def queueStart (s : State) (e : StartEnt) (c : CoreId) : State :=
  let k := coreOf s c
  if k.phase = .retired then s
  else if k.startQ.length < 4 then modCore s c fun k => { k with startQ := k.startQ ++ [e] }
  else coreFault s c eCapacity

/-- An idle core takes the start that it has just been handed, unless it has executed HALT and dispatches an envelope that waits
(R51, R172). -/
def beginIfIdle (s : State) (c : CoreId) : State :=
  let k := coreOf s c
  match k.phase, k.startQ with
  | .idle, e :: t => if !k.halted || (portOf s c).pillar.isEmpty then takeStart (modCore s c fun k => { k with startQ := t }) c e else s
  | _, _ => s

/-- A start is handed to cores, all in the same cycle. -/
def handStart (s : State) (e : StartEnt) (cs : List CoreId) : State :=
  cs.foldl beginIfIdle (cs.foldl (fun s c => queueStart s e c) s)

/-! ### Who is evicted (R371) -/

/-- A context is latency-critical. -/
def isLc (s : State) (c : BitVec 6) : Bool := cfgLc (ctxOf s c.toNat).cfg

/-- Core `c` lies in umbel `u`. -/
def inUmbel (s : State) (u : BitVec 16) (c : CoreId) : Bool := umHas (umbelOf s u.toNat) c.toNat

/-- The BE umbel that holds core `c` when its current stream belongs to a BE context: the umbel that context is bound to. -/
def heldBy (s : State) (c : CoreId) : Option (BitVec 16) :=
  match (coreOf s c).phase, (coreOf s c).stream with
  | .running, some st => if isLc s st.owner then none else
      if (ctxOf s st.owner.toNat).boundNow then some (ctxOf s st.owner.toNat).umbelNow else none
  | _, _ => none

/-- The evictions in a phase `p` whose umbel shares a core with `cs`. -/
def evictsOn (s : State) (p : EvictPhase → Bool) (cs : List CoreId) : List Evict :=
  s.evicts.filter fun e => p e.phase && cs.any fun c => inUmbel s e.umbel c

/-- Change the eviction of umbel `u`. -/
def modEvict (s : State) (u : BitVec 16) (f : Evict → Evict) : State :=
  { s with evicts := s.evicts.map fun e => if e.umbel == u then f e else e }

/-- An eviction begins (R372): every core of the umbel stops issuing and drains. -/
def beginEvict (s : State) (u : BitVec 16) (starts : List StartEnt) : State :=
  match starts with
  | [] => s
  | e :: _ =>
    let cs := umCores (umbelOf s u.toNat)
    let v : Evict := { umbel := u, owner := ownerOf s u, by_ := e.stream.umbel, byOwner := e.stream.owner,
                       phase := .draining, at_ := clock s (relDom s (umbelOf s u.toNat)), atNs := s.ns, drainNs := 0,
                       starts := starts, again := [],
                       cores := cs.foldl (fun t c => tput Core.reset t c.toNat (coreOf s c)) [], ports := [], bytes := [] }
    cs.foldl (fun s c => modCore s c fun k => if k.phase = .faulted ∨ k.phase = .retired then k else { k with phase := .draining })
      { s with evicts := s.evicts ++ [v] }

/-- A start of an LC umbel (R371, R374): BE umbels that hold its cores are evicted, and the start waits for them. -/
def startLc (s : State) (e : StartEnt) (cs : List CoreId) : State :=
  let busy := evictsOn s (fun p => p = .draining || p = .saved) cs
  let back := evictsOn s (fun p => p = .restoring) cs
  let fresh := (cs.filterMap (heldBy s)).dedup.filter fun u => !(s.evicts.any fun v => v.umbel == u)
  let s1 := busy.foldl (fun s v => modEvict s v.umbel fun v => { v with starts := v.starts ++ [e] }) s
  let s2 := back.foldl (fun s v => modEvict s v.umbel fun v => { v with again := v.again ++ [e] }) s1
  let s3 := fresh.foldl (fun s u => beginEvict s u [e]) s2
  if busy.isEmpty && back.isEmpty && fresh.isEmpty then handStart s3 e cs else s3

/-- A start joins the saved start queue of core `c` (R375). -/
def addStart (t : Tab Core) (c : CoreId) (e : StartEnt) : Tab Core :=
  let k := tget Core.reset t c.toNat
  tput Core.reset t c.toNat { k with startQ := k.startQ ++ [e] }

/-- A start of a BE umbel (R371, R375): on a core evicted from its own context it joins the saved start queue, and
elsewhere it is handed under R51. -/
def startBe (s : State) (e : StartEnt) (cs : List CoreId) : State :=
  let mine := fun (c : CoreId) => s.evicts.find? fun v => v.owner == e.stream.owner && inUmbel s v.umbel c
  let s1 := (cs.filter fun c => (mine c).isSome).foldl (fun s c =>
    match s.evicts.find? fun v => v.owner == e.stream.owner && inUmbel s v.umbel c with
    | some v =>
      if v.phase = .draining then modCore s c fun k => { k with startQ := k.startQ ++ [e] }
      else modEvict s v.umbel fun v => { v with cores := addStart v.cores c e }
    | none => s) s
  handStart s1 e (cs.filter fun c => (mine c).isNone)

/-- A STREAM_START of umbel `u` at word `a` fires in step `k` at postmark `pm` (R51, R368, R371). -/
def fireStart (s : State) (u : BitVec 16) (a : BitVec 11) (k : BitVec 40) (pm : Pm) : State :=
  let o := ownerOf s u
  let st : Stream := { umbel := u, owner := o, audit := cfgAudit (ctxOf s o.toNat).cfg,
                       mode := if s.run.verify then .verify else .service, step := k }
  let e : StartEnt := { addr := a, stream := st, fired := pm }
  let cs := umCores (umbelOf s u.toNat)
  if isLc s o then startLc s e cs else startBe s e cs

/-! ### The phases (R372 to R374) -/

/-- The save block's size of a context's cores (R373). -/
def blockSize (s : State) (c : BitVec 6) : Nat :=
  let w := (ctxOf s c.toNat).saveCtl
  45056 + ((svHi w).toNat - (svLo w).toNat) * 1024

/-- Core `c`'s work has drained (R372): nothing queued to its engines, no XFER outstanding. -/
def drained (s : State) (c : CoreId) : Bool :=
  let k := coreOf s c
  k.mxaQ.isEmpty && k.drainQ.isEmpty && k.drain.isEmpty && (portOf s c).xfers.isEmpty

/-- The bytes of core `c` that its save block holds: the instruction store, and the live scratchpad range. -/
def savedBytes (s : State) (o : BitVec 6) (c : CoreId) : Tab Byte :=
  let w := (ctxOf s o.toNat).saveCtl
  let lo := spAddr c ((svLo w).toNat * 1024)
  let hi := spAddr c ((svHi w).toNat * 1024)
  s.mem.filter fun x => (decide (lo ≤ x.1) && decide (x.1 < hi)) ||
    (decide (isAddr c 0 ≤ x.1) && decide (x.1 < isAddr c isSize))

/-- The cores of the evicted umbel are saved (R372, R373): each as it stands, in the phase it was stopped in. -/
def saveCores (s : State) (v : Evict) : Evict :=
  let cs := umCores (umbelOf s v.umbel.toNat)
  { v with
    phase := .saved
    drainNs := s.ns - v.atNs
    cores := cs.foldl (fun t c =>
      let k := coreOf s c
      tput Core.reset t c.toNat
        (if k.phase = .draining then { k with phase := (tget Core.reset v.cores c.toNat).phase } else k)) []
    ports := cs.foldl (fun t c => tput Port.reset t c.toNat (portOf s c)) []
    bytes := (cs.flatMap (savedBytes s v.owner)).foldl (fun t x => tput 0 t x.1 x.2) [] }

/-- The cores are left idle, with an empty start queue and an empty pillar box (R372). -/
def leaveIdle (s : State) (v : Evict) : State :=
  (umCores (umbelOf s v.umbel.toNat)).foldl (fun s c =>
    modPort (modCore s c fun k => if k.phase = .faulted ∨ k.phase = .retired then { k with startQ := [] }
      else { k with phase := .idle, hold := .none, loops := [], handler := none, stream := none, startQ := [] })
      c fun p => { p with pillar := [] }) s

/-- No eviction still keeps the start `e` waiting. -/
def startFree (s : State) (e : StartEnt) : Bool :=
  s.evicts.all fun v => !((v.phase = .draining || v.phase = .saved) && v.starts.contains e) && !v.again.contains e

/-- Every core of the umbel halted, with an empty start queue and an empty pillar box (R374). -/
def readyToRestore (s : State) (v : Evict) : Bool :=
  (umCores (umbelOf s v.umbel.toNat)).all fun c =>
    ((coreOf s c).phase = .idle || (coreOf s c).phase = .retired) && (coreOf s c).startQ.isEmpty && (portOf s c).pillar.isEmpty

/-- Core `c` reads its block back (R373, R374): everything but the scales of the A-row latch and the scratchpad outside
the live range; a fifth start saved meanwhile is a core fault with E_CAPACITY (R375). -/
def restoreCore (s : State) (v : Evict) (c : CoreId) : State :=
  let k := tget Core.reset v.cores c.toNat
  let p := tget Port.reset v.ports c.toNat
  let w := (ctxOf s v.owner.toNat).saveCtl
  if (coreOf s c).phase = .retired then s
  else
    let s1 := zeroMem (zeroMem s (isAddr c 0) isSize) (spAddr c ((svLo w).toNat * 1024)) (((svHi w).toNat - (svLo w).toNat) * 1024)
    let s2 := modCore s1 c fun now => { k with latchSc := now.latchSc, startQ := k.startQ.take 4 }
    let s3 := modPort s2 c fun q => { q with pillar := p.pillar, outbox := p.outbox, slots := p.slots, blk := p.blk }
    if 4 < k.startQ.length then coreFault s3 c eCapacity else s3

/-- The source id and clock of an eviction's records (LOG 27). -/
def evictSrc (s : State) (v : Evict) : BitVec 32 := srcUnit s 0xA0 ((umFirst (umbelOf s v.umbel.toNat)).toNat / 32768) 0
def evictPm (s : State) (v : Evict) : Pm := clock s (domHub ((umFirst (umbelOf s v.umbel.toNat)).toNat / 32768))

end Sys2Proof.Machine
end

