-- ==== Sys2Proof/Machine/Envelope.lean ====
section
/-! DEFINITION. Envelopes on their way (R168 to R172) and the requests of guest dies (R248, R249). -/

namespace Sys2Proof.Machine

/-! ### Guests -/

/-- Endpoint `ep` exists: logical core die:0:ep (R248). -/
def isEndpoint (s : State) (c : CoreId) : Bool :=
  isGuestDie s (dieOf c) && decide (c.toNat % 4096 ≤ (cbEndpoints (guestBlock s (dieOf c))).toNat)

/-! ### Answers -/

/-- The header of a dead letter (R169). -/
def deadHdr (h : BitVec 512) (code : Err) : BitVec 512 := putFld (putFld h 502 (1 : BitVec 2)) 365 code

/-- The answer to an envelope goes back: to the sender's core, to a sending guest (whose hub adds to `src_rcpt`), or as the
response of its request (R169, R170, R248, R257). -/
def answerEnv (s : State) (h : BitVec 512) (ent : Fin 16) (from_ : Option Origin) (code : Err) : State :=
  let dead := code != eOk
  match from_ with
  | some o => answerReq s o code (if dead then leBytes 64 (deadHdr h code) else [])
  | none =>
    let c := ehSrcCore h
    if isGuestDie s (dieOf c) then
      send (if !dead && ehSrcAdd h then addReceipt s (ehSrcRcpt h) 1 (srcUnit s 0xA0 (dieOf c / 8) 0) else s) (.guest (BitVec.ofNat 5 (dieOf c)) code (if dead then leBytes 64 (deadHdr h code) else []))
    else { s with flights := s.flights ++ [if dead then .dead c ent (deadHdr h code) else .ack c ent] }

/-! ### Arrival (R169) -/

/-- The receiving core of an envelope (R163). -/
def envCore (s : State) (h : BitVec 512) : CoreId :=
  BitVec.ofNat 17 ((umFirst (umbelOf s (ehDstUmbel h).toNat)).toNat + (ehMember h).toNat)

/-- Check 1: the umbel is used and has the member. -/
def envMember (s : State) (h : BitVec 512) : Bool :=
  umUsed (umbelOf s (ehDstUmbel h).toNat) && decide ((ehMember h).toNat < (umCount (umbelOf s (ehDstUmbel h).toNat)).toNat)

/-- The umbel addressed is evicted (R375): its owner's cores are, and the receiving core among them. -/
def envEvicted (s : State) (h : BitVec 512) : Bool :=
  s.evicts.any fun v => inUmbel s v.umbel (envCore s h) && ownerOf s (ehDstUmbel h) == v.owner

/-- The first failing check of R169 and R375; `none` accepts. -/
def envRefused (s : State) (h : BitVec 512) : Option Err :=
  let p := portOf s (envCore s h)
  let e := tget 0 p.blk.ents (ehHandler h).toNat
  if !envMember s h then some eRange
  else if (coreOf s (envCore s h)).phase = .retired then some eRetired
  else if envEvicted s h then some eCapacity
  else if !heValid e then some eRange
  else if heMasked e then some eMode
  else if 16 ≤ p.pillar.length then some eCapacity
  else none

/-- A core refuses an envelope: `dl_issued` counts at the receiving core (R175). -/
def refuseEnv (s : State) (h : BitVec 512) (ent : Fin 16) (from_ : Option Origin) (code : Err) : State :=
  let s1 := answerEnv s h ent from_ code
  if envMember s h then modPort s1 (envCore s h) fun p => { p with dlIssued := satInc p.dlIssued } else s1

/-- A core accepts an envelope into its pillar box (R168, R170). -/
def acceptEnv (s : State) (h : BitVec 512) (pay : List Byte) (ent : Fin 16) (from_ : Option Origin) : State :=
  let c := envCore s h
  let v : Envelope := { hdr := h, payload := pay, at_ := coreClock s c }
  answerEnv (modPort s c fun p => { p with pillar := p.pillar ++ [v], envAccepted := satInc p.envAccepted }) h ent from_ eOk

/-- An envelope for a guest endpoint (R248): the hub makes checks 1 and 2, the guest the rest. -/
def guestArrives (s : State) (h : BitVec 512) (pay : List Byte) (ent : Fin 16) (from_ : Option Origin) : State :=
  let c := envCore s h
  if !isEndpoint s c || !cbEnv (guestBlock s (dieOf c)) then answerEnv s h ent from_ eRange
  else if (siteOf s (siteOfDie s (dieOf c))).failed then answerEnv s h ent from_ eRetired
  else
    send { s with flights := s.flights ++ [.guest h ent from_ s.ns] }
      (.guest (BitVec.ofNat 5 (dieOf c)) eOk (leBytes 64 h ++ pay))

/-- Flight `i` leaves the list. -/
def dropFlight (s : State) (i : Nat) : State := { s with flights := s.flights.eraseIdx i }

/-- Envelope `i` is the oldest on its way from its sender to its receiver (R174). -/
def inOrder (s : State) (i : Nat) (h : BitVec 512) : Bool :=
  (s.flights.take i).all fun f => match f with
    | .env g _ _ _ => !(ehSrcPkg g == ehSrcPkg h && ehSrcCore g == ehSrcCore h && envCore s g == envCore s h)
    | _ => true

/-- ENVELOPE_ARRIVAL (R168, R169, R170, R248): an envelope on its way is judged, and accepted or returned. -/
def execEnvelopeArrival (i : Nat) (s : State) : Res :=
  match s.flights[i]? with
  | some (.env h pay ent o) =>
    let t := dropFlight s i
    if !inOrder s i h then .next s
    else if envMember s h && isGuestDie s (dieOf (envCore s h)) then .next (guestArrives t h pay ent o)
    else match envRefused s h with
      | some e => .next (refuseEnv t h ent o e)
      | none => .next (acceptEnv t h pay ent o)
  | _ => .next s

/-- The outbox entry of core `c` frees. -/
def freeOutbox (s : State) (c : CoreId) (ent : Fin 16) : State :=
  modPort s c fun p => { p with outbox := tput none p.outbox ent.val none }

/-- ACKNOWLEDGEMENT_ARRIVAL (R170): `src_add` adds to `src_rcpt`, and the outbox entry frees; an envelope handed to a
guest is accepted by it (R248). -/
def execAcknowledgementArrival (i : Nat) (s : State) : Res :=
  match s.flights[i]? with
  | some (.ack c ent) =>
    let t := dropFlight s i
    match tget none (portOf s c).outbox ent.val with
    | some o =>
      let h := hdrAt s c o.addr.toNat
      .next (freeOutbox (if ehSrcAdd h then addReceipt t (ehSrcRcpt h) 1 (srcUnit s 0xA0 (dieOf c / 8) 0) else t) c ent)
    | none => .next t
  | some (.guest h ent o _) => .next (answerEnv (dropFlight s i) h ent o eOk)
  | _ => .next s

/-- An envelope has used up its tries (R171): the entry frees, the alarm carries the header and the last code, and
`step_bad` is set (R201). -/
def undeliverable (s : State) (c : CoreId) (ent : Fin 16) (h : BitVec 512) : State :=
  markBad (post (freeOutbox s c ent) (srcCore s c) (coreClock s c) evEnvUndeliverable (some (coreCtx s c))
    (ehNack h) [(256, (fld h 0 256).toNat), (8, (ehNack h).toNat)])

/-- The postmark of the retry after `tries` returns (R171). -/
def retryPm (s : State) (c : CoreId) (tries : Nat) : Pm :=
  pmAddTicks (coreClock s c) (tries * (ebRetry (portOf s c).blk.hdr).toNat)

/-- The code with which a guest returns an envelope: one of checks 3 to 5 of R169, which one the spec leaves to the guest
(LOG 11). -/
def guestCode (w : BitVec 64) : Err := if w.toNat % 3 = 0 then eRange else if w.toNat % 3 = 1 then eMode else eCapacity

/-- DEAD_LETTER_ARRIVAL (R171, R175): `tries` is incremented; the envelope waits for its retry, or is undeliverable. A
guest returns an envelope that it was handed (R248). -/
def execDeadLetterArrival (i : Nat) (s : State) : Res :=
  match s.flights[i]? with
  | some (.dead c ent h) =>
    let t := dropFlight s i
    match tget none (portOf s c).outbox ent.val with
    | some o =>
      let n := o.tries + 1
      let s1 := modPort t c fun p => { p with dlReceived := satInc p.dlReceived }
      if n < (ebMaxTries (portOf s c).blk.hdr).toNat then
        .next (modPort s1 c fun p => { p with
          outbox := tput none p.outbox ent.val (some { o with tries := n, retry := some (retryPm s c n) }) })
      else .next (undeliverable s1 c ent h)
    | none => .next t
  | some (.guest h ent o _) =>
    .next (answerEnv { dropFlight s i with free := s.free + 1 } h ent o (guestCode (Config.freeWord s.free)))
  | _ => .next s

/-- ENVELOPE_RETRY (R171): at its retry time the envelope leaves again, from its scratchpad bytes. -/
def execEnvelopeRetry (c : CoreId) (e : Fin 16) (s : State) : Res :=
  if coreExists c then
    match tget none (portOf s c).outbox e.val with
    | some o =>
      match o.retry with
      | some t =>
        whenever (pmReached (coreClock s c) t) s
          (launch (modPort s c fun p => { p with outbox := tput none p.outbox e.val (some { o with retry := none }),
                                                 envRetries := satInc p.envRetries }) c e { o with retry := none })
      | none => .next s
    | none => .next s
  else .fault (.noSuchCore c)

/-- DISPATCH (R172): at a dispatch point the oldest accepted envelope goes to its handler. -/
def execDispatch (c : CoreId) (s : State) : Res :=
  if coreExists c then
    match (portOf s c).pillar with
    | v :: rest => whenever (atDispatchPoint s c) s (dispatchEnv s c v rest)
    | [] => .next s
  else .fault (.noSuchCore c)

/-- GUEST_ANSWER_TIMEOUT (R248): 1 us passes without the guest's answer; the hub returns a dead letter with E_TIMEOUT. -/
def execGuestAnswerTimeout (i : Nat) (s : State) : Res :=
  match s.flights[i]? with
  | some (.guest h ent o t) => whenever (decide (t + 1000 ≤ s.ns)) s (answerEnv (dropFlight s i) h ent o eTimeout)
  | _ => .next s

/-! ### A guest's requests (R248, R249) -/

/-- A refused request: an RSP unit with the code, `guest_err` and hdi.guest_err, and nothing else (R249). -/
def guestRefused (s : State) (die : BitVec 5) (err : Err) : State :=
  let n := siteOfDie s die.toNat
  let h := die.toNat / 8
  let s1 := modSite s n fun x => { x with guestErr := x.guestErr + 1 }
  send (post s1 (srcUnit s 0xA0 h 0) (clock s (domHub h)) evHdiGuestErr none err [(8, n), (8, err.toNat)])
    (.guest die err [])

/-- The context that the host binds to the guest (R248): the owner of an umbel that holds its first endpoint, or the image
context. -/
def guestCtx (s : State) (die : BitVec 5) : BitVec 6 :=
  match (umbels s).find? fun e => umUsed e.2 && umHas e.2 (die.toNat * 4096) with
  | some e => ownerOf s (BitVec.ofNat 16 e.1)
  | none => imgOwner s

/-- Logical core die:0:ep, endpoint `ep` of a guest die (R248). -/
def endpoint (die : BitVec 5) (ep : BitVec 4) : CoreId := BitVec.ofNat 17 (die.toNat * 4096 + ep.toNat)

/-- The failing check of an envelope of a guest's endpoint `c`: the checks of R164 that a header sent over HDI can fail, and R248's. -/
def guestEnvFault (s : State) (c : CoreId) (h : BitVec 512) (pay : List Byte) : Option Err :=
  if (ehLen h).toNat % 16 ≠ 0 then some eAlign
  else if 256 < (ehLen h).toNat ∨ pay.length < (ehLen h).toNat then some eRange
  else if ehVersion h ≠ 1 then some eRange
  else if !ehRsv h || ehKind h != 0 || ehTries h != 0 || ehSrcPkg h != 0 || ehSrcCore h != 0 || ehNack h != 0 || ehPostmark h != 0 then
    some eReserved
  else if isEndpoint s c = false then some eRange
  else if !mayAdd s c (ehSrcRcpt h) then some eKey
  else none

/-- The failing check of a guest endpoint's receipt add (R179 to R181, R248). -/
def guestAddFault (s : State) (c : CoreId) (remote : Bool) (rc : BitVec 14) (inc : BitVec 64) : Option Err :=
  if inc = 0 ∨ 2 ^ 31 ≤ inc.toNat ∨ isEndpoint s c = false then some eRange
  else if !remote && !mayAdd s c rc then some eKey
  else none

/-- The failing check of a guest's memory access (R226, R249). -/
def guestMemFault (s : State) (die : BitVec 5) (a n : Nat) (rd wr : Bool) : Option Err :=
  if a % 16 ≠ 0 ∨ n % 16 ≠ 0 then some eAlign else accessFault s (ctxKey s (guestCtx s die)) a n rd wr

/-- GUEST_REQUEST (R248, R249): a guest's request is checked and executed, or answered with its code. A capability the
block does not declare is refused with E_MODE (LOG 31). -/
def execGuestRequest (die : BitVec 5) (r : GuestReq) (s : State) : Res :=
  let b := guestBlock s die.toNat
  let ctx := guestCtx s die
  let ok := fun (cap : Bool) (fault : Option Err) (t : State) =>
    if !cap then Host.Outcome.next (guestRefused s die eMode)
    else match fault with
      | some e => .next (guestRefused s die e)
      | none => .next t
  if !isGuestDie s die.toNat then .next s
  else match r with
  | .envelope ep h p =>
    let c := endpoint die ep
    let g := putFld (putFld (putFld h 418 s.place.addr) 401 c) 256 (clock s (domHub (die.toNat / 8)))
    ok (cbEnv b) (guestEnvFault s c h p)
      (if ehDstPkg h = s.place.addr then { s with flights := s.flights ++ [.env g (p.take (ehLen h).toNat) 0 none] }
       else sendReq s (die.toNat / 8) (ehDstPkg h) 2 (Config.unitFlow 1) (leBytes 64 g ++ p.take (ehLen h).toNat)
         (.envelope c 0))
  | .rcptAdd ep remote pkg rc inc =>
    let c := endpoint die ep
    let away := remote && pkg != s.place.addr
    ok (cbRcpt b) (guestAddFault s c away rc inc)
      (if away then sendReq s (die.toNat / 8) pkg 3 (Config.unitFlow 1) (leBytes 2 (rc.setWidth 16) ++ leBytes 4 (fld inc 0 32 : BitVec 32))
          (.rcptAdd c rc)
       else send (addReceipt s rc (fld inc 0 32) (srcCore s c)) (.guest die eOk []))
  | .read a n =>
    ok (cbMem b) (guestMemFault s die a.toNat n true false) (send s (.guest die eOk (pkgRead s a.toNat n)))
  | .write a d =>
    ok (cbMem b) (guestMemFault s die a.toNat d.length false true) (send (pkgWrite s a.toNat d) (.guest die eOk []))
  | .mso a mop t sat d =>
    let w : W56 := mop ++ t ++ BitVec.ofBool sat ++ (0 : BitVec 51)
    ok (cbMem b)
      (if mop = 0 ∨ xferFormatBad true w = true then some eFormat
       else if 0x010000000000 < a.toNat + d.length then some eMode
       else guestMemFault s die a.toNat d.length true true)
      (send (modHub s ((hubOfAddr s a.toNat).getD 0) fun x => { x with
        msos := x.msos ++ (List.range (d.length / 16)).map fun i =>
          { addr := a + BitVec.ofNat 48 (16 * i), mop := mop, mtype := t, sat := sat, ftz := cfgFtz (ctxOf s ctx.toNat).cfg,
            ctx := ctx, data := (d.drop (16 * i)).take 16, core := BitVec.ofNat 17 (die.toNat * 4096)
            flow := coreFlow s (BitVec.ofNat 17 (die.toNat * 4096)) } })
        (.guest die eOk []))

end Sys2Proof.Machine
end

