-- ==== Sys2Proof/Machine/E2eExec.lean ====
section
/-! DEFINITION. The receiving side of the end-to-end layer (R257, R270 to R273, R476): stream windows, what each request
does, and what its response completes. -/

namespace Sys2Proof.Machine

/-! ### Windows (R271, R272) -/

/-- Sequence `a` is before `b` in serial order (R26). -/
def seqLt (a b : BitVec 16) : Bool := (b - a) != 0 && (b - a).toNat < 2 ^ 15

/-- The window of the stream from (package, hub). -/
def findWin (e : E2e) (pkg : BitVec 15) (shub : BitVec 2) : Option Window :=
  e.wins.find? fun w => w.srcPkg == pkg && w.srcHub == shub

/-- Replace a window, or add it. -/
def putWin (e : E2e) (w : Window) : E2e :=
  if (findWin e w.srcPkg w.srcHub).isSome then
    { e with wins := e.wins.map fun x => if x.srcPkg == w.srcPkg && x.srcHub == w.srcHub then w else x }
  else { e with wins := e.wins ++ [w] }

/-- `e2e_ack` moves L on: the responses it covers leave the store, and held requests now before L are discarded (R271, R272). -/
def advanceWin (w : Window) (ack : BitVec 16) : Window :=
  if seqLt w.low (ack + 1) then
    { w with
      low := ack + 1, done := w.done.filter fun d => !seqLt d.1 (ack + 1)
      held := w.held.filter fun x => !seqLt (pkSeq x.1.hdr) (ack + 1) }
  else w

/-- Sequence `q` lies in the window, from L to L + 4,095, or before it (R271). -/
def inReach (w : Window) (q : BitVec 16) : Bool := seqLt q w.low || decide ((q - w.low).toNat < 4096)

/-- The sequence to execute next: the lowest of the window not yet executed. -/
def nextSeq (w : Window) : BitVec 16 := w.low + BitVec.ofNat 16 w.done.length

/-- Bytes of the retained responses of a hub (R272). -/
def storeUsed (e : E2e) : Nat :=
  (e.wins.map fun w => (w.done.map fun d => match d.2 with | some r => unitsFor r.2.length * 64 | none => 64).sum).sum

/-- The response store of 1 MiB is full (R272). -/
def storeFull (e : E2e) : Bool := decide (2 ^ 20 ≤ storeUsed e)

/-! ### What a request does -/

/-- Where a packet's response goes. -/
def originOf (h : Fin 4) (p : Packet) : Origin :=
  { hub := h, pkg := pkSrcPkg p.hdr, shub := pkSrcHub p.hdr, seq := pkSeq p.hdr, flow := pkFlow p.hdr }

/-- The little-endian number in bytes `i` to `i + n - 1` of a packet's data. -/
def dataNat (p : Packet) (i n : Nat) : Nat := leNat ((p.data.drop i).take n)

/-- The package executes requests: it is in state Ready (R7). -/
def executes (s : State) : Bool := s.dev = .ready

/-- Remote POSTs and adds are refused: a rollback has acted and the package has not resumed (R476). -/
def refusesAdds (s : State) : Bool := s.sched = .stopped || s.run.rolling.isSome

/-- A remote POST, by package and consignment, finds its slot taken: its queue counts one wait, once for the POST (R151). -/
def remoteWaits (s : State) (q : Nat) (who : BitVec 15 × BitVec 20) : State :=
  if (queueOf s q).away.contains who then s
  else modQueue s q fun x => { x with away := x.away ++ [who], fullWaits := satInc x.fullWaits }

/-- The slot accepts the remote POST. -/
def remoteStarts (s : State) (q : Nat) (who : BitVec 15 × BitVec 20) : State :=
  if (queueOf s q).away.contains who then modQueue s q fun x => { x with away := x.away.filter fun y => y != who } else s

/-- Where the bytes of a WRITE go in this package (R143, R146). -/
def writeSpan (s : State) (p : Packet) : List (Nat × Nat) :=
  let pl : BitVec 256 := BitVec.ofNat 256 (dataNat p 0 32)
  match queueDesc s (plQueue pl).toNat with
  | some d => [(slotAddr d (slotIdx d (plMb pl).toNat) + dataNat p 48 8 % 2 ^ 63, dataNat p 38 2)]
  | none => []

/-- A WRITE (R146, R147, R476): its bytes go into the slot of the destination's queue; with the last byte the slot moves
and the receipt counts. A write of plan kind 0 carries a generation to this buddy's region (LOG 30). E_BUSY where the
slot does not accept the micro-batch yet (LOG 23). -/
def runWrite (s : State) (p : Packet) : State × Err :=
  let pl : BitVec 256 := BitVec.ofNat 256 (dataNat p 0 32)
  let n := dataNat p 32 4
  let u := dataNat p 36 2
  let len := dataNat p 38 2
  let off := dataNat p 48 8
  let key := ctxKey s (imgOwner s)
  if plKind pl = 0 then (s, (accessFault s key (plDst pl).toNat 64 false true).getD eOk)
  else if refusesAdds s then (s, eState)
  else match queueDesc s (plQueue pl).toNat with
    | none => (s, eRange)
    | some d =>
      let q := (plQueue pl).toNat
      let i := slotIdx d (plMb pl).toNat
      let who := (pkSrcPkg p.hdr, BitVec.ofNat 20 n)
      let a := slotAddr d i + off % 2 ^ 63
      if (qdProducer d).toNat ≠ u then (s, eRange)
      else if !postAccepts (slotOf s q i) (plMb pl) then (remoteWaits s q who, eBusy)
      else if !permitted s key a len false true then (s, eKey)
      else if touchesRetired s a len || touchesPoison s a len true then (s, eRetired)
      else
        let s1 := pkgWrite (recount (claimSlot (remoteStarts s q who) q d (plMb pl))) a ((p.data.drop 56).take len)
        if off < 2 ^ 63 then (s1, eOk)
        else
          let s2 := postPart s1 q d (plMb pl) (BitVec.ofNat 20 n)
          (addReceipt s2 (plRcpt pl) 1 ((pkSrcPkg p.hdr).setWidth 32 <<< 17 ||| BitVec.ofNat 32 (n / 262144 * 4096 + 0xA10)), eOk)

/-- A RCPT_ADD (R180, R181, R476): only an open receipt takes an add from another package. -/
def runRcptAdd (s : State) (h : Fin 4) (p : Packet) : State × Err :=
  let r : BitVec 14 := BitVec.ofNat 14 (dataNat p 0 2)
  if refusesAdds s then (s, eState)
  else if !rcptOpen s r then
    (post s (srcUnit s 0xA9 (r.toNat / 4096) 0) (clock s (domHub h.val)) evRcptRefused (some (imgOwner s)) eKey
      [(16, (pkSrcPkg p.hdr).toNat)], eKey)
  else (addReceipt s r (BitVec.ofNat 32 (dataNat p 2 4))
    ((pkSrcPkg p.hdr).setWidth 32 <<< 17 ||| BitVec.ofNat 32 (r.toNat / 4096 * 4096 + 0xA90)), eOk)

/-- The side of an abort at its station: which way it passes on (R300). -/
def abortSides (s : State) (h : Fin 4) (p : Packet) (ph : BitVec 384) : Bool × Bool :=
  let e : Option (BitVec 512) := match findColl (officeOf s h.val) (phStart ph, phId ph) with
    | some c => some c.entry
    | none => isListed s h.val (phStart ph, phId ph)
  match e with
  | some e =>
    let fromNext := coNextPkg e == pkSrcPkg p.hdr && coNextHub e == pkSrcHub p.hdr
    let fromPrev := coPrevPkg e == pkSrcPkg p.hdr && coPrevHub e == pkSrcHub p.hdr
    (!fromNext || fromPrev, !fromPrev || fromNext)
  | none => (false, false)

/-- The package memory that a piece of collective `e` reaches at its station. -/
def pieceSpans (e : BitVec 512) (ph : BitVec 384) : List (Nat × Nat) :=
  let i0 := packetElem e ph
  let n := (phCount ph).toNat
  [((coSrc e).toNat + i0 * collBytes (coInFmt e), n * collBytes (coInFmt e)),
   ((coDst e).toNat + i0 * collBytes (coOutFmt e), n * collBytes (coOutFmt e))]

/-- The memory that a PIECE packet reaches at an active station. -/
def metSpans (s : State) (h : Fin 4) (p : Packet) : List (Nat × Nat) :=
  let ph : BitVec 384 := BitVec.ofNat 384 (dataNat p 0 48)
  match findColl (officeOf s h.val) (phStart ph, phId ph) with
  | some c => if c.st = .active then pieceSpans c.entry ph else []
  | none => []

/-- A PIECE packet (R298, R300, R302): what the adder lanes and the codes met (R213), then a piece or an abort. -/
def runPiece (s : State) (h : Fin 4) (p : Packet) (met : PieceMet) : State × Err :=
  let ph : BitVec 384 := BitVec.ofNat 384 (dataNat p 0 48)
  if phAbort ph then
    let d := abortSides s h p ph
    (abortArrives s h.val ph d.1 d.2, eOk)
  else
    let s1 := match findColl (officeOf s h.val) (phStart ph, phId ph) with
      | some c => if c.st = .active then lanesGone (laneCheck (metEcc s met.ecc (metSpans s h p)) h.val met.lane) h.val else s
      | none => s
    pieceArrives s1 h.val ph (p.data.drop 48)

/-- A COMMIT packet (R202, R203): a vote, confirm or abort, or a query, whose answer its response carries. -/
def runCommit (s : State) (p : Packet) : State × List Byte :=
  let what := dataNat p 0 1
  let n : BitVec 32 := BitVec.ofNat 32 (dataNat p 1 4)
  if what = 4 then (s, [outcomeByte (outcomeOf s n)]) else (commitArrives s (pkSrcPkg p.hdr) what n, [])

/-- What executing request `p` at hub `h` does, and its response; no response yet for an envelope, which is judged as it
reaches its core. -/
def runReq (s : State) (h : Fin 4) (p : Packet) (met : PieceMet) : State × Option (Err × List Byte) :=
  match (pkPtype p.hdr).toNat with
    | 1 => let r := runWrite s p; (r.1, some (r.2, []))
    | 2 =>
      let hd : BitVec 512 := BitVec.ofNat 512 (dataNat p 0 64)
      ({ s with flights := s.flights ++ [.env hd ((p.data.drop 64).take (ehLen hd).toNat) 0 (some (originOf h p))] }, none)
    | 3 => let r := runRcptAdd s h p; (r.1, some (r.2, []))
    | 4 => let r := runCommit s p; (r.1, some (eOk, r.2))
    | _ => let r := runPiece s h p met; (r.1, some (r.2, []))

/-! ### Executing in sequence -/

/-- Execute request `p` of window `w`'s stream: E_BUSY leaves it unexecuted, but for what counts it, and is not retained; every other
response is. -/
def runOne (s : State) (h : Fin 4) (p : Packet) (met : PieceMet) : State × Bool :=
  let o := originOf h p
  let r := runReq s h p met
  match r.2 with
  | some (e, d) =>
    if e = eBusy then (sendRsp r.1 h.val o.pkg o.shub o.seq o.flow eBusy [], false)
    else
      let s1 := modE2e r.1 h.val fun e => match findWin e o.pkg o.shub with
        | some w => putWin e { w with done := w.done ++ [(o.seq, none)] }
        | none => e
      (answerReq s1 o e d, true)
  | none =>
    (modE2e r.1 h.val fun e => match findWin e o.pkg o.shub with
      | some w => putWin e { w with done := w.done ++ [(o.seq, none)] }
      | none => e, true)

/-- Execute the held requests of a stream that follow on, in sequence order; an E_BUSY one leaves the window for its
resending. -/
def runHeld (s : State) (h : Fin 4) (pkg : BitVec 15) (shub : BitVec 2) : Nat → State
  | 0 => s
  | fuel + 1 =>
    match findWin (e2eOf s h.val) pkg shub with
    | none => s
    | some w =>
      match w.held.find? fun x => pkSeq x.1.hdr == nextSeq w with
      | none => s
      | some x =>
        if storeFull (e2eOf s h.val) then s
        else
          let s1 := modE2e s h.val fun e => putWin e { w with held := w.held.filter fun y => y != x }
          let r := runOne s1 h x.1 x.2
          if r.2 then runHeld r.1 h pkg shub fuel else r.1

/-- The stream's window, opened by its first request where one of the hub's 8,192 is free (R271). -/
def openWin (s : State) (h : Fin 4) (p : Packet) : Option Window :=
  let e := e2eOf s h.val
  match findWin e (pkSrcPkg p.hdr) (pkSrcHub p.hdr) with
  | some w => some w
  | none =>
    if e.wins.length < 8192 then
      some { srcPkg := pkSrcPkg p.hdr, srcHub := pkSrcHub p.hdr, low := pkAck p.hdr + 1, done := [], held := [], lastNs := s.ns }
    else none

/-- Room in the response store lets held requests of every stream execute (R272). -/
def runAll (s : State) (h : Fin 4) : State :=
  (e2eOf s h.val).wins.foldl (fun s w => runHeld s h w.srcPkg w.srcHub (w.held.length + 1)) s

/-- A request arrives at hub `h` (R271): discarded, answered again, executed, or held. One past the window's end, which no requester
sends (R270), is discarded. A package that is not Ready answers E_STATE, whatever the sequence (R279). -/
def arrive (s : State) (h : Fin 4) (p : Packet) (met : PieceMet) : State :=
  let o := originOf h p
  if !executes s then sendRsp s h.val o.pkg o.shub o.seq o.flow eState []
  else match openWin s h p with
  | none => sendRsp s h.val o.pkg o.shub o.seq o.flow eBusy []
  | some w0 =>
    let w := { advanceWin w0 (pkAck p.hdr) with lastNs := s.ns }
    let s1 := modE2e s h.val fun e => putWin e w
    let dup := fun (s : State) => modE2e s h.val fun e => { e with dupReq := satInc e.dupReq }
    if seqLt o.seq w.low then runAll (dup s1) h
    else if !inReach w o.seq then runAll s1 h
    else match w.done.find? fun d => d.1 == o.seq with
      | some (_, some (e, d)) => sendRsp (runAll (dup s1) h) h.val o.pkg o.shub o.seq o.flow e d
      | some (_, none) => runAll (dup s1) h
      | none =>
        if w.held.any (fun x => pkSeq x.1.hdr == o.seq) then runAll (dup s1) h
        else runAll (modE2e s1 h.val fun e => putWin e { w with held := w.held ++ [(p, met)] }) h

/-- A peer's `e2e_ack` of its stream to hub `h` arrives (R271, R272): responses leave the store, and what waited for room executes. -/
def ackArrives (s : State) (h : Fin 4) (p : Packet) : State :=
  match findWin (e2eOf s h.val) (pkSrcPkg p.hdr) (pkSrcHub p.hdr) with
  | some w => runAll (modE2e s h.val fun e => putWin e { advanceWin w (pkAck p.hdr) with lastNs := s.ns }) h
  | none => s

/-! ### Completing requests (R273) -/

/-- The lowest sequence of a stream still without its response, less one; with none, all that were sent. -/
def ackOf (e : E2e) (o : OutStream) : BitVec 16 :=
  match e.reqs.find? fun r => r.dstPkg == o.dstPkg && r.dstHub == o.dstHub with
  | some r => r.seq - 1
  | none => o.next - 1

/-- The request leaves the retained requests, and its stream's acknowledgement moves on; requests that waited for room go. -/
def dropReq (s : State) (h : Nat) (r : Req) : State :=
  sendWaiting (modE2e s h fun e =>
    let e1 := { e with reqs := e.reqs.filter fun x => x != r }
    let o := outStream e1 r.dstPkg r.dstHub
    if ackOf e1 o = o.ack then e1 else putStream e1 { o with ack := ackOf e1 o, ackNs := s.ns }) h

/-- rcpt.lost (R180, R201). -/
def rcptLost (s : State) (c : CoreId) (r : BitVec 14) (err : Err) : State :=
  markBad (post s (srcCore s c) (coreClock s c) evRcptLost (some (coreCtx s c)) err [(32, r.toNat), (8, err.toNat)])

/-- A remote POST is Returned with `err` at byte `i`: its other requests leave too (R147). -/
def returnRemote (s : State) (h : Nat) (n : BitVec 20) (err : Err) (i : Nat) : State :=
  if (consOf s n.toNat).st = .inTransit then
    returnCons (sendWaiting (modE2e s h fun e => { e with reqs := e.reqs.filter fun r => r.for_ != .write n }) h) n.toNat err i
  else s

/-- A piece could not be delivered: its collective fails at this station with the code (R300). A lost abort is dropped
(R301). -/
def pieceLost (s : State) (h : Nat) (r : Req) (err : Err) : State :=
  let ph : BitVec 384 := leWord 384 (r.data.take 48)
  if phAbort ph then s
  else match findColl (officeOf s h) (phStart ph, phId ph) with
    | some c => if c.st = .active then failColl s h c err true true else s
    | none => s

/-- Request `r` of hub `h` completes with a code and the response's data (R273). -/
def completeReq (s : State) (h : Nat) (r : Req) (err : Err) (data : List Byte) : State :=
  let t := dropReq s h r
  match r.for_ with
  | .write n => if err = eOk then t else returnRemote t h n err (leNat ((r.data.drop 40).take 8))
  | .envelope _ ent => answerEnv t (leWord 512 (r.data.take 64)) ent none err
  | .rcptAdd c rc =>
    if isGuestDie t (dieOf c) then
      (if err = eOk then send t (.guest (BitVec.ofNat 5 (dieOf c)) eOk []) else guestRefused t (BitVec.ofNat 5 (dieOf c)) err)
    else if err = eLinkDown ∨ err = eState then rcptLost t c rc err else t
  | .commit what n =>
    if what = 4 ∧ err = eOk then answerArrives t r.dstPkg n (outcomeFrom (data.headD 3)) else t
  | .piece _ => if err = eOk then t else pieceLost t h r err
  | .ckpt => if err = eOk || !t.ckpt.writing then t else ckptFault t err
  | .none => t

/-- The requests, the latest first, that an ACK of `r` covers beside it (R257): the run of consecutive WRITEs of its consignment
just before it. -/
def runBefore (r : Req) : List Req → BitVec 16 → List Req
  | [], _ => []
  | x :: t, q => if x.for_ = r.for_ ∧ x.seq = q then x :: runBefore r t (q - 1) else []

/-- The requests that a response with status `err` to `r` completes: an ACK of a WRITE may cover a run (R257, LOG 23). -/
def covered (e : E2e) (r : Req) (err : Err) : List Req :=
  match r.for_ with
  | .write _ =>
    if err = eOk then
      (runBefore r ((e.reqs.filter (ofStream r.dstPkg r.dstHub)).takeWhile (fun x => x != r)).reverse (r.seq - 1)).reverse
    else []
  | _ => []

/-- A response arrives at hub `h` (R273): it completes its request, or is a duplicate; E_BUSY is resent after 1 us
(R271). Its `e2e_ack` is of the responder's own stream to this hub (R256). -/
def rspArrives (s0 : State) (h : Fin 4) (p : Packet) : State :=
  let s := if ackless (pkStatus p.hdr) then s0 else ackArrives s0 h p
  match (e2eOf s h.val).reqs.find? fun r => ofStream (pkSrcPkg p.hdr) (pkSrcHub p.hdr) r && r.seq == pkSeq p.hdr with
  | none => modE2e s h.val fun e => { e with dupRsp := satInc e.dupRsp }
  | some r =>
    if pkStatus p.hdr = eBusy then
      modE2e s h.val fun e => { e with reqs := e.reqs.map fun x => if x == r then { x with busy := true, sentNs := s.ns } else x }
    else
      completeReq ((covered (e2eOf s h.val) r (pkStatus p.hdr)).foldl (fun s x => completeReq s h.val x eOk []) s) h.val r
        (pkStatus p.hdr) p.data

end Sys2Proof.Machine
end

