-- ==== Sys2Proof/Machine/E2e.lean ====
section
/-! DEFINITION. The packets of the end-to-end layer (R257, R267 to R273), one command per kind. Each takes its packet from the pool of
the link that received it, where one holds it (R259, LOG 32). -/

namespace Sys2Proof.Machine

/-- The packet is of type `t`, for hub `h` of this package, with no reserved bit set (R256, R257). -/
def isFor (s : State) (h : Fin 4) (t : BitVec 4) (p : Packet) : Bool :=
  pkPtype p.hdr == t && pkDstPkg p.hdr == s.place.addr && (pkDstHub p.hdr).toNat == h.val && pkRsv p.hdr

/-- The kind byte of a COMMIT packet (LOG 23). -/
def commitKind (p : Packet) : Nat := dataNat p 0 1

/-- The `abort` bit of a PIECE packet (R292). -/
def isAbort (p : Packet) : Bool := phAbort (BitVec.ofNat 384 (dataNat p 0 48))

/-- WRITE_PACKET (R271, R146, R476); it waits while the hub of its bytes flushes (R229). -/
def execWritePacket (h : Fin 4) (p : Packet) (s : State) : Res := whenever (isFor s h 1 p && !anyWaits s (writeSpan s p) && !notFirst s p) s (arrive (leavePool s p) h p pieceClean)

/-- ENVELOPE_PACKET (R271, R169). -/
def execEnvelopePacket (h : Fin 4) (p : Packet) (s : State) : Res := whenever (isFor s h 2 p && !notFirst s p) s (arrive (leavePool s p) h p pieceClean)

/-- RCPT_ADD_PACKET (R271, R181, R476). -/
def execRcptAddPacket (h : Fin 4) (p : Packet) (s : State) : Res := whenever (isFor s h 3 p && !notFirst s p) s (arrive (leavePool s p) h p pieceClean)

/-- E2E_ACK (R272): responses it covers leave the store, and what waited for room executes. -/
def execE2eAck (h : Fin 4) (p : Packet) (s : State) : Res :=
  whenever (isFor s h 6 p && !notFirst s p) s (ackArrives (leavePool s p) h p)

/-- The packet answers a commit.query of hub `h`. -/
def isQueryAnswer (s : State) (h : Fin 4) (p : Packet) : Bool :=
  pkStatus p.hdr == eOk && (e2eOf s h.val).reqs.any fun r => r.dstPkg == pkSrcPkg p.hdr && r.dstHub == pkSrcHub p.hdr && r.seq == pkSeq p.hdr &&
    (match r.for_ with | .commit 4 _ => true | _ => false)

/-- RSP (R273, R147, R180, R203, R330). -/
def execRsp (h : Fin 4) (p : Packet) (s : State) : Res :=
  whenever (isFor s h 8 p && !isQueryAnswer s h p && !notFirst s p) s (rspArrives (leavePool s p) h p)

/-- Packet `p` may leave link `l`, on which it came in class `cls`: it stands first in its pool there, or no pool holds it and the
link is up (LOG 32). -/
def mayTransit (s : State) (l : Nat) (cls : Bool) (p : Packet) : Bool :=
  match poolWith s p with
  | some x => x == (l, cls) && !notFirst s p
  | none => linkUp s l

/-- PACKET_TRANSIT (R258, R267, R269, R279): a packet for another package that came on link `l` in class `cls` leaves by its
next link, on the twin it came on; at 255 hops it is discarded. -/
def execPacketTransit (l : Fin 12) (cls : Bool) (p : Packet) (s : State) : Res :=
  whenever (pkDstPkg p.hdr != s.place.addr && pkRsv p.hdr && knownType p && mayTransit s l.val cls p) s
    (let s1 := leavePool s p
     let n := (pkHops p.hdr).toNat + 1
     if lowPower s then dormantAnswer s1 p
     else if 255 ≤ n then
       post s1 (linkSrc s l.val) (linkPm s l.val) evLinkMisroute none eOk
         [(8, l.val), (16, (pkSrcPkg p.hdr).toNat), (16, (pkDstPkg p.hdr).toNat)]
     else (routePacket s1 (putFld p.hdr 31 (BitVec.ofNat 8 n)) p.data (some (l.val, cls))).getD (noWay s1 p))

/-- BUSY_RESEND_TIMER (R271): a request that E_BUSY answered is resent 1 us later. -/
def execBusyResendTimer (h : Fin 4) (i : Nat) (s : State) : Res :=
  match (e2eOf s h.val).reqs[i]? with
  | some r => whenever (r.busy && !r.unsent && decide (r.sentNs + 1000 ≤ s.ns)) s (launchReq s h.val r none)
  | none => .next s

/-- REQUEST_TIMEOUT (R273): 2 ms pass without a response, and the request completes with E_LINK_DOWN. -/
def execRequestTimeout (h : Fin 4) (i : Nat) (s : State) : Res :=
  match (e2eOf s h.val).reqs[i]? with
  | some r => whenever (!r.unsent && decide (r.sentNs + 2000000 ≤ s.ns)) s (completeReq s h.val r eLinkDown [])
  | none => .next s

/-- E2E_ACK_TIMER (R272): 2 us with no request to carry it, stream `i` of the hub sends its `e2e_ack` in a packet of its
own. -/
def execE2eAckTimer (h : Fin 4) (i : Nat) (s : State) : Res :=
  match (e2eOf s h.val).outs[i]? with
  | some o =>
    if o.ack ≠ o.told ∧ o.ackNs + 2000 ≤ s.ns then
      let hdr := mkPk 6 o.dstPkg s.place.addr o.dstHub (BitVec.ofNat 2 h.val) 0 o.ack 1 (Config.unitFlow 0) eOk
      .next (modE2e ((routePacket s hdr (padUnits []) none).getD s) h.val fun e => putStream e { o with told := o.ack })
    else .next s
  | none => .next s

/-- STREAM_WINDOW_IDLE (R271): a stream idle for 1 ms with nothing outstanding frees its window. -/
def execStreamWindowIdle (h : Fin 4) (i : Nat) (s : State) : Res :=
  match (e2eOf s h.val).wins[i]? with
  | some w => whenever (decide (w.lastNs + 1000000 ≤ s.ns) && w.done.isEmpty && w.held.isEmpty) s
      (modE2e s h.val fun e => { e with wins := e.wins.eraseIdx i })
  | none => .next s

/-! ### Collective packets (R298, R300 to R302) -/

/-- PIECE (R298, R302): a collective's piece arrives; `met` is what the adder lanes and the codes met in it. -/
def execPiece (h : Fin 4) (p : Packet) (met : PieceMet) (s : State) : Res :=
  whenever (isFor s h 5 p && !isAbort p && !anyWaits s (metSpans s h p) && !notFirst s p) s (arrive (leavePool s p) h p met)

/-- COLL_ABORT (R300, R301). -/
def execCollAbort (h : Fin 4) (p : Packet) (s : State) : Res := whenever (isFor s h 5 p && isAbort p && !notFirst s p) s (arrive (leavePool s p) h p pieceClean)

/-! ### Commit packets (R202, R203) -/

/-- COMMIT_VOTE (R202). -/
def execCommitVote (h : Fin 4) (p : Packet) (s : State) : Res :=
  whenever (isFor s h 4 p && commitKind p == 1 && !notFirst s p) s (arrive (leavePool s p) h p pieceClean)

/-- COMMIT_CONFIRM (R202, R204). -/
def execCommitConfirm (h : Fin 4) (p : Packet) (s : State) : Res :=
  whenever (isFor s h 4 p && commitKind p == 2 && !notFirst s p) s (arrive (leavePool s p) h p pieceClean)

/-- COMMIT_ABORT (R202). -/
def execCommitAbort (h : Fin 4) (p : Packet) (s : State) : Res :=
  whenever (isFor s h 4 p && commitKind p == 3 && !notFirst s p) s (arrive (leavePool s p) h p pieceClean)

/-- COMMIT_QUERY (R203): the outcome of the round named is the response's data. -/
def execCommitQuery (h : Fin 4) (p : Packet) (s : State) : Res :=
  whenever (isFor s h 4 p && commitKind p == 4 && !notFirst s p) s (arrive (leavePool s p) h p pieceClean)

/-- COMMIT_QUERY_ANSWER (R203, R204): the response to a query completes it, and may settle the member in doubt. -/
def execCommitQueryAnswer (h : Fin 4) (p : Packet) (s : State) : Res :=
  whenever (isFor s h 8 p && isQueryAnswer s h p && !notFirst s p) s (rspArrives (leavePool s p) h p)

end Sys2Proof.Machine
end

