-- ==== Sys2Proof/Machine/Hdi.lean ====
section
/-! DEFINITION. The HDI ports (R237 to R244, R247): frames, credits and channels, transit buffers, replays, retraining, retirement. A port is numbered bundle * 4 + port; bundles
0 to 35 are the sites, 36 to 39 the adjacent hub pairs in the order of R405. -/

namespace Sys2Proof.Machine

/-! ### Replays as failure warnings (R320) -/

/-- The key under which a channel's replay windows stand beside its corrected errors. -/
def replayKey (ch : BitVec 32) : Nat := 2 ^ 32 + ch.toNat

/-- A replay on a link or port counts in its window of one second; 16 in a window, and twice the count of the window
before, are a failure warning, once in a window (row 2 of R320). -/
def replayNoted (s : State) (src : BitVec 32) (pm : Pm) (ch : BitVec 32) : State :=
  let w := s.ns / 1000000000
  let old := tget [] s.sh.warnHits (replayKey ch)
  let x : Nat × Nat × Nat := match old with
    | [v, n, p, told] => if v = w then (n, p, told) else if v + 1 = w then (0, n, 0) else (0, 0, 0)
    | _ => (0, 0, 0)
  let n := x.1 + 1
  let fire := x.2.2 == 0 && decide (16 ≤ n) && decide (2 * x.2.1 ≤ n)
  let s1 := modSh s fun y => { y with warnHits := tput [] y.warnHits (replayKey ch) [w, n, x.2.1, if fire then 1 else x.2.2] }
  if fire then warn s1 src pm 2 ch else s1

/-! ### Names of a port -/

/-- The source id of an HDI port (R46, R407): a site's die fabric, or the lower hub of a pair. -/
def hdiSrc (s : State) (b p : Nat) : BitVec 32 :=
  if b < 36 then srcUnit s (0xB0 + b) 0 (4 + p)
  else srcUnit s 0xAC (portsOf b).1 (4 * (portsOf b).2 + p)
where
  /-- The hubs of a hub pair, in the order of R405. -/
  portsOf (b : Nat) : Nat × Nat := match b - 36 with | 0 => (0, 1) | 1 => (2, 3) | 2 => (0, 2) | _ => (1, 3)

/-- The clock domain of a bundle: its site's die fabric, or the lower hub's fabric. -/
def hdiDom (b : Nat) : Nat :=
  if b < 36 then domFabric b else domHub (match b - 36 with | 0 => 0 | 1 => 2 | 2 => 0 | _ => 1)

/-- The site field of a port's channel (R405): sites 0 to 35, hub pairs from 40. -/
def hdiSiteField (b : Nat) : Nat := if b < 36 then b else 40 + (b - 36)

/-- The channel of a port (R405). -/
def portChannel (b p : Nat) : BitVec 32 := channel 5 (hdiSiteField b * 2 ^ 18 + p * 2 ^ 16)

/-- The channel of a wire of a port (R405). -/
def wireChannel (b p w : Nat) : BitVec 32 := channel 6 (hdiSiteField b * 2 ^ 18 + p * 2 ^ 16 + w * 2 ^ 6)

/-- The logical die on physical site `n`, if a die of the usable shape stands there. -/
def dieOnSite (s : State) (n : Nat) : Option Nat := (List.range 32).find? fun d => siteOfDie s d == n && dieUsable s d

/-- Port `p` of bundle `b` is live. -/
def portLive (s : State) (b p : Nat) : Bool := (hdiOf s (b * 4 + p)).live

/-- Some port of bundle `b` is live. -/
def bundleLive (s : State) (b : Nat) : Bool := (List.range 4).any fun p => portLive s b p

/-- A port that carries frames. -/
def portRuns (s : State) (b p : Nat) : Bool := portLive s b p && !(hdiOf s (b * 4 + p)).retraining

/-! ### Directions -/

/-- A direction of a port, and one direction changed. -/
def wayOf (h : HdiPort) (up : Bool) : HdiWay := if up then h.up else h.down
def modWay (s : State) (b p : Nat) (up : Bool) (f : HdiWay → HdiWay) : State :=
  modHdi s (b * 4 + p) fun h => if up then { h with up := f h.up } else { h with down := f h.down }

/-- The hub at the near and at the far end of a hub pair's direction; `up` leads to the lower hub. -/
def nearHub (b : Nat) (up : Bool) : Nat := if up then (hdiSrc.portsOf b).2 else (hdiSrc.portsOf b).1
def farHub (b : Nat) (up : Bool) : Nat := if up then (hdiSrc.portsOf b).1 else (hdiSrc.portsOf b).2

/-- The bundle and direction from hub `h` to the adjacent hub `d`. -/
def hopTo (h d : Nat) : Option (Nat × Bool) :=
  ([36, 37, 38, 39].flatMap fun b => [(b, false), (b, true)]).find? fun x => nearHub x.1 x.2 == h && farHub x.1 x.2 == d

/-- A unit may set out in this direction: between hubs it crosses at most one intermediate hub (R18, R244). -/
def mayCross (b : Nat) (up : Bool) (u : HdiUnit) : Bool :=
  decide (b < 36) || (u.dst.toNat != nearHub b up && (u.dst.toNat == farHub b up || (hopTo (farHub b up) u.dst.toNat).isSome))

/-- The data groups of a direction of a port (R247), of 64 wires each: those of the granted map in compatibility mode, else all 8. -/
def dataGroups (s : State) (b p : Nat) (up : Bool) : Nat :=
  let x := siteOf s b
  if b < 36 ∧ x.mode = .guestCompat then
    ((List.range 8).filter fun g => fld x.roles (32 * p + 16 * b2n (!up) + 2 * g) 2 == (1 : BitVec 2)).length
  else 8

/-- Payload units of a frame (R238, R247): 125 payload UIs on the data groups. -/
def frameUnits (s : State) (b p : Nat) (up : Bool) : Nat := 125 * dataGroups s b p up / 8

/-! ### Filling a frame (R240, R241) -/

/-- The next unit of a channel, where the port has a credit for it; a transit buffer's units go first (DESIGN CHOICE, LOG 88). -/
def takeUnit (x : HdiFlow × Chans Nat) (c : HdiChan) : Option (HdiUnit × HdiFlow × Chans Nat) :=
  let f := x.1
  let k := x.2.get c
  if k = 0 then none
  else match f.transit.get c, f.waiting.get c with
    | u :: t, _ => some (u, { f with transit := f.transit.put c t }, x.2.put c (k - 1))
    | [], u :: t => some (u, { f with waiting := f.waiting.put c t }, x.2.put c (k - 1))
    | [], [] => none

/-- Up to `n` CTL units. -/
def fillCtl : Nat → HdiFlow × Chans Nat → List HdiUnit × HdiFlow × Chans Nat
  | 0, x => ([], x)
  | n + 1, x => match takeUnit x .ctl with
    | some (u, y) => let r := fillCtl n y; (u :: r.1, r.2)
    | none => ([], x)

/-- Up to `n` units of RSP and REQ in alternation; a channel that has none to send, or no credit, gives its turn to the other. -/
def fillRest : Nat → HdiChan → HdiFlow × Chans Nat → List HdiUnit × HdiFlow × Chans Nat
  | 0, _, x => ([], x)
  | n + 1, c, x =>
    let o : HdiChan := match c with | .rsp => .req | _ => .rsp
    match takeUnit x c, takeUnit x o with
    | some (u, y), _ => let r := fillRest n o y; (u :: r.1, r.2)
    | none, some (u, y) => let r := fillRest n o y; (u :: r.1, r.2)
    | none, none => ([], x)

/-- A frame of at most `n` payload units: up to 16 of CTL first, then RSP and REQ, RSP first (R240). -/
def fillFrame (n : Nat) (x : HdiFlow × Chans Nat) : List HdiUnit × HdiFlow × Chans Nat :=
  let a := fillCtl (min 16 n) x
  let b := fillRest (n - a.1.length) .rsp a.2
  (a.1 ++ b.1, b.2)

/-- The credits that a frame's units take, if the port has them. -/
def frameCredits (k : Chans Nat) (us : List HdiUnit) : Option (Chans Nat) :=
  us.foldl (fun a u => match a with
    | some k => if k.get u.chan = 0 then none else some (k.put u.chan (k.get u.chan - 1))
    | none => none) (some k)

/-- The replay buffer of a port and direction, in frames (R242). -/
def replayRoom : Nat := 32

/-- The port's next frame (R241, R242): from its replay buffer where frames are to be sent again; else one taken over from a port that
retrains; else a new one, numbered from the bundle's next number. A frame without units is not kept, and with a full buffer the
port sends one. -/
def sendFrame (s : State) (b p : Nat) (up : Bool) : State × HdiFrame :=
  let w := wayOf (hdiOf s (b * 4 + p)) up
  let f := flowOf s b up
  let none_ : HdiFrame := ⟨f.seq, []⟩
  let kept := fun (s : State) (fr : HdiFrame) => modWay s b p up fun w => { w with replay := w.replay ++ [fr], next := w.next + 1 }
  match w.replay[w.next]? with
  | some fr => (modWay s b p up fun w => { w with next := w.next + 1 }, fr)
  | none =>
    if replayRoom ≤ w.replay.length then (s, none_)
    else match f.moved with
      | fr :: t =>
        match frameCredits w.credits fr.units with
        | some k => (kept (modWay (modFlow s b up fun f => { f with moved := t }) b p up fun w => { w with credits := k }) fr, fr)
        | none => (s, none_)
      | [] =>
        let r := fillFrame (frameUnits s b p up) (f, w.credits)
        if r.1.isEmpty then (s, none_)
        else
          let fr : HdiFrame := ⟨f.seq, r.1⟩
          let s1 := modFlow s b up fun _ => { r.2.1 with seq := f.seq + BitVec.ofNat 16 r.1.length }
          (kept (modWay s1 b p up fun w => { w with credits := r.2.2 }) fr, fr)

/-! ### Handing units on (R240, R241, R244) -/

/-- Number `a` comes before number `b`. -/
def seqBefore (a b : BitVec 16) : Bool := a != b && decide ((b - a).toNat < 2 ^ 15)

/-- A unit leaves the receiver: to its far side, or into the transit buffer of the hub's outgoing bundle, where it has room; the port it
came by owes a credit. `none`: it waits. -/
def handOn (s : State) (b : Nat) (up : Bool) (p : Nat) (u : HdiUnit) : Option State :=
  let c := u.chan
  let owe := fun (s : State) => modWay s b p up fun w => { w with owed := w.owed.put c (w.owed.get c + 1) }
  if b < 36 ∨ u.dst.toNat = farHub b up then some (owe (send s (.unit b up u)))
  else match hopTo (farHub b up) u.dst.toNat with
    | some (o, d) =>
      if (((flowOf s o d).transit).get c).length < 64 then
        some (owe (modFlow s o d fun f => { f with transit := f.transit.put c (f.transit.get c ++ [u]) }))
      else none
    | none => some (owe s)

/-- The units that have arrived in number order, and those of each channel that no earlier unit of it holds back. -/
def handAll (b : Nat) (up : Bool) (low : BitVec 16) :
    List (BitVec 16 × Nat × HdiUnit) → State × List (BitVec 16 × Nat × HdiUnit) × List HdiChan → State × List (BitVec 16 × Nat × HdiUnit) × List HdiChan
  | [], r => r
  | x :: t, (s, kept, shut) =>
    if seqBefore x.1 low && !shut.contains x.2.2.chan then
      match handOn s b up x.2.1 x.2.2 with
      | some s1 => handAll b up low t (s1, kept, shut)
      | none => handAll b up low t (s, kept ++ [x], shut ++ [x.2.2.chan])
    else handAll b up low t (s, kept ++ [x], shut)

/-- The first number from `low` on that has not arrived. -/
def lowNext (held : List (BitVec 16 × Nat × HdiUnit)) : Nat → BitVec 16 → BitVec 16
  | 0, low => low
  | n + 1, low => if held.any fun x => x.1 == low then lowNext held n (low + 1) else low

/-- Units are handed on in bundle sequence order, each channel by itself (R241). -/
def drainFlow (s : State) (b : Nat) (up : Bool) : State :=
  let f := flowOf s b up
  let low := lowNext f.held f.held.length f.low
  let r := handAll b up low f.held (s, [], [])
  modFlow r.1 b up fun f => { f with low := low, held := r.2.1 }

/-- A frame's units arrive by port `p`; a unit that has arrived before is dropped. -/
def takeUnits (s : State) (b p : Nat) (up : Bool) (fr : HdiFrame) : State :=
  let f := flowOf s b up
  let new := (fr.units.zipIdx.map fun x => (fr.seq + BitVec.ofNat 16 x.2, p, x.1)).filter fun x =>
    !seqBefore x.1 f.low && !f.held.any fun y => y.1 == x.1
  let s1 := modFlow s b up fun f => { f with held := (f.held ++ new).insertionSort fun x y => !seqBefore y.1 x.1 }
  let s2 := drainFlow s1 b up
  ([36, 37, 38, 39].flatMap fun c => [(c, false), (c, true)]).foldl (fun s x => drainFlow s x.1 x.2) s2

/-! ### Frames received (R242) -/

/-- A port leaves service for a retrain or for good: what its replay buffers hold is sent again on the bundle's other ports (R242). -/
def movePort (s : State) (b p : Nat) : State :=
  let h := hdiOf s (b * 4 + p)
  let s1 := modFlow (modFlow s b true fun f => { f with moved := f.moved ++ h.up.replay }) b false fun f => { f with moved := f.moved ++ h.down.replay }
  modHdi s1 (b * 4 + p) fun h => { h with up := HdiWay.reset, down := HdiWay.reset }

/-- A negative acknowledgement reaches the sender (R242): it sends again from the failing frame on; the fourth replay of the same frame
retrains the port. -/
def nakArrives (s : State) (b p : Nat) (up : Bool) : State :=
  let w := wayOf (hdiOf s (b * 4 + p)) up
  if 4 ≤ w.tries + 1 then
    post (modHdi (movePort s b p) (b * 4 + p) fun h => { h with retraining := true }) (hdiSrc s b p) (clock s (hdiDom b)) evHdiRetrain none eOk []
  else modWay s b p up fun w => { w with tries := w.tries + 1, next := 0, nak := false, discard := false }

/-- UI 126 of a good frame, for the frames of direction `up` (R238, R240, R242): acknowledged ones leave the replay buffer, credits
return, and a negative acknowledgement asks for a replay. -/
def takeUi126 (s : State) (b p : Nat) (up : Bool) : State :=
  let w := wayOf (hdiOf s (b * 4 + p)) up
  let top := HdiWay.reset.credits
  let s1 := modWay s b p up fun w => { w with
    replay := w.replay.drop w.acks, next := w.next - w.acks, acks := 0, owed := ⟨0, 0, 0⟩
    credits := ⟨min top.ctl (w.credits.ctl + w.owed.ctl), min top.rsp (w.credits.rsp + w.owed.rsp), min top.req (w.credits.req + w.owed.req)⟩ }
  if w.nak then nakArrives s1 b p up else s1

/-- A good frame ends a replay: a transient fault, counted and posted as hdi.replay. -/
def replayEnds (s : State) (b p : Nat) (up : Bool) : State :=
  if (wayOf (hdiOf s (b * 4 + p)) up).tries = 0 then s
  else
    let s1 := modHdi (modWay s b p up fun w => { w with tries := 0 }) (b * 4 + p) fun h => { h with
      replays := h.replays + 1, transient := h.transient + 1 }
    replayNoted (post s1 (hdiSrc s b p) (clock s (hdiDom b)) evHdiReplay none eOk []) (hdiSrc s b p) (clock s (hdiDom b)) (portChannel b p)

/-- A frame reaches the receiver of direction `up`: discarded after a failing one until that comes again; failing, so that a negative
acknowledgement is due; or good. -/
def frameArrives (s : State) (b p : Nat) (up crcOk : Bool) (fr : HdiFrame) : State :=
  if (wayOf (hdiOf s (b * 4 + p)) up).discard then s
  else if !crcOk then modWay s b p up fun w => { w with discard := true, nak := true }
  else
    let s1 := modWay (replayEnds s b p up) b p up fun w => { w with acks := w.acks + (if fr.units.isEmpty then 0 else 1) }
    takeUi126 (takeUnits s1 b p up fr) b p (!up)

/-- The port of a direction whose turn comes next: ports carry frames in ascending order (R241). -/
def nextPort (s : State) (b : Nat) (up : Bool) : Option Nat :=
  ((List.range 4).map fun i => ((flowOf s b up).turn + 1 + i) % 4).find? (portRuns s b)

/-- Units that the sending side offers wait in their channels. -/
def offer (b : Nat) (up : Bool) (s : State) (u : HdiUnit) : State :=
  if mayCross b up u then modFlow s b up fun f => { f with waiting := f.waiting.put u.chan (f.waiting.get u.chan ++ [u]) } else s

/-- HDI_FRAME_RECEIVED (R238 to R242): the frame that port `p` sends in direction `up` reaches the other end. `units` are those that the
sending side has offered to the bundle since its last frame. -/
def execHdiFrameReceived (b : Fin 40) (p : Fin 4) (up crcOk : Bool) (units : List HdiUnit) (s : State) : Res :=
  whenever (nextPort s b.val up == some p.val) s
    (let s1 := modFlow (units.foldl (offer b.val up) s) b.val up fun f => { f with turn := p.val }
     let r := sendFrame s1 b.val p.val up
     frameArrives r.1 b.val p.val up crcOk r.2)

/-! ### Retraining and retirement (R242 to R244) -/

/-- The group of a wire (R237): data wires 0 to 511 in groups of 32; wire 512 + g is the spare of group g. -/
def wireGroup (w : BitVec 10) : Nat := if w.toNat < 512 then w.toNat / 32 else w.toNat - 512

/-- The schedule is held, once the work in progress is done: what the package does on its own initiative (R244, R357). -/
def quiesceSched (s : State) : State := if s.sched = .running then { s with sched := .quiesced } else s

/-- Every port of a hub pair is gone: hdi.hub_split, and the package quiesces (R244). -/
def hubSplit (s : State) (b : Nat) : State :=
  quiesceSched (post s (hdiSrc s b 0) (clock s (hdiDom b)) evHdiHubSplit none eRetired [])

/-- A port is retired (R242 to R244): hdi.port_retired in place of fault.retired; with its last port a site is retired,
and a hub pair is split. -/
def retirePort (s : State) (b p : Nat) : State :=
  let src := hdiSrc s b p
  let pm := clock s (hdiDom b)
  let s1 := modHdi (movePort s b p) (b * 4 + p) fun h => { h with live := false, retraining := false }
  let s2 := recordRetired (post s1 src pm evHdiPortRetired none eRetired []) src pm (portChannel b p) eRetired
  if bundleLive s2 b then s2
  else if b < 36 then
    match dieOnSite s2 b with
    | some d => retireSite s2 d 0x02 eRetired
    | none => modSite s2 b fun x => { x with failed := true }
  else hubSplit s2 b

/-- Each failing wire, by direction, takes the spare of its group: a lasting fault of the wire, spared (R242, R398). -/
def spareWires (s : State) (b p : Nat) (ws : List (Bool × BitVec 10)) : State :=
  ws.foldl (fun s w =>
    let g := 16 * b2n w.1 + wireGroup w.2
    lastingFault (modHdi s (b * 4 + p) fun h => { h with spares := tput 0 h.spares g (tget 0 h.spares g + 1) })
      (hdiSrc s b p) (clock s (hdiDom b)) (wireChannel b p w.2.toNat) 0x02 eRetired true) s

/-- No group of either direction needs a second spare (R237: the directions are independent). -/
def sparesEnough (h : HdiPort) (ws : List (Bool × BitVec 10)) : Bool :=
  (List.range 32).all fun g => decide (tget 0 h.spares g + (ws.filter fun w => 16 * b2n w.1 + wireGroup w.2 == g).length ≤ 1)

/-- HDI_RETRAIN_DONE (R242): failing wires are spared, or the port is retired. -/
def execHdiRetrainDone (b : Fin 40) (p : Fin 4) (badWires : List (Bool × BitVec 10)) (clockBad : Bool) (s : State) : Res :=
  let h := hdiOf s (b.val * 4 + p.val)
  let ws := badWires.dedup
  whenever (h.live && h.retraining) s
    (if clockBad || !sparesEnough h ws then retirePort s b.val p.val
     else spareWires (modHdi s (b.val * 4 + p.val) fun h => { h with retraining := false }) b.val p.val ws)

end Sys2Proof.Machine
end

