-- ==== Sys2Proof/Machine/LinkOps.lean ====
section
/-! DEFINITION. The states of a torus link (R259 to R268, R280 to R282): replay, retraining, going Down, failover, training,
changes of width and rate. Widths and rates are coded as `link_min_lanes` and `link_min_rate` (R43). -/

namespace Sys2Proof.Machine

/-! ### Names -/

/-- The source id of courier lane `l` (R407). -/
def courierSrc (s : State) (l : Nat) : BitVec 32 := srcUnit s 0xA5 (hubOfLink l) l

/-- The channel of link `l` (R405). -/
def linkChannel (l : Nat) : BitVec 32 := channel 8 (l * 2 ^ 20)

/-- The channel of lane `i` of link `l`, in its receiving or its sending direction (R405). -/
def laneChannel (l i : Nat) (rx : Bool) : BitVec 32 := channel 7 (l * 2 ^ 20 + b2n rx * 2 ^ 19 + i * 2 ^ 16)

/-- The other twin of link `l` (R251). -/
def twinOf (l : Nat) : Nat := l / 2 * 2 + (1 - l % 2)

/-! ### Bounds (R266) -/

/-- An image runs. -/
def imageRuns (s : State) : Bool := s.sched = .running || s.sched = .quiesced

/-- The narrowest width the latitude allows; 1 lane while no image runs. -/
def minLanes (s : State) : BitVec 2 := if imageRuns s then latMinLanes (latitude s) else 3

/-- The lowest rate the latitude allows; 53.125 Gb/s while no image runs. -/
def minRate (s : State) : BitVec 2 := if imageRuns s then latMinRate (latitude s) else 2

/-- How many lanes a mask has. -/
def laneCount (m : BitVec 8) : Nat := ((List.range 8).filter fun i => m.getLsbD i).length

/-- The largest width of 8, 4, 2 or 1 that `n` lanes allow. -/
def widthFor (n : Nat) : BitVec 2 := if 8 ≤ n then 0 else if 4 ≤ n then 1 else if 2 ≤ n then 2 else 3

/-! ### Going Down (R263, R264, R268) -/

/-- A packet of a Down link goes on the twin in its dateline class, else as routing finds it from where it was on its way; one
that no way leads on for is answered (R258, R268, R269). -/
def failPacket (s : State) (l : Nat) (w : Bool × Packet) : State :=
  let t := twinOf l
  if linkServes s t then putOnLink s t w.1 w.2.hdr w.2.data
  else (routePacket s w.2.hdr w.2.data (some (peerLinkNo l, w.1))).getD (noWay s w.2)

/-- Link `l` goes Down for `cause` (R464). Unless it only trained, its unacknowledged and waiting packets go on the twin in
their order, and link.failover is posted. -/
def goDown (s : State) (l : Nat) (cause : BitVec 4) : State :=
  let k := linkOf s l
  let s1 := modLink s l fun k => { k with
    st := .down, downCause := cause, n := 0, retrained := false, nak := false, tell := false, replay := [], waiting := [], part := []
    stamps := [], rxPart := [], owed := [], wanted := none, crossed := false, waitPeer := false, gcm := false, txBuf := [] }
  if k.st = .down ∨ k.st = .training then s1
  else
    let s2 := (k.replay.flatMap (fun x => x.pkts) ++ k.waiting).foldl (fun s w => failPacket s l w) s1
    post s2 (linkSrc s l) (linkPm s l) evLinkFailover none eOk []

/-- A fault takes link `l` Down: the alarm link.down in place of fault.retired, and the repair record (R263, R264, R398). -/
def linkFails (s : State) (l : Nat) (cause : BitVec 4) : State :=
  let s1 := goDown s l cause
  let s2 := post s1 (linkSrc s l) (linkPm s l) evLinkDown none eLinkDown (if cause = 3 then [(8, 3)] else [])
  recordRetired s2 (linkSrc s l) (linkPm s l) (linkChannel l) eLinkDown

/-- Below a bound of the latitude, the link is declared Down and adapt.denied is posted (R266). -/
def linkDenied (s : State) (l : Nat) : State :=
  postDenied (linkFails s l 7) (linkSrc s l) (linkPm s l) evAdaptLinkWidth []

/-! ### Replay (R261 to R263) -/

/-- Every flit from the oldest unacknowledged one is resent byte for byte, and its 1 us begins (R262). -/
def resendAll (s : State) (l : Nat) : State :=
  (linkOf s l).replay.foldl (fun s x => putFlit s l x) (modLink s l fun k => { k with ackNs := s.ns })

/-- A replay is made: counted, noted for the failure warning of R320, resent. -/
def makeReplay (s : State) (l n : Nat) : State :=
  let s1 := modLink s l fun k => { k with st := .replaying, n := n }
  let s2 := modLinkCtr s1 l fun c => { c with replays := satInc c.replays }
  resendAll (replayNoted s2 (linkSrc s l) (linkPm s l) (linkChannel l)) l

/-- Retraining begins; its 40 us run from now (R263). -/
def startRetrain (s : State) (l : Nat) : State :=
  let s1 := modLink s l fun k => { k with st := .retraining, stNs := s.ns, wanted := none, crossed := false }
  let s2 := modLinkCtr s1 l fun c => { c with retrains := satInc c.retrains }
  post s2 (linkSrc s l) (linkPm s l) evLinkRetrain none eOk []

/-- A replay is needed (R263): after the fourth in vain a fast retrain begins, and no replay is made. -/
def replayNeeded (s : State) (l : Nat) : State :=
  let k := linkOf s l
  match k.st with
  | .up => makeReplay s l 1
  | .replaying =>
    if k.n < 4 then makeReplay s l (k.n + 1)
    else if k.n = 4 ∧ k.retrained = false then startRetrain s l
    else if k.n < 8 then makeReplay s l (k.n + 1)
    else linkFails s l 1
  | _ => s

/-- `ack_seq` covers a flit of the replay buffer, in serial order modulo 2^16. -/
def covers (ack seq : BitVec 16) : Bool := decide ((ack - seq).toNat < 2 ^ 15)

/-- The peer acknowledges flits up to `ack` (R262, R263): an acknowledged replay was a transient fault, posted as
link.replay. -/
def ackFlits (s : State) (l : Nat) (ack : BitVec 16) : State :=
  let k := linkOf s l
  let rest := k.replay.dropWhile fun x => covers ack (fhSeq x.hdr)
  if rest.length = k.replay.length then s
  else
    let s1 := modLink s l fun k => { k with
      replay := rest, ackSeq := ack, ackNs := s.ns, n := 0, retrained := false, st := if k.st = .replaying then .up else k.st }
    if k.st = .replaying then
      post (modLinkCtr s1 l fun c => { c with transient := satInc c.transient }) (linkSrc s l) (linkPm s l) evLinkReplay none
        eOk []
    else s1

/-- Stamps come back (R259): no pool ever holds more than the peer's. -/
def returnStamps (s : State) (l : Nat) (h : BitVec 512) : State :=
  let add := fun (t : Tab Nat) (x : Nat × BitVec 8) => tput 0 t x.1 (min (poolSize x.1) (tget 0 t x.1 + x.2.toNat))
  modLink s l fun k => { k with stamps := [(0, fhReq0 h), (1, fhReq1 h), (2, fhRsp0 h), (3, fhRsp1 h)].foldl add k.stamps }

/-! ### Receiving flits (R255 to R261) -/

/-- The channel bits of slot `n`, from 1: 0 empty, 1 REQ, 2 RSP, 3 reserved (R255). -/
def slotVc (h : BitVec 512) (n : Nat) : Nat := (fld (fhVcMap h) (3 * n - 3) 2).toNat

/-- The dateline class of slot `n` (R255). -/
def slotClass (h : BitVec 512) (n : Nat) : Bool := bit (fhVcMap h) (3 * n - 1)

/-- The payload slots, from 1. -/
def slotNumbers : List Nat := (List.range 7).map (· + 1)

/-- What R261 asks of a flit but its place in the sequence. An idle flit is not encrypted (R282). A flit whose header holds a value
that R255 reserves is taken as one that does not match its CRC (LOG 89). -/
def flitSound (k : Link) (f : Flit) : Bool :=
  f.fecOk && f.crcOk && (!k.gcm || fhKind f.hdr == 1 || f.gcmOk) && fhKind f.hdr != 3 && fhRsv f.hdr &&
    slotNumbers.all fun n => slotVc f.hdr n != 3

/-- The codewords and the tag are counted whether or not the flit is accepted (R264, R282). -/
def countFlit (s : State) (l : Nat) (f : Flit) : State :=
  let tagBad := (linkOf s l).gcm && fhKind f.hdr != 1 && f.fecOk && !f.gcmOk
  modLinkCtr s l fun c => { c with
    fecCorr := satAdd c.fecCorr f.fecFix
    fecUncorr := if f.fecOk then c.fecUncorr else satInc c.fecUncorr
    gcmFail := if tagBad then satInc c.gcmFail else c.gcmFail }

/-- A packet of a known type, with no reserved bit set in its header or in the header of the piece or envelope that it carries, on the
virtual channel of its type (R257, R164, R292). -/
def packetGood (p : Packet) (vc : Nat) : Bool :=
  let t := (pkPtype p.hdr).toNat
  pkRsv p.hdr && (t != 5 || phRsv (leWord 384 (p.data.take 48))) && (t != 2 || ehRsv (leWord 512 (p.data.take 64))) && ((decide (1 ≤ t ∧ t ≤ 5) && vc == 1) || ((t == 6 || t == 8) && vc == 2))

/-- A packet of `n` units in pool `q` is discarded: counted, reported, its stamps returned (R257, R259). -/
def dropPacket (s : State) (l q n : Nat) : State :=
  post (modLinkCtr (oweStamps s l q n) l fun c => { c with pktBad := satInc c.pktBad }) (linkSrc s l) (linkPm s l) evLinkPktBad none
    eFormat []

/-- A unit arrives in slot `n` of a flit of header `h` (R255 to R257): a packet begins where `sop_map` says so, and with its last
unit it stands whole in its pool, or is discarded. A packet that another cuts short is discarded too; a unit of no packet only
frees its place (LOG 89). -/
def takeSlot (s : State) (l : Nat) (h : BitVec 512) (n : Nat) (unit : List Byte) : State :=
  if slotVc h n = 0 then s
  else
    let q := (slotVc h n - 1) * 2 + b2n (slotClass h n)
    let sop := bit (fhSopMap h) (n - 1)
    let old := tget [] (linkOf s l).rxPart q
    let s1 := if sop ∧ old ≠ [] then dropPacket s l q old.length else s
    let us := if sop then [unit] else old ++ [unit]
    let keep := fun (s : State) (x : List (List Byte)) => modLink s l fun k => { k with rxPart := tput [] k.rxPart q x }
    if sop = false ∧ old = [] then oweStamps s1 l q 1
    else if us.length < pkCount (packetOf us).hdr then keep s1 us
    else if packetGood (packetOf us) (slotVc h n) then
      modLink (keep s1 []) l fun k => { k with pool := k.pool ++ [(slotClass h n, packetOf us)] }
    else dropPacket (keep s1 []) l q us.length

/-- The units of an accepted data flit, slot by slot. -/
def takeSlots (s : State) (l : Nat) (f : Flit) : State :=
  if fhKind f.hdr = 0 then slotNumbers.foldl (fun s n => takeSlot s l f.hdr n (f.slots[n - 1]?.getD [])) s else s

/-- The acknowledgements, stamps and `nak` of an accepted flit's header. -/
def flitHeader (s : State) (l : Nat) (h : BitVec 512) : State :=
  let s1 := returnStamps (ackFlits s l (fhAck h)) l h
  if fhNak h && !(linkOf s1 l).replay.isEmpty then replayNeeded s1 l else s1

/-- A flit is discarded (R261): `nak` stands in the flits that follow. -/
def refuseFlit (s : State) (l : Nat) : State := modLink s l fun k => { k with nak := true, tell := k.tell || !k.nak }

/-- A flit is accepted (R261): an idle one has its place in the sequence and does not take it. -/
def acceptFlit (s : State) (l : Nat) (f : Flit) : State :=
  let s1 := modLink s l fun k =>
    if fhKind f.hdr = 1 then { k with nak := false } else { k with rxSeq := fhSeq f.hdr, nak := false, tell := true }
  flitHeader (takeSlots (modLinkCtr s1 l fun c => { c with flitsRx := satInc c.flitsRx }) l f) l f.hdr

/-- A flit arrives (R261): accepted in sequence, else discarded; the link answers it. -/
def flitArrives (s : State) (l : Nat) (f : Flit) : State :=
  let s1 := countFlit s l f
  if flitSound (linkOf s l) f && fhSeq f.hdr == (linkOf s l).rxSeq + 1 then answerLink (acceptFlit s1 l f) l
  else answerLink (refuseFlit s1 l) l

/-! ### Coming Up -/

/-- Lanes that fail a measurement are retired as lasting faults, once; spares there are none (R263, R398). -/
def retireLanes (s : State) (l : Nat) (bad : BitVec 8) : State :=
  (List.range 8).foldl (fun s i =>
    if bad.getLsbD i && !s.sh.retired.contains (laneChannel l i true) then
      lastingFault s (linkSrc s l) (linkPm s l) (laneChannel l i true) 0x05 eRetired false
    else s) s

/-- The lanes that a training finds good, and the link, are in service again (R264, R266). -/
def backInService (s : State) (chs : List (BitVec 32)) : State :=
  modSh s fun x => { x with retired := x.retired.filter fun c => !chs.contains c }

/-- The channels of the lanes of a mask. -/
def laneChannels (l : Nat) (m : BitVec 8) : List (BitVec 32) :=
  ((List.range 8).filter fun i => m.getLsbD i).flatMap fun i => [laneChannel l i true, laneChannel l i false]

/-- adapt.link_width (R45, R263): cause, old and new width, old and new rate. -/
def postWidth (s : State) (l : Nat) (cause : Err) (ol nl or_ nr : BitVec 2) : State :=
  if ol = nl ∧ or_ = nr then s
  else post s (linkSrc s l) (linkPm s l) evAdaptLinkWidth none eOk
    [(8, cause.toNat), (8, ol.toNat), (8, nl.toNat), (8, or_.toNat), (8, nr.toNat)]

/-- The retrain measured the lanes of `k` and `ok` passed at its rate (R263, R266): the fifth replay resends from the oldest flit,
where there is one, on the width the passing lanes allow, under a new key epoch; the framing is re-locked, and the courier lane retrained (R278). -/
def retrained (s : State) (l : Nat) (ok : BitVec 8) : State :=
  let k := linkOf s l
  let live := k.live &&& ok
  let w := widthFor (laneCount live)
  let lanes := if k.lanes.toNat < w.toNat then w else k.lanes
  let s1 := retireLanes (modLink s l fun k => { k with live := live }) l (k.live &&& ~~~ok)
  if (minLanes s).toNat < lanes.toNat then linkDenied s1 l
  else
    let s2 := modLink s1 l fun k => { k with
      lanes := lanes, retrained := true, txBuf := [], txCount := 0
      keyEpoch := if k.gcm then k.keyEpoch + 1 else k.keyEpoch
      epochFlits := 0 }
    let s3 := if k.replay.isEmpty then modLink (laneRetrained s2 l) l fun k => { k with st := .up, n := 0, retrained := false }
      else makeReplay (laneRetrained s2 l) l 5
    postWidth (answerLink s3 l) l eRetired k.lanes lanes k.rate k.rate

/-- No lane passed at the link's rate: the retrain tries the next lower one, where the latitude allows it (R263, R266). -/
def retrainLower (s : State) (l : Nat) : State :=
  let r := (linkOf s l).rate
  if 2 ≤ r.toNat then linkFails s l 2
  else if (minRate s).toNat < r.toNat + 1 then linkDenied s l
  else postWidth (modLink s l fun k => { k with rate := r + 1 }) l eRetired (linkOf s l).lanes (linkOf s l).lanes r (r + 1)

/-- What authentication found wrong (R281, R427, R280): 1 the chain, 2 the part, 3 a revoked serial, 4 the security version, 5 the
proof of possession, 6 the key exchange, 8 more than 20 ms (LOG 27). -/
def authStep (s : State) (r : TrainResult) : Nat :=
  if !r.chainOk then 1
  else if !r.partOk then 2
  else if s.sh.peerRevoked.contains r.serial then 3
  else if r.svnFw.toNat < s.sec.peerMinSvn.toNat then 4
  else if !r.sigOk then 5
  else if !r.ecdhOk then 6
  else if 20000000 < r.authNs then 8
  else 0

/-- The link is held Down with link.auth_fail (R281, R282). -/
def authFails (s : State) (l : Nat) (cause : BitVec 4) (step : Nat) : State :=
  post (modLink (goDown s l cause) l fun k => { k with authHeld := true }) (linkSrc s l) (linkPm s l) evLinkAuthFail none
    eKey [(8, step)]

/-- The link comes Up (R259, R263, R280): stamps as the peer's pools, link.up. Flows that ran elsewhere come back at the next
step boundary (R268). Its lanes, the link and its courier lane are in service (R264, R266, R278). -/
def comeUp (s : State) (l : Nat) (live : BitVec 8) (secret : BitVec 384) : State :=
  let s1 := modLink s l fun k => { k with
    st := .up, live := live, lanes := widthFor (laneCount live), rate := 0, keyEpoch := 0, epochFlits := 0, n := 0
    retrained := false, flSeq := 0, ackSeq := 0xFFFF, rxSeq := 0xFFFF, nak := false, tell := false, replay := [], waiting := []
    part := [], rxPart := [], owed := [], stamps := [(0, 2048), (1, 512), (2, 2048), (3, 512)], failedOver := imageRuns s
    waitPeer := false, wanted := none, crossed := false, secret := secret, txBuf := [], txCount := 0 }
  let s2 := laneRetrained (backInService s1 (linkChannel l :: laneChannels l live)) l
  post s2 (linkSrc s l) (linkPm s l) evLinkUp none eOk []

/-- Training ends (R252, R280 to R282, R266): lanes and framing, wiring, authentication, encryption mode, width. Every lane is
tried, one retired before among them. -/
def trained (s : State) (l : Nat) (r : TrainResult) : State :=
  let k := linkOf s l
  let s1 := retireLanes s l (~~~r.lanesOk)
  if r.lanesOk = 0 ∨ r.framing = false then linkFails s1 l 3
  else if r.peerAddr ≠ peerPkg s l ∨ r.peerLink.toNat ≠ peerLinkNo l then
    post (goDown s1 l 4) (linkSrc s l) (linkPm s l) evLinkMiswire none eLinkDown
      [(16, s.place.addr.toNat), (16, r.peerAddr.toNat), (8, l), (8, r.peerLink.toNat)]
  else
    let s2 := modLink s1 l fun k => { k with peerAddr := r.peerAddr, peerLink := r.peerLink }
    if authStep s r ≠ 0 then authFails s2 l 5 (authStep s r)
    else if r.gcmPeer ≠ k.gcm then authFails s2 l 6 7
    else if (minLanes s).toNat < (widthFor (laneCount r.lanesOk)).toNat then linkDenied s2 l
    else comeUp s2 l r.lanesOk r.secret

/-! ### Changes of width and rate (R265) -/

/-- A LINK_CTL frame on courier lane `l` (R276): kind 0 a request, 1 a retrain notice, 2 a down notice, 3 the answer to a request,
4 a link that waits for its peer (LOG 23). -/
def sendLinkCtl (s : State) (l : Nat) (kind : Nat) (lanes rate : BitVec 2) : State :=
  queueFrame s l (0x30, BitVec.ofNat 224 (kind + lanes.toNat * 8 + rate.toNat * 32))

/-- The higher code: the lower width, or the lower rate. -/
def lowerOf (a b : BitVec 2) : BitVec 2 := if a.toNat < b.toNat then b else a

/-- The lower code: the higher width, or the higher rate. -/
def higherOf (a b : BitVec 2) : BitVec 2 := if a.toNat < b.toNat then a else b

/-- This end asks for a width and rate (R265). -/
def askWidth (s : State) (l : Nat) (lanes rate : BitVec 2) : State :=
  sendLinkCtl (modLink s l fun k => { k with wanted := some (lanes, rate), crossed := false }) l 0 lanes rate

/-- What this end names in answer to a request (R265, R266, R279): no more lanes than live, the Dormant configuration while it is in
it, and nothing below its own bounds. -/
def named (s : State) (l : Nat) (lanes rate : BitVec 2) : BitVec 2 × BitVec 2 :=
  let k := linkOf s l
  let own : BitVec 2 × BitVec 2 := if lowPower s then (3, 2) else k.wanted.getD (0, 0)
  (lowerOf (lowerOf (higherOf lanes (minLanes s)) own.1) (widthFor (laneCount k.live)), lowerOf (higherOf rate (minRate s)) own.2)

/-- The link takes width and rate `b` (R263, R265): traffic pauses, unless it has them. -/
def changeTo (s : State) (l : Nat) (b : BitVec 2 × BitVec 2) : State :=
  let k := linkOf s l
  if b = (k.lanes, k.rate) then modLink s l fun k => { k with wanted := none, crossed := false }
  else modLink s l fun k => { k with st := .changing, wanted := some b, crossed := false }

/-- The peer asks for a width and rate (R265, R266): this end answers with what it names, within its latitude, and takes it; where
its own request has crossed the peer's, it waits for the peer's answer. -/
def peerWidth (s : State) (l : Nat) (lanes rate : BitVec 2) : State :=
  let b := named s l lanes rate
  let short := decide ((minLanes s).toNat < lanes.toNat ∨ (minRate s).toNat < rate.toNat)
  let s1 := if short then postDenied s (linkSrc s l) (linkPm s l) evAdaptLinkWidth [] else s
  let s2 := sendLinkCtl s1 l 3 b.1 b.2
  if (linkOf s l).wanted.isSome then modLink s2 l fun k => { k with wanted := some b, crossed := true } else changeTo s2 l b

/-- The peer answers (R265): the link takes what the peer names, within its own live lanes; of two answers to crossed requests, the
wider and faster, which both ends allow. -/
def peerAnswers (s : State) (l : Nat) (lanes rate : BitVec 2) : State :=
  let k := linkOf s l
  match k.wanted with
  | none => s
  | some w =>
    let a : BitVec 2 × BitVec 2 := if k.crossed then (higherOf w.1 lanes, higherOf w.2 rate) else (lanes, rate)
    changeTo s l (lowerOf a.1 (widthFor (laneCount k.live)), a.2)

/-- An agreed change completes (R263, R265): the framing is re-locked, and the link resends from its oldest unacknowledged flit
and goes on. -/
def widthChanged (s : State) (l : Nat) : State :=
  let k := linkOf s l
  let b := k.wanted.getD (k.lanes, k.rate)
  let s1 := modLink s l fun k => { k with
    st := .up, lanes := b.1, rate := b.2, wanted := none, n := 0, retrained := false, txBuf := [], txCount := 0 }
  postWidth (answerLink (resendAll s1 l) l) l eOk k.lanes b.1 k.rate b.2

/-- The link trains again on command or because its placement changed (R264, R306, R354): Down, then waiting for its peer, to which it
announces itself. -/
def trainAgain (s : State) (l : Nat) (cause : BitVec 4) : State :=
  let s1 := if (linkOf s l).st = .down then s else goDown s l cause
  sendLinkCtl (modLink s1 l fun k => { k with waitPeer := true, authHeld := false, downCause := if cause = 9 then 9 else k.downCause })
    l 4 0 0

end Sys2Proof.Machine
end

