-- ==== Sys2Proof/Machine/RecordOps.lean ====
section
/-! DEFINITION. Event records on their way (R47, R360 to R364, R429): rings, the alarm store, Shordo, the release. -/

namespace Sys2Proof.Machine

/-! ### Rings (R361 to R363) -/

/-- Slots of context `c`'s ring. -/
def ringSize (d : Door) : Nat := 2 ^ d.evSize.toNat

/-- Slots with no unread record; none while the ring is not enabled. -/
def ringFree (d : Door) : Nat := if d.evEn then ringSize d - (d.evTail - d.evHead).toNat else 0

/-- Ring `c` takes record `r` (R361): its context's or a package-wide one with `pkg_ev`, of a class that is set; a completion
of an enabled ring. -/
def ringTakes (s : State) (c : Fin 64) (r : Rec) : Bool :=
  let d := doorOf s c.val
  (if r.pkg then d.pkgEv else r.ctx.toNat == c.val) &&
    (match r.cls with
     | .completion => d.evEn
     | .alarm => d.alarms
     | .log => d.logs
     | .trace => d.traces)

/-- The vector fires (R363): at most once in a gap, but at once for a completion that asks for it. -/
def ringIrq (s : State) (c : Fin 64) (now : Bool) : State :=
  let d := doorOf s c.val
  if !d.irqEn then s
  else
    let gap := match d.lastIrq with | some t => decide (t + d.irqGap.toNat * 1000 ≤ s.ns) | none => true
    if now || gap then
      send (modDoor s c.val fun d => { d with lastIrq := some s.ns, irqWait := false }) (.irq d.evPort c.val)
    else modDoor s c.val fun d => { d with irqWait := true }

/-- A record is written into the ring's next slot and the tail advances (R360); the first pass writes phase 1. -/
def writeRec (s : State) (c : Fin 64) (r : Rec) : State :=
  let d := doorOf s c.val
  let slot := d.evTail.toNat % ringSize d
  let s1 := wrHost s (d.evBase.toNat + slot * 64) (leBytes 64 (recBits r (!(d.evTail.getLsbD d.evSize.toNat))))
  ringIrq (modDoor s1 c.val fun d => { d with evTail := d.evTail + 1 }) c (r.irq && r.cls = .completion)

/-- The record of what a ring has dropped (R362), just before record `r`. -/
def droppedRec (s : State) (d : Door) (r : Rec) : Rec :=
  { pm := r.pm, source := srcUnit s 0xE3 0 (b2n d.evPort), code := evEvDropped, cls := .log, ctx := 0, pkg := true, err := eOk,
    count := 1, multi := false, body := packBody [(32, d.newLogs), (32, d.newTraces)], irq := false }

/-- The records held for ring `c`: its own, and the alarms owed to it. -/
def heldFor (s : State) (c : Fin 64) : List Rec :=
  (doorOf s c.val).owed ++ (s.paths.alarmStore.filter fun h => h.owed.contains c).map fun h => h.record

/-- Ring `c` has taken a held record: a place of the alarm store frees when every ring has taken it. -/
def takeHeld (s : State) (c : Fin 64) (r : Rec) : State :=
  if (doorOf s c.val).owed.contains r then modDoor s c.val fun d => { d with owed := d.owed.erase r }
  else modPaths s fun p => { p with
    alarmStore := (p.alarmStore.map fun h =>
      if h.owed.contains c && h.record == r then { h with owed := h.owed.erase c, took := h.took ++ [c] } else h).filter
      fun h => !h.owed.isEmpty }

/-- A log dropped from ring `c` (R362). -/
def countDrop (s : State) (c : Fin 64) (isTrace : Bool) : State :=
  modDoor s c.val fun d => if isTrace then { d with dropTraces := satInc d.dropTraces, newTraces := d.newTraces + 1 }
    else { d with dropLogs := satInc d.dropLogs, newLogs := d.newLogs + 1 }

/-- A log joins those held: beyond 1,024 the oldest is dropped. -/
def holdLog (s : State) (c : Fin 64) (r : Rec) : State :=
  let d := doorOf s c.val
  if (d.owed.filter fun x => x.cls = .log).length < 1024 then modDoor s c.val fun d => { d with owed := d.owed ++ [r] }
  else
    let s1 := modDoor s c.val fun d => { d with owed := (d.owed.eraseP fun x => x.cls = .log) ++ [r] }
    countDrop s1 c false

/-- Ring `c` writes the next held record (R362): after a drop, ev.dropped goes before it. -/
def deliverHeld (s : State) (c : Fin 64) : State :=
  let d := doorOf s c.val
  match firstRec (heldFor s c) with
  | none => s
  | some r =>
    if ringFree d = 0 then s
    else if d.newLogs + d.newTraces ≠ 0 then
      modDoor (writeRec s c (droppedRec s d r)) c.val fun d => { d with newLogs := 0, newTraces := 0 }
    else writeRec (takeHeld s c r) c r

/-- A log or trace of a ring that has nothing held and a free slot is written at once; a trace needs a quarter of the slots
free (R362). -/
def ringNow (s : State) (c : Fin 64) (r : Rec) : Bool :=
  let d := doorOf s c.val
  (heldFor s c).isEmpty && decide (0 < ringFree d) && (d.newLogs + d.newTraces == 0 || decide (1 < ringFree d)) &&
    (r.cls != .trace || decide (ringSize d ≤ 4 * ringFree d))

/-- Ring `c` writes `r` now, with ev.dropped before it after a drop. -/
def writeNow (s : State) (c : Fin 64) (r : Rec) : State :=
  let d := doorOf s c.val
  if d.newLogs + d.newTraces = 0 then writeRec s c r
  else writeRec (modDoor (writeRec s c (droppedRec s d r)) c.val fun d => { d with newLogs := 0, newTraces := 0 }) c r

/-- The rings that take `r`. -/
def takers (s : State) (r : Rec) : List (Fin 64) := (List.finRange 64).filter fun c => ringTakes s c r

/-- Record `r` meets the rings that take it (R361, R362). -/
def toRings (s : State) (r : Rec) : State :=
  let cs := takers s r
  let full := cs.filter fun c => !ringNow s c r
  let now := cs.filter fun c => ringNow s c r
  let s1 := now.foldl (fun s c => writeNow s c r) s
  match r.cls with
  | .completion => full.foldl (fun s c => modDoor s c.val fun d => { d with owed := d.owed ++ [r] }) s1
  | .alarm => if full.isEmpty then s1 else modPaths s1 fun p => { p with alarmStore := storeAlarm p.alarmStore 4096 r full now }
  | .log => full.foldl (fun s c => holdLog s c r) s1
  | .trace => full.foldl (fun s c => countDrop s c true) s1

/-! ### Shordo (R411, R429) -/

/-- The alarms of the PLDM event queue. -/
def pldmAlarms (q : List PldmMsg) : List Rec := q.filterMap fun m => match m with | .alarm r => some r | .sensor .. => none

/-- The queue with its alarms, in order, replaced by those of `l`, of which there are as many. -/
def refill : List PldmMsg → List Rec → List PldmMsg
  | .alarm _ :: q, r :: l => .alarm r :: refill q l
  | m :: q, l => m :: refill q l
  | [], _ => []

/-- An alarm joins the PLDM event queue of 64 messages: a full queue merges as R362 does (R429). Where every message is a sensor's, the oldest
makes room (DESIGN CHOICE, LOG 15). -/
def pldmAdd (q : List PldmMsg) (r : Rec) : List PldmMsg :=
  let a := pldmAlarms q
  let b := storePlain a (64 - (q.length - a.length)) r
  if a.length < b.length then q ++ [.alarm r]
  else if a.isEmpty then q.drop 1 ++ [.alarm r] else refill q b

/-- What Shordo keeps of a record: alarms as platform events, merged at 64; logs in a buffer of 256, the oldest dropped. -/
def toShordo (s : State) (r : Rec) : State :=
  match r.cls with
  | .alarm => modPaths s fun p => { p with pldmQ := pldmAdd p.pldmQ r }
  | .log => modPaths s fun p => { p with shordoLog := (p.shordoLog ++ [r]).drop (p.shordoLog.length + 1 - 256) }
  | _ => s

/-! ### Release (R47) -/

/-- A record of the package may be released: two ticks have passed since its postmark, and a correction pulse with a later
postmark has been answered. -/
def settled (s : State) (r : Rec) : Bool := pmReached s.tb.now (pmAddTicks r.pm 2) && pmLt r.pm s.tb.lastPulse

/-- What a record carries as it stands at the release (R155): the peak of queue.wm_high, the trough of queue.wm_low. -/
def fillPeak (s : State) (r : Rec) : Rec :=
  let q := queueOf s (fld r.body 336 16).toNat
  if r.code = evQueueWmHigh then { r with body := r.body ||| packBody [(32, 0), (16, q.hiPeak.toNat)] }
  else if r.code = evQueueWmLow then { r with body := r.body ||| packBody [(32, 0), (16, q.loTrough.toNat)] }
  else r

/-- Release record `r`. -/
def releaseRec (s : State) (r : Rec) : State :=
  let s1 := modPaths s fun p => { p with posted := p.posted.erase r }
  let x := fillPeak s r
  forwardOwn (toShordo (toRings s1 x) x) x

end Sys2Proof.Machine
end

