-- ==== Sys2Proof/Machine/TbOps.lean ====
section
/-! DEFINITION. The timebase (R27 to R34, R315, R466 to R468), the courier lanes as its sources, and the urgent actions that
a courier frame, the host or a halt starts (R277, R358, R359). -/

namespace Sys2Proof.Machine

/-! ### The timebase -/

/-- The source id of the timebase (R407). -/
def tbSrc (s : State) : BitVec 32 := srcUnit s 0xE0 0 0

/-- The state after the timebase leaves Locked or Acquiring for want of a source (R31): Holdover where it holds a beat count,
else Unlocked. -/
def loseSource (s : State) : State :=
  if s.tb.hasCount && (s.tb.st = .locked || s.tb.st = .acquiring) then
    post (modTb s fun t => { t with st := .holdover, holdSince := t.now, source := 0xF }) (tbSrc s) s.tb.now evTbHoldover none
      eTimeout []
  else if s.tb.st = .holdover then s
  else modTb s fun t => { t with st := .unlocked, source := 0xF }

/-- A valid source is present (R31): a follower hears its upstream, a root has its own clock or TB_IN. -/
def sourceValid (s : State) : Bool :=
  match s.tb.role.toNat with
  | 0 => s.tb.source != 0xF
  | 1 => powered s && s.pins.sysclk
  | _ => powered s && s.tb.tbInOk

/-- With a valid source present, a timebase that is not locked acquires it (R31). -/
def sourceReturns (s : State) : State :=
  if s.tb.st = .locked ∨ sourceValid s = false then s else modTb s fun t => { t with st := .acquiring }

/-- A follower takes time from lane `l` (R28, R31): the lane it follows, or with no source its upstream, or its alternate
while the upstream is lost. -/
def follows (s : State) (l : Nat) : Bool :=
  s.tb.role == 0 &&
    (if s.tb.source = 0xF then
      l == s.tb.upstream.toNat || (l == s.tb.altUpstream.toNat && !(linkOf s s.tb.upstream.toNat).courier)
     else l == s.tb.source.toNat)

/-- A timing frame on every courier lane (R28): the root's address, the beat period, a postmark. -/
def sendTiming (s : State) (root : BitVec 15) (period : BitVec 26) (pm : Pm) : State :=
  (List.range 12).foldl (fun s l => queueFrame s l (0x01, (0 : BitVec 119) ++ root ++ period ++ pm)) s

/-- The one-way delay in sub-ticks (R29): ps * 2^24 / (beat period in ps). -/
def delaySub (s : State) : Nat := s.tb.delayPs.toNat * 2 ^ 24 / (s.tb.beatPeriod.toNat * 1000)

/-- The follower sets its time (R28): the frame's postmark and the path's delay. The timebase steps forward to it; one that is
ahead stands until its upstream has reached it, and does not run backward (R31, R33). -/
def setTime (s : State) (l : Nat) (root : BitVec 15) (pm : Pm) : State :=
  let t := pm + BitVec.ofNat 64 (delaySub s)
  let s1 := modTb s fun x =>
    let y := { x with rootAddr := root, source := BitVec.ofNat 4 l }
    if pmLt x.now t || !x.hasCount then { y with now := t, ahead := 0 } else { y with ahead := (x.now - t).toNat }
  sourceReturns s1

/-- Lane `l` delivers timing frames; one that had been lost, and was retrained, had a transient fault (R278, R397, R398). -/
def laneLive (s : State) (l : Nat) : State :=
  let k := linkOf s l
  let s1 := modLink s l fun k => { k with courier := true, lastTiming := s.ns, lane := { k.lane with retried := false } }
  if k.lane.retried then
    transientFault (modLinkCtr s1 l fun c => { c with courierTransient := satInc c.courierTransient }) (courierSrc s l)
      (clock s (domCourier l)) (courierChannel l) 0x07
  else s1

/-- A good timing frame on lane `l` (R28, R278): the lane is live; a root that hears another root reports it; a follower takes
the time, or a beat period that is not its own leaves it Unlocked; either way it re-sends the frame, corrected for its delay.
The codes and bodies of the two alarms are the model's choice: E_STATE with the other root's address, E_RANGE with the frame's
period (LOG 27). -/
def timingArrives (s : State) (l : Nat) (root : BitVec 15) (period : BitVec 26) (pm : Pm) : State :=
  let s1 := slot (laneLive s l) l
  if tbRoot s then
    if root = s.place.addr then s1 else post s1 (tbSrc s) s.tb.now evTbDualRoot none eState [(16, root.toNat)]
  else if follows s l then
    let s2 := if period ≠ s.tb.beatPeriod then
        post (modTb s1 fun t => { t with st := .unlocked }) (tbSrc s) s.tb.now evTbMismatch none eRange [(32, period.toNat)]
      else setTime s1 l root pm
    sendTiming s2 root period (pm + BitVec.ofNat 64 (delaySub s))
  else s1

/-- The lane that supplies time is gone (R31): the other of the two upstreams, without Holdover, or Holdover. -/
def switchSource (s : State) (l : Nat) : State :=
  let other := if l = s.tb.upstream.toNat then s.tb.altUpstream else s.tb.upstream
  if other.toNat ≠ l ∧ (linkOf s other.toNat).courier = true then modTb s fun t => { t with source := other }
  else loseSource s

/-- The timebase has a source to lock to (R31). -/
def canLock (s : State) : Bool := s.tb.st = .acquiring && sourceValid s

/-- The timebase locks (R31). Beat 0 is placed only when the package holds no beat count and is itself the root (R27, R315): at
the lock by a root with its own clock; by a root with TB_IN at the first once-per-second edge after it, which comes within a
second and whose place in that second is free (LOG 48). -/
def lock (s : State) : State :=
  let first := tbRoot s && !s.tb.hasCount
  let s1 :=
    if first && s.tb.role == 2 then
      modTb { s with free := s.free + 1 } fun t => { t with
        st := .locked, ppsDue := some (s.ns + 1 + (Config.freeWord s.free).toNat % 1000000000) }
    else modTb s fun t => { t with st := .locked, hasCount := true, now := if first then 0 else t.now, acc := if first then 0 else t.acc }
  post s1 (tbSrc s) s1.tb.now evTbLock none eOk []

/-- The correction interval M (R33): the largest power of two ticks that last no longer than 1 us, at least 1. A tick lasts
beat_period / 4096 ns. -/
def corrM (period : Nat) : Nat :=
  ((List.range 10).map fun i => 2 ^ i).foldl (fun m x => if x * period ≤ 4096 * 1000 then x else m) 1

/-- The last tick at or before `now` whose number is a multiple of M. -/
def pulsePm (s : State) : Pm :=
  let m := corrM s.tb.beatPeriod.toNat * 4096
  BitVec.ofNat 64 (s.tb.now.toNat / m * m)

/-- How far a counter is from the pulse's postmark `p`, as it measures it when the timebase shows `now`: nothing where it has
passed no more than the timebase has since. -/
def ctrError (p now : Pm) (c : Ctr) : BitVec 64 := if pmLt c.pm p || pmLt now c.pm then p - c.pm else 0

/-- A domain trims its rate value from the error it measured; by how much is left open (R33, LOG 21). -/
def trim (e : BitVec 64) (rate : BitVec 64) : BitVec 64 := if e = 0 then rate else Config.trimRate e rate

/-- A counter at the correction pulse of postmark `p`, when the timebase shows `now` (R33, R34): one just powered up loads the
postmark of the message; behind, it steps forward to the pulse; ahead of the timebase, it stops; equal, it goes on. -/
def ctrPulse (p now : Pm) (c : Ctr) : Ctr :=
  if !c.on then c
  else if !c.loaded then { c with pm := p, loaded := true, paused := false }
  else { c with pm := if pmLt c.pm p then p else c.pm, paused := pmLt now c.pm, rate := trim (ctrError p now c) c.rate }

/-- The message and the pulse reach the guests of version 1.2 too, on CTL (R248). -/
def pulseGuests (s : State) (pm : Pm) : State :=
  (List.range 32).foldl (fun s d =>
    if (siteOf s (siteOfDie s d)).mode = .guest16 then send s (.guestPulse (BitVec.ofNat 5 d) pm) else s) s

/-- The correction pulse and the message before it, which carries the pulse's postmark (R33): every counter compares itself
with it. -/
def pulse (s : State) : State :=
  modTb (pulseGuests { s with clk := s.clk.map (ctrPulse (pulsePm s) s.tb.now) } (pulsePm s)) fun t => { t with lastPulse := pulsePm s }

/-- One-way delay of a probe in ps (R29). -/
def probeDelay (s : State) (t1 t2 t3 t4 : Pm) : Nat :=
  ((t4 - t1) - (t3 - t2)).toNat / 2 * (s.tb.beatPeriod.toNat * 1000) / 2 ^ 24

/-- The delay averaged over the last 16 probes (R29), saturating (R468). -/
def takeDelay (s : State) (d : Nat) : State :=
  let l := (s.tb.delays ++ [d]).drop (s.tb.delays.length + 1 - 16)
  modTb s fun t => { t with probeT1 := none, delays := l, delayPs := BitVec.ofNat 24 (min 0xFFFFFF (l.sum / l.length)) }

/-! ### Urgent actions (R277, R358, R359) -/

/-- The code of a schedule state in HOST.SCHED (R357). -/
def schedCode : Sched → Nat
  | .none => 0
  | .loaded => 1
  | .running => 2
  | .quiesced => 3
  | .stopped => 4

/-- What QUIESCE or STOP does to the schedule as it stands (R359). -/
def urgentSched (s : State) (isStop : Bool) : State := if isStop then beginRollback s else quiesceSched s

/-- An urgent action acts (R359, R364): the schedule, the two status registers, vector 64 of both functions, sched.urgent.
`scope` is coded as in HOST.URGENT. -/
def urgentAct (s : State) (isStop : Bool) (origin : BitVec 15) (count : BitVec 16) (scope : Nat) : State :=
  let s1 := urgentSched s isStop
  let after := schedCode s1.sched
  let pm := hub0Pm s
  let s2 := modRegs s1 fun r => { r with urgCount := count, urgOrigin := origin, urgKind := isStop, urgPm := pm,
                                         urgAfter := BitVec.ofNat 3 after }
  let s3 := send (send s2 (.irq false 64)) (.irq true 64)
  post s3 (srcUnit s 0xA0 0 0) pm evSchedUrgent none eOk
    [(8, b2n isStop), (16, origin.toNat), (16, count.toNat), (8, after), (8, scope)]

/-- The stop id of an origin's frame (R277). -/
def stopId (origin : BitVec 15) (count : BitVec 16) : BitVec 32 := (0 : BitVec 1) ++ origin ++ count

/-- The package lies in frame scope `scope` of `origin` (R277): every package, the origin's D group, its P line. -/
def inScope (s : State) (origin : BitVec 15) (scope : Nat) : Bool :=
  let same := fun a => coordOf s s.place.addr a == coordOf s origin a
  match scope with
  | 0 => true
  | 1 => same 0 && same 2 && (match commitRec s with | some r => (memberPos s r origin).isSome | none => true)
  | 2 => same 1 && same 2
  | _ => false

/-- A STOP or QUIESCE frame, sent in two separate slots, on a lane that is not lost (R277, R278). -/
def sendStop (s : State) (l : Nat) (isStop : Bool) (origin : BitVec 15) (count : BitVec 16) (pm : Pm) (scope : Nat) : State :=
  let f : BitVec 8 × BitVec 224 := (if isStop then 0x10 else 0x11, (0 : BitVec 126) ++ stopId origin count ++ BitVec.ofNat 2 scope ++ pm)
  if (linkOf s l).lane.lost then s else queueFrame (queueFrame s l f) l f

/-- A stop id seen for the first time is forwarded on every other lane, and acted on within its scope (R277), where there is power to
act. -/
def stopArrives (s : State) (l : Nat) (isStop : Bool) (origin : BitVec 15) (count : BitVec 16) (pm : Pm) (scope : Nat) :
    State :=
  let id := stopId origin count
  if s.regs.stopsSeen.contains id then s
  else
    let s1 := modRegs s fun r => { r with stopsSeen := r.stopsSeen ++ [id] }
    let s2 := ((List.range 12).filter fun i => i != l).foldl (fun s i => sendStop s i isStop origin count pm scope) s1
    if inScope s origin scope && powered s then urgentAct s2 isStop origin count (scope + 1) else s2

/-- The package originates a STOP or QUIESCE of frame scope `scope` (R277, R358): its count increments, and the id is its
own. -/
def originStop (s : State) (isStop : Bool) (scope : Nat) : State :=
  let n := s.regs.stopSent + 1
  let id := stopId s.place.addr n
  let s1 := modRegs s fun r => { r with stopSent := n, stopsSeen := r.stopsSeen ++ [id] }
  (List.range 12).foldl (fun s i => sendStop s i isStop s.place.addr n (hub0Pm s) scope) s1

end Sys2Proof.Machine
end

