-- ==== Sys2Proof/Machine/PowerOps.lean ====
section
/-! DEFINITION. Power states and throttling (R7, R235, R236, R380 to R394, R451 to R453): what each state keeps, ceilings and
frequencies, reasons and their accounting, bandwidth rates, halts. -/

namespace Sys2Proof.Machine

/-! ### Names -/

/-- The power controller's source id (R407). -/
def pwrSrc (s : State) : BitVec 32 := srcUnit s 0xE2 0 0

/-- The postmark of the power controller's records: Shordo's domain. -/
def pwrPm (s : State) : Pm := clock s domShordo

/-! ### Targets, ceilings, frequencies (R385, R386, R390) -/

/-- U of R386. -/
def upperF (s : State) : Nat := min (latFMax (latitude s)).toNat s.pwr.fSet.toNat

/-- The controller chooses the level (R386). -/
def dvfsOn (s : State) : Bool := imageRuns s && latDvfsAuto (latitude s)

/-- The target frequency, in 25 MHz units (R386). -/
def targetF (s : State) : Nat := if dvfsOn s then s.pwr.dvfs.toNat else s.pwr.fSet.toNat

/-- COOLANT is active (R390): FLOW_OK is deasserted, or has not been asserted for 100 us since. -/
def coolantOn (s : State) : Bool := s.pwr.flowLostNs.isSome || (tget none s.pwr.episodes 5).isSome && s.pwr.flowSince.isSome

/-- The ceilings that bind every cluster: cap, current, coolant, external, and those of hub and Teasel sensors. -/
def commonCeil (s : State) : Nat :=
  let t := (s.pwr.tempCeil.filter fun x => decide (domOther ≤ x.1)).map fun x => x.2.toNat
  let c := [s.pwr.capCeil.toNat, s.pwr.curCeil.toNat, if s.pwr.flowOk then 60 else 16,
            if s.pwr.extLimit = 0 then 60 else s.pwr.extLimit.toNat] ++ t
  c.foldl min 60

/-- What every cluster with no ceiling of its own is to run at. -/
def wantAll (s : State) : Nat := min (targetF s) (if coolantOn s then min 16 (commonCeil s) else commonCeil s)

/-- What cluster `k` is to run at (R390). -/
def wantOf (s : State) (k : Nat) : Nat := min (wantAll s) (tget 60 s.pwr.tempCeil k).toNat

/-- A cluster's clock switches (R385), or the clock of every cluster that has no frequency of its own: the rate value changes in
the same cycle (R32). -/
def setFreq (s : State) (k f : Nat) : State :=
  let s1 := modPwr s fun p => { p with freq := tput 0 p.freq k (BitVec.ofNat 6 f) }
  let p := s.tb.beatPeriod.toNat
  if k = allClusters then
    let own := fun (d : Nat) => s.pwr.freq.any fun x => x.1 == d
    let at_ := fun (d : Nat) (c : Ctr) => if own d then c else retime p (clkOf s d f) c
    let kept := (s.pwr.freq.filter fun x => x.1 != allClusters && !(s.clk.cl.any fun y => y.1 == x.1)).map fun x => x.1
    let listed := kept.foldl (fun t d => tput (retime p (2 * f) s.clk.clDef) t d s.clk.clDef)
      (tmap (retime p (2 * f) s.clk.clDef) at_ s.clk.cl)
    { s1 with clk := { s.clk with cl := listed, clDef := retime p (2 * f) s.clk.clDef } }
  else setCtr s1 k (retime p (clkOf s k f) (ctrOf s k))

/-- Clusters that are to run slower switch at once; an increase waits for its rail (R385, VCL_SLEW_COMPLETE). -/
def retarget (s : State) : State :=
  let own := (s.pwr.freq.map fun x => x.1) ++ (s.pwr.tempCeil.map fun x => x.1).filter fun k => decide (k < domOther)
  let s1 := (own.dedup.filter fun k => k != allClusters).foldl (fun s k =>
    if wantOf s k < freqOf s k then setFreq s k (wantOf s k) else s) s
  if wantAll s1 < freqOf s1 allClusters then setFreq s1 allClusters (wantAll s1) else s1

/-- The lowest frequency of any active cluster. -/
def lowestF (s : State) : Nat := (s.pwr.freq.map fun x => x.2.toNat).foldl min (freqOf s allClusters)

/-- V(f) of cluster `k`, in mV (R385): fused, in 5 mV steps within 550 to 850, and within 700 to 800 at 1.25 GHz. -/
def vclCurve (k f : Nat) : Nat := if f = 50 then 700 + 5 * (Config.vclFuse k f % 21) else 550 + 5 * (Config.vclFuse k f % 61)

/-- The core group of the site that holds cluster `k`, or the cluster's own phase, is off (R381, R384). -/
def vclOff (s : State) (k : Nat) : Bool :=
  tget .off s.pwr.rails (k / 256 * 1024 + 2) != .on ||
    (match tget .off s.pwr.rails (k / 256 * 1024 + 16 + k % 256) with | .retrying | .retired => true | _ => false)

/-- The setpoint of cluster `k`'s rail, in mV (R381, R385): V of the frequency that the cluster runs at, or of the higher one that it
is on its way to, since the rail slews up before the clock switches and down after. Zero where the rail is off. -/
def vclSet (s : State) (k : Nat) : Nat := if vclOff s k then 0 else vclCurve k (max (freqOf s k) (wantOf s k))

/-- The reason that limits a cluster (R390): of those active, the one with the lowest ceiling, the lower code on a tie. -/
def reasonCeil (s : State) (k r : Nat) : Nat :=
  match r with
  | 0 => s.pwr.capCeil.toNat
  | 1 => ((s.pwr.tempCeil.filter fun x => decide (domOther ≤ x.1) || x.1 == k).map fun x => x.2.toNat).foldl min 60
  | 3 => s.pwr.curCeil.toNat
  | 4 => if s.pwr.drooped.contains k then freqOf s k / 2 else 60
  | 5 => 16
  | 6 => s.pwr.extLimit.toNat
  | _ => 60

/-! ### Reasons (R390, R391) -/

/-- Some stack is throttled (R236). -/
def hbmHot (s : State) : Bool := s.hubs.any fun h => !h.2.throttle.isEmpty

/-- Reason `r` is active (R390). -/
def reasonOn (s : State) (r : Nat) : Bool :=
  match r with
  | 0 => decide (s.pwr.capCeil.toNat < targetF s)
  | 1 => !s.pwr.level.isEmpty
  | 2 => hbmHot s
  | 3 => decide (s.pwr.curCeil.toNat < targetF s)
  | 4 => !s.pwr.drooped.isEmpty
  | 5 => coolantOn s
  | _ => s.pwr.extLimit != 0 && decide (s.pwr.extLimit.toNat < targetF s)

/-- The limiting reason of cluster `k` (R390). -/
def limitingReason (s : State) (k : Nat) : Option Nat :=
  (List.range 7).foldl (fun best r =>
    if reasonOn s r then
      match best with
      | some b => if reasonCeil s k r < reasonCeil s k b then some r else best
      | none => some r
    else best) none

/-- The effective cap, in W (R387). -/
def effectiveCap (s : State) : Nat :=
  let a := s.pwr.cap.toNat * 10
  let b := if s.run.image.isSome then min a ((latPMax (latitude s)).toNat * 10) else a
  if s.pwr.bladeLost then min b (190 * s.pwr.vIn.toNat / 4) else b

/-- The power limit of a guest's Teasel rail, in W: `power_w` plus 10 % (R249). -/
def guestLimit (x : Site) : Nat := if x.mode = .guest16 ∨ x.mode = .guestCompat then (cbPower x.block).toNat * 11 / 10 else 0

/-- What the guests' rail limits take of the package cap (R249). -/
def guestPower (s : State) : Nat := (s.sites.map fun x => guestLimit x.2).sum

/-- The excess a reason's record reports (R391): 10 W units, degrees, 0.1 A, mV. -/
def excess (s : State) (r : Nat) : Nat :=
  match r with
  | 0 => s.pwr.pIn.toNat - effectiveCap s / 10
  | 1 => s.pwr.tDie.toNat - 100
  | 2 => s.pwr.tHbm.toNat - 85
  | 3 => max s.pwr.iPb0.toNat s.pwr.iPb1.toNat - 2000
  | 4 => 25 + (fld (Config.freeWord s.free) 0 8).toNat
  | _ => 0

/-- The body of pwr.throttle (R391). -/
def throttleBody (s : State) (r : Nat) (e : Episode) (ongoing : Bool) : BitVec 352 :=
  BitVec.ofNat 8 r ++ e.start ++ BitVec.ofNat 48 ((s.ns - e.startNs) / 1000) ++ e.fLow ++ BitVec.ofBool ongoing ++ e.peak ++
    (0 : BitVec 209)

/-- Post pwr.throttle. -/
def postThrottle (s : State) (r : Nat) (e : Episode) (ongoing : Bool) : State :=
  postB s (pwrSrc s) (pwrPm s) evPwrThrottle none eOk (throttleBody s r e ongoing)

/-- DROOP records are at most one for each die in each 1 ms (R391): the key holds when the last was posted for the die on site `n`. -/
def droopKey (n : Nat) : Nat := 2 ^ 36 + n

/-- A DROOP record was posted for that die less than 1 ms ago. -/
def droopRecent (s : State) (n : Nat) : Bool :=
  match tget [] s.sh.warnHits (droopKey n) with
  | t :: _ => decide (s.ns < t + 1000000)
  | [] => false

/-- Every cluster that droops lies on a die of such a record. -/
def droopQuiet (s : State) : Bool := s.pwr.drooped.all fun k => droopRecent s (k / 256)

/-- The episode of reason `r` ends: its time is added, and its record posted unless `quiet`. -/
def endEpisode (s : State) (r : Nat) (e : Episode) (quiet : Bool) : State :=
  let s1 := modPwr s fun p => { p with
    thrNs := tput 0 p.thrNs r (tget 0 p.thrNs r + (s.ns - e.startNs)), episodes := tput none p.episodes r none }
  if quiet then s1 else postThrottle s1 r e false

/-- Reason `r` is brought up to date: an episode begins, goes on or ends. -/
def accountOne (quiet : Nat → Bool) (s : State) (r : Nat) : State :=
  match tget none s.pwr.episodes r, reasonOn s r with
  | none, true => modPwr { s with free := s.free + 1 } fun p => { p with
      episodes := tput none p.episodes r (some { start := pwrPm s, startNs := s.ns, fLow := BitVec.ofNat 6 (lowestF s),
                                                 peak := BitVec.ofNat 16 (excess s r), lastRec := s.ns }) }
  | some e, true => modPwr s fun p => { p with
      episodes := tput none p.episodes r (some { e with
        fLow := BitVec.ofNat 6 (min e.fLow.toNat (lowestF s)), peak := BitVec.ofNat 16 (max e.peak.toNat (excess s r)) }) }
  | some e, false => endEpisode s r e (quiet r)
  | none, false => s

/-- After any change: clusters follow their ceilings, and every reason is brought up to date; accounting runs in Ready and
Running only (R390). -/
def account (s : State) (quiet : Nat → Bool := fun _ => false) : State :=
  let s1 := retarget s
  if s1.dev = .ready then (List.range 7).foldl (accountOne quiet) s1 else s1

/-! ### Low-power states (R7, R220, R348, R452, R453) -/

/-- A hub's memory units when its core rails ramp down: tables and a migration's pointer are saved (R231), the LLM loses what
it holds. A shortfall goes on where its guarantees do, else its time is counted (R235). -/
def hubDown (now : Nat) (keep : Bool) (h : HubMem) : HubMem :=
  if keep then { h with flushing := false, msos := [], runCache := 0, runHbm := 0, hkey := 0 }
  else { HubMem.reset with shortUs := h.shortUs + (match h.short with | some x => BitVec.ofNat 48 ((now - x.sinceNs) / 1000) | none => 0) }

/-- The core and hub rails go down (R7, R34, R452): every cluster's domain is off, and of the others all but the links, courier
lanes, PCIe ports and Shordo. -/
def domainsDown (k : Clocks) : Clocks :=
  let off := fun (c : Ctr) => { c with on := false, loaded := false, paused := false }
  let kept := ((List.range 27).map (· + domLink 0)).map fun d => (d, tget k.otherDef k.other d)
  { (k.map off) with other := kept.filter fun x => x.2 != off k.otherDef }

/-- The core and hub rails ramp down (R452): cores, fabric, tables and the image are gone; HBM stays, with its poison marks, only in self-refresh. The
counters stand: they clear at start-up (R415). -/
def rampDown (s : State) (keepHbm : Bool) : State :=
  { s with
    sched := .none, cores := [], evicts := [], flights := [], run := Run.reset, rcpt := Rcpts.reset, cons := []
    slots := [], queues := [], stages := [], stats := [], layers := [], upd := []
    ports := tmap Port.reset (fun _ p => freshPort p ⟨0, []⟩) s.ports
    commit := { Commit.reset with stale := s.commit.stale }
    e2e := tmap E2e.reset (fun _ x => { E2e.reset with dupReq := x.dupReq, dupRsp := x.dupRsp }) s.e2e
    offices := tmap Office.reset (fun _ o => { o with colls := [], held := [], wheel := Office.reset.wheel, lanesLive := Office.reset.lanesLive }) s.offices
    ckpt := if keepHbm then s.ckpt else Ckpt.reset
    mem := if keepHbm then s.mem.filter (fun x => decide (x.1 < 0x010000000000) || decide (2 ^ 48 ≤ x.1)) else []
    hubs := tmap HubMem.reset (fun _ h => hubDown s.ns keepHbm h) s.hubs
    hdi := tmap HdiPort.reset (fun _ p => { p with retraining := false, up := HdiWay.reset, down := HdiWay.reset }) s.hdi
    bundles := []
    clk := domainsDown s.clk
    ctxs := tmap Ctx.reset (fun _ c => { c with boundNow := false, umbelNow := 0 }) s.ctxs }

/-- Every open episode ends as accounting stops (R390), and its record is posted (R391). -/
def stopAccounting (s : State) : State :=
  (List.range 7).foldl (fun s r => match tget none s.pwr.episodes r with
    | some e => endEpisode s r e (r == 4 && droopQuiet s)
    | none => s) s

/-- The links' and the timebase's power goes: nothing of them but their registers stays. -/
def linksOff (s : State) : State :=
  modTb { s with links := tmap Link.reset (fun _ k => { Link.reset with downCause := k.downCause }) s.links } fun t =>
    { t with st := .unlocked, source := 0xF, probeT1 := none, delays := [] }

/-- Standby (R7, R452): every group but the standby groups is down, and HBM contents are lost; the command unit drops what it
had in progress. -/
def toStandby (s : State) : State :=
  let s0 := modPaths { s with doors := tmap Door.reset (fun _ d => { d with mbBusy := false, mbMute := false, mbStop := false }) s.doors }
    fun p => { p with longs := [] }
  let s1 := linksOff (rampDown (stopAccounting s0) false)
  let s2 := modPins (modStart (modSh { s1 with dev := .standby } fun h => { h with standbyNs := s.ns }) fun x => { x with stage := 0, retMode := false }) fun p =>
    { p with peRdy0 := false, peRdy1 := false }
  modPwr s2 fun p => { p with
             halting := none, level := [], levelNs := [], tempCeil := [], retryNs := [], critNs := [], drooped := [], freq := [], capCeil := 60, curCeil := 60,
             rails := p.rails.filter fun r => r.2 = .retired }

/-- What the fuses and Shordo's flash hold, which nothing but a write changes (R417, R422). -/
def flashOf (h : Shordo) : Shordo :=
  { Shordo.reset with fwA := h.fwA, fwB := h.fwB, keys := h.keys, placeRec := h.placeRec, peerRevoked := h.peerRevoked,
                      repair := h.repair, known := h.known, serial := h.serial,
                      svnFused := h.svnFused, revoked := h.revoked, debugLock := h.debugLock, factory := h.factory }

/-- Off (R7, R453): nothing is powered; the pins, the flash and the host's memory are outside. -/
def toOff (s : State) : State :=
  { State.reset with pending := s.pending, out := s.out, free := s.free, ns := s.ns, hostMem := s.hostMem,
                     pins := { s.pins with peRdy0 := false, peRdy1 := false }, sh := flashOf s.sh }

/-- Failed (R7, R450): the cause and the stage of a start-up that ends so stay readable (R449). -/
def toFailed (s : State) (cause : BitVec 8) : State :=
  let n := s.start.stage
  let s1 := toStandby s
  modStart { s1 with dev := .failed } fun x => if n = 0 then x else { x with failCause := cause, failStage := n }

/-- A link enters the Dormant configuration (R279). -/
def dormLink (s : State) (l : Nat) : State :=
  if linkUp s l then
    let k := linkOf s l
    askWidth (modLink s l fun k' => { k' with dormHeld := some (k.lanes, k.rate) }) l 3 2
  else s

/-- A link leaves the Dormant configuration (R279). -/
def wakeLink (s : State) (l : Nat) : State :=
  match (linkOf s l).dormHeld with
  | some w => if linkUp s l then askWidth (modLink s l fun k => { k with dormHeld := none }) l w.1 w.2
              else modLink s l fun k => { k with dormHeld := none }
  | none => s

/-- Dormant or Halted-Coolant (R279, R393, R452): HBM in self-refresh, links narrow, core and hub groups down. -/
def toLow (s : State) (d : Dev) : State :=
  let s1 := (List.range 12).foldl dormLink (rampDown (stopAccounting s) true)
  modPwr (modStart { s1 with dev := d } fun x => { x with stage := 0, retMode := false }) fun p =>
    { p with halting := none, drooped := [], freq := [], capCeil := 60, curCeil := 60, retryNs := []
             rails := p.rails.filter fun r => r.2 = .retired || r.1 % 1024 == 0 || r.1 % 1024 == 4 }

/-! ### Bandwidth under throttle (R235, R236) -/

/-- The deliverable bandwidth of a hub, in 0.1 GB/s (R235). -/
def deliverable (h : HubMem) : Nat :=
  ((List.range 4).map fun i => match (tget 0 h.throttle i).toNat with | 0 => 16384 | 1 => 12288 | _ => 4096).sum

/-- The sums of latency-critical and best-effort guarantees on a hub's HBM, in 0.1 GB/s. -/
def guarSums (h : HubMem) : Nat × Nat :=
  let f := fun (lc : Bool) => ((h.guars.filter fun g => !guTarget g.ent && guLc g.ent == lc).map fun g => (guGbps g.ent).toNat * 10).sum
  (f true, f false)

/-- The rate of one guarantee under D (R235), exactly: 0.1 GB/s as a fraction. -/
def guarRate (d l b : Nat) (g : Guar) : Nat × Nat :=
  let n := (guGbps g.ent).toNat * 10
  if guTarget g.ent then (n, 1)
  else if l + b ≤ d then (n, 1)
  else if l ≤ d then (if guLc g.ent then (n, 1) else (n * (d - l), b))
  else if guLc g.ent then (n * d, l) else (0, 1)

/-- mem.guarantee_shortfall (R235). -/
def postShort (s : State) (h : Nat) (x : Shortfall) (ongoing : Bool) : State :=
  post s (srcUnit s 0xA0 h 0) (clock s (domHub h)) evMemGuaranteeShortfall none eOk
    [(8, h), (64, x.since.toNat), (32, (s.ns - x.sinceNs) / 1000), (16, x.lowest / 10), (8, b2n x.lcCut), (8, b2n ongoing)]

/-- A hub's guarantees take the rates of its deliverable bandwidth; a shortfall begins, deepens or ends (R235). -/
def setRates (s : State) (h : Nat) : State :=
  let m := hubOf s h
  let d := deliverable m
  let l := (guarSums m).1
  let b := (guarSums m).2
  let s1 := modHub s h fun m => { m with guars := m.guars.map fun g => { g with rate := guarRate d l b g } }
  if d < l + b then
    modHub s1 h fun m => { m with short := some (match m.short with
      | some x => { x with lowest := min x.lowest d, lcCut := x.lcCut || decide (d < l) }
      | none => { since := clock s (domHub h), sinceNs := s.ns, lowest := d, lcCut := decide (d < l), lastNs := s.ns }) }
  else match m.short with
    | some x => modHub (postShort s1 h x false) h fun m => { m with
        short := none, shortUs := m.shortUs + BitVec.ofNat 48 ((s.ns - x.sinceNs) / 1000) }
    | none => s1

/-! ### Failure warnings by temperature (row 3 of R320) -/

/-- The key under which a sensor's samples stand: first whether it warns now, then (ns, temperature) pairs a second apart. -/
def tempKey (k : Nat) : Nat := 2 ^ 40 + k

/-- The newest sample that is at least 10 s old. -/
def tenAgo (now : Nat) : List Nat → Option Nat
  | t :: c :: rest => match tenAgo now rest with
    | some x => some x
    | none => if t + 10000000000 ≤ now then some c else none
  | _ => none

/-- The samples without those older than 11 s. -/
def pruneOld (now : Nat) : List Nat → List Nat
  | t :: x :: rest => if t + 11000000000 < now then pruneOld now rest else t :: x :: rest
  | r => r

/-- The samples with the reading `c` added, one a second. -/
def addSample (now c : Nat) (l : List Nat) : List Nat :=
  let p := pruneOld now l
  match p.reverse with
  | _ :: t :: _ => if t + 1000000000 ≤ now then p ++ [now, c] else p
  | _ => p ++ [now, c]

/-- A reading within 5 degrees of threshold `lim`, and 3 degrees above that of 10 s before, is a failure warning. -/
def warmWarn (s : State) (src : BitVec 32) (pm : Pm) (ch : BitVec 32) (k lim c : Nat) : State :=
  let old := tget [] s.sh.warnHits (tempKey k)
  let hot := decide (lim ≤ c + 5) && (match tenAgo s.ns (old.drop 1) with | some x => decide (x + 3 ≤ c) | none => false)
  let s1 := modSh s fun x => { x with warnHits := tput [] x.warnHits (tempKey k) (b2n hot :: addSample s.ns c (old.drop 1)) }
  if hot && old.head? != some 1 then warn s1 src pm 3 ch else s1

/-! ### Halts (R393, R451) -/

/-- The cause as pwr.halted reports it: the code of its reason (R390). -/
def causeCode : HaltCause → Nat
  | .coolant => 5
  | .tempDie => 1
  | .tempHbm => 2

/-- A halt begins (R393): the schedule is held, a STOP of scope 1 goes out. In Dormant the state alone changes; in start-up or a
return before stage 6 is complete the package falls back to Standby (R451). -/
def beginHalt (s : State) (c : HaltCause) : State :=
  let n := s.start.stage
  let halt := modPwr (originStop (quiesceSched s) true 1) fun p => { p with halting := some (c, s.ns) }
  if s.pwr.halting.isSome then s
  else if n != 0 then (if n.toNat ≤ 6 then modStart (toStandby s) fun x => { x with failStage := n } else halt)
  else match s.dev with
    | .dormant => { s with dev := .haltedCoolant }
    | .ready => halt
    | _ => s

/-- The halt is complete (R393): Halted-Coolant, and pwr.halted with its cause. -/
def halted (s : State) (c : HaltCause) : State :=
  post (toLow s .haltedCoolant) (pwrSrc s) (pwrPm s) evPwrHalted none eInternal [(8, causeCode c)]

end Sys2Proof.Machine
end

