-- ==== Sys2Proof/Machine/HostOps.lean ====
section
/-! DEFINITION. The host's paths (R336 to R348): the PCIe functions, the doorbell pages, the command unit with its round
robin, checks, locks and completions. -/

namespace Sys2Proof.Machine

/-! ### The PCIe functions (R336, R440) -/

/-- Function `port` serves the host: its hub tile has settled, and PERST is deasserted (R440). -/
def fnReady (s : State) (port : Bool) : Bool :=
  powered s && (if port then s.pins.peRdy1 && s.pins.perstN1 else s.pins.peRdy0 && s.pins.perstN0)

/-- Some function reaches BAR0, which both present alike (R337). -/
def bar0Up (s : State) : Bool := fnReady s false || fnReady s true

/-- The source id of a PCIe port (R407). -/
def portSrc (s : State) (port : Bool) : BitVec 32 := srcUnit s 0xE3 0 (b2n port)

/-- The postmark of a PCIe port's domain. -/
def portPm (s : State) (port : Bool) : Pm := clock s (domPcie (b2n port))

/-! ### Doorbell pages (R342, R343) -/

/-- The BAR0 offset of register `off` of page `c` (R339). -/
def pageOff (c : Fin 64) (off : Nat) : Nat := 0x01000000 + c.val * 0x1000 + off

/-- A refused index write (R343): the offset, the value, the port. -/
def doorbellBad (s : State) (c : Fin 64) (off : Nat) (port : Bool) (v : BitVec 32) : State :=
  post s (portSrc s port) (portPm s port) evHostDoorbellBad (some (BitVec.ofNat 6 c.val)) eOk
    [(32, pageOff c off), (32, v.toNat), (8, b2n port)]

/-- A write of DB.MB_TAIL is accepted (R343). -/
def tailOk (d : Door) (t : BitVec 32) : Bool :=
  decide ((t - d.mbHead).toNat ≤ 2 ^ d.mbSize.toNat) && decide ((t - d.mbTail).toNat ≤ 2 ^ d.mbSize.toNat)

/-- A write of DB.EV_HEAD is accepted (R343). -/
def headOk (d : Door) (h : BitVec 32) : Bool := decide ((h - d.evHead).toNat ≤ (d.evTail - d.evHead).toNat)

/-- The context exists (R366): its mailbag and ring may be enabled. -/
def ctxValid (s : State) (c : Nat) : Bool := cfgValid (ctxOf s c).cfg

/-- A base is 4 KiB-aligned. -/
def baseOk (b : BitVec 64) : Bool := fld b 0 12 == 0

/-- A write of DB.MB_CTL (R342, R343, R367). While `en` is 1 only `en` acts: clearing it waits for the descriptor in progress. -/
def mbCtl (valid : Bool) (d : Door) (v : BitVec 32) : Door :=
  if d.mbEn then
    if bit v 31 then d else if d.mbBusy then { d with mbStop := true } else { d with mbEn := false }
  else
    let e := { d with mbPort := bit v 30, mbSize := fld v 0 5 }
    if bit v 31 && valid && baseOk e.mbBase && decide (6 ≤ e.mbSize.toNat) && decide (e.mbSize.toNat ≤ 16) then
      { e with mbEn := true, mbHead := 0, mbTail := 0, mbStop := false }
    else e

/-- The fields of DB.EV_CTL that can be written at any time. -/
def evSoft (d : Door) (v : BitVec 32) : Door :=
  { d with pkgEv := bit v 29, irqEn := bit v 28, alarms := bit v 27, logs := bit v 26, traces := bit v 25, irqGap := fld v 8 8 }

/-- A write of DB.EV_CTL (R342, R343, R367). -/
def evCtl (valid : Bool) (d : Door) (v : BitVec 32) : Door :=
  let e := evSoft d v
  if d.evEn then { e with evEn := bit v 31 }
  else
    let e := { e with evPort := bit v 30, evSize := fld v 0 5 }
    if bit v 31 && valid && baseOk e.evBase && decide (6 ≤ e.evSize.toNat) && decide (e.evSize.toNat ≤ 20) then
      { e with evEn := true, evHead := 0, evTail := 0 }
    else e

/-- A function-level reset, PERST or link loss of `port` at one page (R338): its mailbag and ring are disabled; a descriptor
in progress completes without a record. -/
def doorReset (port : Bool) (d : Door) : Door :=
  let m := if d.mbPort == port then { d with mbEn := false, mbStop := false, mbMute := d.mbMute || d.mbBusy } else d
  if m.evPort == port then { m with evEn := false } else m

/-! ### The command unit (R345) -/

/-- Mailbag `c` holds work that may be taken (R345, R362). -/
def takeable (s : State) (c : Nat) : Bool :=
  let d := doorOf s c
  d.mbEn && !d.mbStop && !d.mbBusy && d.mbHead != d.mbTail && !(d.owed.any fun r => r.cls = .completion) && fnReady s d.mbPort

/-- How far context `c` lies after the last one served. -/
def turnDist (s : State) (c : Nat) : Nat := (c + 127 - s.paths.lastCtx) % 64

/-- The most long commands at once (R345). -/
def longMax : Nat := 16

/-- The round robin has come to mailbag `c` (R345). With 16 long commands running, mailbags whose head is long are passed
over, so the order among the others is not held. -/
def myTurn (s : State) (c : Fin 64) : Bool :=
  takeable s c.val && (decide (longMax ≤ s.paths.longs.length) ||
    (List.range 64).all fun i => !takeable s i || decide (turnDist s c.val ≤ turnDist s i))

/-- The postmark of the command unit: hub C0's, or port 0's while the hub is powered down (R348). -/
def cmdPm (s : State) : Pm :=
  if (ctrOf s (domHub 0)).on then clock s (domHub 0) else clock s (domPcie 0)

/-- A completion (R360). -/
def completion (s : State) (c : Fin 64) (tag : BitVec 32) (irq : Bool) (index : BitVec 32) (op : BitVec 8) (err : Err)
    (result : BitVec 64) : Rec :=
  { pm := cmdPm s, source := srcUnit s 0xAD 0 0, code := 0, cls := .completion, ctx := BitVec.ofNat 6 c.val, pkg := false
    err := err, count := 1, multi := false, body := tag ++ op ++ index ++ result ++ (0 : BitVec 216), irq := irq }

/-- The mailbag after its descriptor `index` completes. -/
def doorDone (index : BitVec 32) (d : Door) : Door :=
  if d.mbMute then { d with mbBusy := false, mbMute := false }
  else { d with mbBusy := false, mbHead := index + 1, mbEn := d.mbEn && !d.mbStop, mbStop := false }

/-- A descriptor completes (R345, R343, R338). -/
def completeCmd (s : State) (c : Fin 64) (tag : BitVec 32) (irq : Bool) (index : BitVec 32) (op : BitVec 8) (err : Err)
    (result : BitVec 64) : State :=
  let s1 := modDoor s c.val (doorDone index)
  if (doorOf s c.val).mbMute then s1 else postRec s1 (completion s c tag irq index op err result)

/-- The host address of the descriptor at a mailbag's head (R343, R344). -/
def dscAddr (d : Door) : Nat := d.mbBase.toNat + (d.mbHead.toNat % 2 ^ d.mbSize.toNat) * 64

/-- The command unit serves mailbag `c`. The descriptor that a command names is what the host has put into the slot of host memory:
64 bytes, little-endian (R3, R344; LOG 6). -/
def served (s : State) (c : Fin 64) (op : BitVec 8) (d : BitVec 504) : State :=
  modPaths (wrHost s (dscAddr (doorOf s c.val)) (leBytes 64 (op ++ d))) fun p => { p with lastCtx := c.val }

/-- A command that is not long: it fails with the code of its first failing check, or acts and completes. -/
def shortCmd (s : State) (c : Fin 64) (d : BitVec 504) (op : BitVec 8) (why : Option Err) (act : State → State × BitVec 64) : Res :=
  whenever (myTurn s c) s
    (let r := match why with | some _ => (served s c op d, (0 : BitVec 64)) | none => act (served s c op d)
     completeCmd r.1 c (dscTag d) (dscIrq d) (doorOf s c.val).mbHead op (why.getD eOk) r.2)

/-- A long command is started (R345). -/
def startLong (s : State) (c : Fin 64) (d : BitVec 504) (op : BitVec 8) (lk : Lock) (cmd : LongCmd) : State :=
  modPaths (modDoor s c.val fun x => { x with mbBusy := true }) fun p => { p with
    longs := p.longs ++ [{ ctx := c, tag := dscTag d, irq := dscIrq d, index := (doorOf s c.val).mbHead, op := op, lock := lk,
                           cmd := cmd, began := s.ns }] }

/-- A long command: it fails with the code of its first failing check, or starts; `begin_` is what happens at once. -/
def longCmd (s : State) (c : Fin 64) (d : BitVec 504) (op : BitVec 8) (why : Option Err) (lk : Lock) (cmd : LongCmd)
    (begin_ : State → State) : Res :=
  whenever (myTurn s c && decide (s.paths.longs.length < longMax)) s
    (match why with
     | some e => completeCmd (served s c op d) c (dscTag d) (dscIrq d) (doorOf s c.val).mbHead op e 0
     | none => begin_ (startLong (served s c op d) c d op lk cmd))

/-! ### The checks (R346, R348, R448) -/

/-- Start-up, or a return to Ready, is in progress. -/
def starting (s : State) : Bool := s.start.stage != 0


/-- The package lock is held. -/
def pkgLocked (s : State) : Bool := s.paths.longs.any fun l => l.lock = .package

/-- Two ranges of addresses, each a base and a length, overlap. -/
def overlaps (a b : Nat × Nat) : Bool := decide (a.1 < b.1 + b.2) && decide (b.1 < a.1 + a.2)

/-- Some of the ranges is held by a long command. -/
def rangeLocked (s : State) (l : List (Nat × Nat)) : Bool :=
  s.paths.longs.any fun x => match x.lock with | .ranges m => l.any fun a => m.any (overlaps a) | _ => false

/-- Some of the links is held by a long command. -/
def linksLocked (s : State) (m : BitVec 12) : Bool :=
  s.paths.longs.any fun x => match x.lock with | .links k => k &&& m != 0 | _ => false

/-- The first of a list of checks that fails. -/
def firstErr : List (Bool × Err) → Option Err
  | [] => none
  | (b, e) :: t => if b then some e else firstErr t

/-- The checks of R346 in their order: the header and the reserved fields, package control, the schedule's state, the locks,
and then the command's own. Until start-up is complete every command but MB_NOP ends in E_STATE (R448); in Dormant and
Halted-Coolant, after the first two steps, every command but MB_NOP and MB_STATE does (R348). -/
def judge (s : State) (c : Fin 64) (d : BitVec 504) (op : BitVec 8) (rsvOk pkg : Bool) (states : List Sched) (locked : Bool)
    (own : Option Err) : Option Err :=
  match firstErr [(starting s && op != 0x01, eState), (dscVersion d != 1, eRange), (!dscRsv d || !rsvOk, eReserved),
                  (pkg && !cfgPkgCtl (ctxOf s c.val).cfg, eKey), (lowPower s && op != 0x01 && op != 0x10, eState),
                  (!states.contains s.sched, eState), (locked, eBusy)] with
  | some e => some e
  | none => own

/-- Every schedule state. -/
def anySched : List Sched := [.none, .loaded, .running, .quiesced, .stopped]

end Sys2Proof.Machine
end

