-- ==== Sys2Proof/Machine/Doors.lean ====
section
/-! DEFINITION. Doorbell pages, the urgent doorbell, the BAR2 window and the PCIe functions' resets (R336 to R343, R358, R359,
R440). -/

namespace Sys2Proof.Machine

/-- The read of the descriptor at a mailbag's head meets a PCIe error (R343): `en` clears, nothing is executed, and host.mb_fault is
posted. -/
def readFaults (s : State) (c : Fin 64) : State :=
  if takeable s c.val then
    post (modDoor s c.val fun d => { d with mbEn := false }) (srcUnit s 0xAD 0 0) (cmdPm s) evHostMbFault (some (BitVec.ofNat 6 c.val)) eInternal []
  else s

/-- MB_DOORBELL (R343): a write of DB.MB_TAIL by `port`. With `readFault`, the descriptor that the mailbag now holds at its head cannot
be read. -/
def execMbDoorbell (c : Fin 64) (port : Bool) (v : BitVec 32) (readFault : Bool) (s : State) : Res :=
  whenever (fnReady s port) s
    (let s1 := if tailOk (doorOf s c.val) v then modDoor s c.val fun d => { d with mbTail := v } else doorbellBad s c 0x00C port v
     if readFault then readFaults s1 c else s1)

/-- EV_HEAD_WRITE (R343): a write of DB.EV_HEAD by `port`. -/
def execEvHeadWrite (c : Fin 64) (port : Bool) (v : BitVec 32) (s : State) : Res :=
  whenever (fnReady s port) s
    (if headOk (doorOf s c.val) v then modDoor s c.val fun d => { d with evHead := v } else doorbellBad s c 0x024 port v)

/-- MB_CTL_WRITE (R342, R343, R367). -/
def execMbCtlWrite (c : Fin 64) (v : BitVec 32) (s : State) : Res :=
  whenever (bar0Up s) s (modDoor s c.val fun d => mbCtl (ctxValid s c.val) d v)

/-- EV_CTL_WRITE (R342, R343, R367). -/
def execEvCtlWrite (c : Fin 64) (v : BitVec 32) (s : State) : Res :=
  whenever (bar0Up s) s (modDoor s c.val fun d => evCtl (ctxValid s c.val) d v)

/-- PERSTn_N of a port. -/
def perstHigh (s : State) (port : Bool) : Bool := if port then s.pins.perstN1 else s.pins.perstN0

/-- PERSTn_N of a port takes a level. -/
def setPerst (s : State) (port v : Bool) : State :=
  modPins s fun p => if port then { p with perstN1 := v } else { p with perstN0 := v }

/-- The rings of a port are disabled (R338). -/
def resetDoors (s : State) (port : Bool) : State := { s with doors := tmap Door.reset (fun _ d => doorReset port d) s.doors }

/-- PCIE_RESET (R338, R440): a function-level reset or link loss of a port, or its PERST. -/
def execPcieReset (port perst : Bool) (s : State) : Res :=
  if perst then whenever (perstHigh s port) s (resetDoors (setPerst s port false) port)
  else whenever (fnReady s port) s (resetDoors s port)

/-- PERSTN_DEASSERT (R440): with PEn_RDY asserted, function n is ready for configuration. -/
def execPerstnDeassert (port : Bool) (s : State) : Res :=
  whenever (!perstHigh s port) s
    (let s1 := setPerst s port true
     if fnReady s1 port then send s1 (.ready port) else s1)

/-- A write of HOST.URGENT with a known action (R358, R359). -/
def urgentWrite (s : State) (isStop : Bool) (scope : BitVec 2) : State :=
  let s1 := if scope = 0 then s else originStop s isStop (scope.toNat - 1)
  urgentAct s1 isStop s1.place.addr s1.regs.stopSent scope.toNat

/-- URGENT_QUIESCE (R358, R359). -/
def execUrgentQuiesce (scope : BitVec 2) (s : State) : Res := whenever (bar0Up s) s (urgentWrite s false scope)

/-- URGENT_STOP (R358, R359). -/
def execUrgentStop (scope : BitVec 2) (s : State) : Res := whenever (bar0Up s) s (urgentWrite s true scope)

/-! ### The BAR2 window (R341) -/

/-- An access is made in pieces that no 8-byte boundary divides: (offset, length). -/
def bar2Pieces (off len : Nat) : List (Nat × Nat) :=
  (List.range ((off + len + 7) / 8 - off / 8)).map fun i =>
    let a := max off ((off / 8 + i) * 8)
    (a, min (off + len) ((off / 8 + i + 1) * 8) - a)

/-- Why the window refuses a piece at address `a`; `en` 0 refuses every one, and so does a package that is not Ready. -/
def bar2Fault (s : State) (isWrite : Bool) (a n : Nat) : Option Err :=
  if !s.regs.bar2En || s.dev != .ready then some eState else accessFault s s.regs.bar2Key a n (!isWrite) isWrite

/-- One piece: what is read comes after what was read before. -/
def bar2Piece (isWrite : Bool) (off : Nat) (data : List Byte) (r : State × List Byte) (x : Nat × Nat) : State × List Byte :=
  let s := r.1
  let a := s.regs.bar2Base.toNat * 65536 + x.1
  match bar2Fault s isWrite a x.2 with
  | some e =>
    let s1 := modRegs s fun g => { g with bar2Refused := g.bar2Refused + 1 }
    (post s1 (portSrc s false) (hub0Pm s) evHostBar2Refused none e [],
     if isWrite then r.2 else r.2 ++ List.replicate x.2 0xFF)
  | none =>
    if isWrite then (pkgWrite s a ((data.drop (x.1 - off)).take x.2), r.2) else (s, r.2 ++ pkgRead s a x.2)

/-- BAR2_ACCESS (R341): `len` bytes at window offset `off`; a write carries its bytes, and `ecc` is what the codes
met (R213). -/
def execBar2Access (isWrite : Bool) (off : BitVec 33) (len : Nat) (data : List Byte) (ecc : EccAt) (s : State) : Res :=
  let span := [(s.regs.bar2Base.toNat * 65536 + off.toNat, len)]
  let open_ := s.regs.bar2En && s.dev = .ready
  whenever (bar0Up s && !(open_ && anyWaits s span) && len != 0 && decide (off.toNat + len ≤ 2 ^ 33) && (!isWrite || data.length == len)) s
    (let r := (bar2Pieces off.toNat len).foldl (bar2Piece isWrite off.toNat data) (if open_ then metEcc s ecc span else s, [])
     if isWrite then r.1 else send r.1 (.bar2 r.2))

end Sys2Proof.Machine
end

