-- ==== Sys2Proof/Machine/Link.lean ====
section
/-! DEFINITION. The commands of the torus links (R261 to R265, R280 to R282). -/

namespace Sys2Proof.Machine

/-- FLIT_RECEIVED (R261, R257, R259, R262). -/
def execFlitReceived (l : Fin 12) (f : Flit) (s : State) : Res := whenever (linkUp s l.val) s (flitArrives s l.val f)

/-- ACK_TIMEOUT (R262): 1 us without an acknowledgement past the oldest flit. -/
def execAckTimeout (l : Fin 12) (s : State) : Res :=
  whenever (linkUp s l.val && !(linkOf s l.val).replay.isEmpty && decide ((linkOf s l.val).ackNs + 1000 ≤ s.ns)) s
    (replayNeeded s l.val)

/-- RETRAIN_DONE (R263, R266, R463): the lanes that passed at the rate now tried; the link takes its `gcm_en` as it now
stands, and a peer that does not holds it Down. An outcome after the 40 us comes too late. -/
def execRetrainDone (l : Fin 12) (lanesOk : BitVec 8) (rate : BitVec 2) (gcmPeer : Bool) (s : State) : Res :=
  whenever ((linkOf s l.val).st = .retraining && rate == (linkOf s l.val).rate) s
    (if (linkOf s l.val).stNs + 40000 < s.ns then linkFails s l.val 2
     else if (linkOf s l.val).live &&& lanesOk = 0 then retrainLower s l.val
     else if gcmPeer ≠ s.regs.gcmEn.getLsbD l.val then authFails s l.val 6 7
     else retrained (modLink s l.val fun k => { k with gcm := gcmPeer }) l.val lanesOk)

/-- RETRAIN_TIMEOUT (R263): 40 us pass. -/
def execRetrainTimeout (l : Fin 12) (s : State) : Res :=
  whenever ((linkOf s l.val).st = .retraining && decide ((linkOf s l.val).stNs + 40000 ≤ s.ns)) s (linkFails s l.val 2)

/-- TRAINING_START (R446, R280, R252): the peer answers a link that waits for it; this end sends it its package address, its link
number, ID.PART and its stepping. -/
def execTrainingStart (l : Fin 12) (s : State) : Res :=
  let k := linkOf s l.val
  whenever (k.st = .down && k.waitPeer && s.place.set && !k.authHeld) s
    (send (modLink s l.val fun k => { k with st := .training, stNs := s.ns, gcm := s.regs.gcmEn.getLsbD l.val })
      (.train l s.place.addr (BitVec.ofNat 4 l.val) idPart (idRev.setWidth 16)))

/-- TRAINING_DONE (R280 to R282, R252, R427). An outcome after the 150 ms comes too late. -/
def execTrainingDone (l : Fin 12) (r : TrainResult) (s : State) : Res :=
  whenever ((linkOf s l.val).st = .training) s
    (if (linkOf s l.val).stNs + 150000000 < s.ns then linkFails s l.val 3 else trained s l.val r)

/-- TRAINING_TIMEOUT (R263): 150 ms pass. -/
def execTrainingTimeout (l : Fin 12) (s : State) : Res :=
  whenever ((linkOf s l.val).st = .training && decide ((linkOf s l.val).stNs + 150000000 ≤ s.ns)) s (linkFails s l.val 3)

/-- WIDTH_CHANGE_DONE (R263, R265). -/
def execWidthChangeDone (l : Fin 12) (ok : Bool) (s : State) : Res :=
  whenever ((linkOf s l.val).st = .changing) s
    (if ok then widthChanged s l.val else startRetrain s l.val)

/-- LINK_CTL (R265, R276): a request of the peer, a retrain notice, a down notice, its answer to a request; the announcement of a
link that waits has no effect of its own (TRAINING_START is the peer's answer). A frame that fails its CRC is discarded (R275). -/
def execLinkCtl (l : Fin 12) (crcOk : Bool) (kind : BitVec 3) (lanes rate : BitVec 2) (s : State) : Res :=
  if laneUp s && crcOk then
    match kind.toNat with
    | 0 => whenever (linkUp s l.val && rate != 3) s (peerWidth s l.val lanes rate)
    | 1 => whenever (linkUp s l.val) s (startRetrain s l.val)
    | 2 => whenever ((linkOf s l.val).st != .down) s (goDown s l.val 8)
    | 3 => whenever (linkUp s l.val && rate != 3) s (peerAnswers s l.val lanes rate)
    | _ => .next s
  else .next s

/-- NEW_EPOCH (R282): after 2^40 flits under one key epoch a new key is derived. -/
def execNewEpoch (l : Fin 12) (s : State) : Res :=
  let k := linkOf s l.val
  whenever (k.gcm && linkUp s l.val && decide (2 ^ 40 ≤ k.epochFlits)) s
    (modLink s l.val fun k => { k with keyEpoch := k.keyEpoch + 1, epochFlits := 0 })

end Sys2Proof.Machine
end

