-- ==== Sys2Proof/Machine/BootOps.lean ====
section
/-! DEFINITION. What start-up and a return to Ready share (R14 to R16, R382, R394, R404 to R406, R441, R452): the channels in
force, the sites that ramp, the spare map, the beginning of stage 3. -/

namespace Sys2Proof.Machine

/-! ### Channels (R405) -/

/-- The channel of a repair record entry. -/
def rrChannel (e : BitVec 128) : BitVec 32 := fld e 96 32

/-- The channels retired at a start-up (R406): the fused factory repairs, every uncleared entry, those still to be written,
and those that a full record could not take. -/
def inForce (h : Shordo) : List (BitVec 32) :=
  (h.factory ++ (((repairs h).filter fun e => !rrCleared e).map rrChannel) ++ h.repairQ.map rrChannel ++ h.unrec).dedup

/-- Site `n` is retired: itself, or one of its rail groups (R383, R405). -/
def siteGone (r : List (BitVec 32)) (n : Nat) : Bool := r.any fun c => (chKind c == 3 || chKind c == 4) && chSite c == n

/-- The sites that ramp (R12, R15, R382): the first eight of each quadrant that are not retired and do not need
more spare clusters than they have. -/
def activeSites (r : List (BitVec 32)) : List Nat :=
  (List.range 4).flatMap fun q => (((List.range 9).map (· + 9 * q)).filter fun n => !siteGone r n && !sparesShort r n).take 8

/-- The rail groups after a ramp (R381, R382): every group of the hub tiles, the standby and transit groups of the Yarrow tiles, and
the core groups of the sites that ramp, but for those retired. -/
def railsOn (r : List (BitVec 32)) (act : List Nat) : Tab RailSt :=
  let dead := (r.filter fun c => chKind c == 4).map fun c => chSite c * 1024 + chCluster c
  let up := ((List.range 4).flatMap fun h => [(36 + h) * 1024, (36 + h) * 1024 + 3, (36 + h) * 1024 + 4]) ++
    ((List.range 36).flatMap fun n => [n * 1024, n * 1024 + 1]) ++ act.map fun n => n * 1024 + 2
  dead.foldl (fun t k => tput .off t k .retired) (up.foldl (fun t k => tput .off t k .on) [])

/-! ### Conditions (R394, R441) -/

/-- FLOW_OK has been asserted for 1 s. -/
def flowHeld (s : State) : Bool := s.pwr.flowOk && (match s.pwr.flowSince with | some t => decide (t + 1000000000 ≤ s.ns) | none => false)

/-- The same, and the trip input is deasserted. -/
def flowSteady (s : State) : Bool := flowHeld s && s.pins.thermTripN

/-- Stage 3 may begin (R441), but for its start condition. -/
def startReady (s : State) : Bool := flowSteady s && s.pins.sysclk

/-- Every sensor reads below its level 1 exit temperature: 97 degrees on a die or Teasel sensor, 82 on a stack (R236, R389). -/
def sensorsCool (s : State) : Bool :=
  (s.pwr.temps.all fun x => decide (x.2 < 97)) && s.hubs.all fun h => h.2.temp.all fun x => decide (x.2 < 82)

/-- A package in Halted-Coolant may leave it (R394). -/
def coolAgain (s : State) : Bool := flowSteady s && !s.pwr.trip && sensorsCool s

/-! ### Stage 3 (R382, R440, R452) -/

/-- Stage `n` begins. -/
def enterStage (s : State) (n : BitVec 4) : State := modStart s fun x => { x with stage := n, stageNs := s.ns }

/-- Milliseconds since stage 3 began, saturating (R449). -/
def elapsed (s : State) : BitVec 20 := BitVec.ofNat 20 (min ((s.ns - s.start.startNs) / 1000000) (2 ^ 20 - 1))

/-- The exact counters clear at start-up (R415), but for those of the image's objects and of a context,
and those in registers, which a boot resets (R453); trace sources count anew (R414). -/
def clearCounters (s : State) : State :=
  { s with
    ports := [], offices := [], e2e := [], linkCtr := []
    commit := { s.commit with stale := [] }
    hdi := tmap HdiPort.reset (fun _ p => { p with replays := 0, transient := 0 }) s.hdi
    hubs := tmap HubMem.reset (fun _ m => { m with shortUs := 0 }) s.hubs
    sites := []
    paths := { s.paths with courierDrop := [], traceCount := [] }
    regs := { s.regs with bar0Bad := 0, bar2Refused := 0, urgBad := 0 } }

/-- The clusters whose domains power up at stage 3: the logical ones of the sites that ramp. The spare clusters' domains, and
every cluster's of a spare site, stay off (R34). -/
def spareDomains (act : List Nat) : List Nat :=
  (List.range 36).flatMap fun n => if act.contains n then (List.range 10).map fun i => domPhys n (160 + i) else (List.range 170).map (domPhys n)

/-- The clock domains as the rails come up (R32, R34): each that powers up waits for its correction message. -/
def powerClocks (period : Nat) (act : List Nat) (k : Clocks) : Clocks :=
  let off := Ctr.reset
  { (k.map (powerUp period 100)) with cl := (spareDomains act).map fun d => (d, off), clDef := powerUp period 100 k.clDef }

/-- The spare clusters in use power up (R34). -/
def powerSpares (s : State) : State := (tkeys s.sh.spareCl).foldl powerCluster s

/-- Stage 3 begins: the channels in force are judged, the tiles ramp, PEn_RDY asserts (R440), `blade_lost` ends (R380). `ret`: a return to
Ready. -/
def beginStage3 (s : State) (ret : Bool) : State :=
  let r := inForce s.sh
  let s0 := if ret then s else clearCounters s
  let s1 := modSh s0 fun h => { h with retired := r, active := activeSites r, chanCorr := if ret then h.chanCorr else []
                                       chanTrans := if ret then h.chanTrans else [] }
  let s2 := modPwr s1 fun p => { p with rails := railsOn r (activeSites r), retryNs := [], bladeLost := ret && p.bladeLost }
  let s3 := modPins s2 fun p => { p with peRdy0 := true, peRdy1 := true }
  let s4 : State := { s3 with sites := tmap Site.reset (fun _ x => { Site.reset with guestErr := x.guestErr }) s3.sites
                              clk := powerClocks s3.tb.beatPeriod.toNat (activeSites r) s3.clk
                              sec := if ret then s3.sec else { s3.sec with debug := false } }
  enterStage (modStart (if ret then powerSpares s4 else s4) fun x => { x with done := false, retMode := ret, startNs := s.ns, elapsedMs := 0, shordo := .up }) 3

/-- A return to Ready begins (R452): the hub and Yarrow groups ramp as in stage 3. -/
def beginReturn (s : State) : State := beginStage3 s true

/-! ### The spare map (R12 to R16, R406) -/

/-- The site serves after stages 3 and 4: it ramped, and its die was accepted. -/
def siteServes (s : State) (n : Nat) : Bool :=
  let x := siteOf s n
  s.sh.active.contains n && !x.failed && x.mode != .empty && !sparesShort s.sh.retired n

/-- The sites of quadrant `q` that serve, in ascending order: logical die 8q + i is the i-th. -/
def quadSites (s : State) (q : Nat) : List Nat := ((List.range 9).map (· + 9 * q)).filter (siteServes s)

/-- The physical site of logical die `d`; 0xFF where it is absent (R462). -/
def siteFor (s : State) (d : Nat) : Nat := (quadSites s (d / 8)).getD (d % 8) 255

/-- The replacements of die `d` on site `n`: logical clusters with their spares, and the cores that a spare core replaces. -/
def dieSpares (r : List (BitVec 32)) (n : Nat) : List (Nat × Nat) × List (Nat × Nat) :=
  let lost := clustersGone r n
  let pairs := if lost.isEmpty then [] else (needSpares lost).zip (haveSpares lost)
  let cores := ((coresGone r n).filter fun x => !lost.contains x.1 && x.2 != 16).filterMap fun x =>
    if x.1 < 160 then some x else (pairs.find? fun p => p.2 == x.1).map fun p => (p.1, x.2)
  (pairs, cores)

/-- The adder lanes of hub `h`'s sorting office that live (R302, R405). -/
def lanesLeft (r : List (BitVec 32)) (h : Nat) : Nat :=
  32 - (r.filter fun c => chKind c == 0x0C && fld c 22 2 == BitVec.ofNat 2 h && fld c 16 6 == 0).length

/-- The retired pseudo-channels of hub `h`. -/
def pcsGone (r : List (BitVec 32)) (h : Nat) : List (BitVec 8) :=
  (r.filter fun c => chKind c == 0x0A && fld c 22 2 == BitVec.ofNat 2 h).map fun c => fld c 14 8

/-- Stage 5 (R406, R12): the spare map of sites, clusters and cores; offices and controllers take their retired parts. -/
def buildSpareMap (s : State) : State :=
  let r := s.sh.retired
  let dies := (List.range 32).map fun d => (d, siteFor s d)
  let reps := (dies.filter fun x => x.2 != 255).map fun x => (x.1, dieSpares r x.2)
  let s1 := modSh s fun h => { h with
    spareReq := []
    spareLate := []
    spareSite := dies.foldl (fun t x => tput (9 * (x.1 / 8) + x.1 % 8) t x.1 x.2) []
    spareCl := reps.foldl (fun t x => x.2.1.foldl (fun t p => tput p.1 t (x.1 * 256 + p.1) p.2) t) []
    spareCore := reps.foldl (fun t x => x.2.2.foldl (fun t p => tput p.2 t (x.1 * 4096 + p.1 * 16 + p.2) 16) t) [] }
  let s2 := powerSpares s1
  (List.range 4).foldl (fun s q => modHub (modOffice s q fun o => { o with lanesLive := BitVec.ofNat 6 (lanesLeft r q) }) q fun m =>
    { m with pcDead := pcsGone r q }) s2

end Sys2Proof.Machine
end

