-- ==== Sys2Proof/Machine/MmaOps.lean ====
section
/-! DEFINITION. What the MXA and the VXE's MV share: operand decoding (R57 to R65), and adding K-groups into entries with
the overflow repeats (R101 to R111). -/

namespace Sys2Proof.Machine

/-- INT4, or INT8 without block scales (R58). -/
def intValued (f : Nat) (mxs : Bool) : Bool := f == 0 || (f == 1 && !mxs)

/-- The pairing conditions of R57 to R59; `sat` is the MMA's. -/
def pairFault (fa fb : Nat) (mxs sat : Bool) : Bool :=
  fmtClass fa == 0 || fmtClass fb == 0 || fmtClass fa != fmtClass fb ||
  intValued fa mxs != intValued fb mxs ||
  (mxs && [0, 6, 7, 9].any fun x => x == fa || x == fb) ||
  (sat && !intValued fa mxs)

/-- K-depth of a class (R57). -/
def kDepth (f : Nat) : Nat := 128 / fmtClass f

/-- Bytes of an operand's part of the scale block (R64). -/
def partSize (f : Nat) (mxs : Bool) : Nat := if f = 9 then 96 else if mxs then 16 else 0

/-- One operand row of an MMA: 16 bytes, its part of the scale block, the escapes its group has used (R64, R65). -/
def rowVals (f : Nat) (mxs ftz : Bool) (row part : List Byte) (i esc : Nat) : List Val × BitVec 8 :=
  let codes := (List.range (kDepth f)).map (codeAt f row)
  if f = 9 then
    let h := q4Hdr ftz ((part.drop (12 * i)).take 12)
    let r := q4Codes h esc codes
    (r.map Prod.fst, h.fl ||| flagsOf r)
  else
    let vs := codes.map (readElem f mxs ftz)
    let fl := flagsOf vs
    if mxs then
      let b := part.getD i 0
      (vs.map (fun v => scaled b v.1), fl ||| (if b = 0xFF then fMxNan else 0))
    else (vs.map Prod.fst, fl)

/-- The eight rows of an operand tile. -/
def tileVals (f : Nat) (mxs ftz : Bool) (tile part : List Byte) (esc : List Nat) : List (List Val) × BitVec 8 :=
  let rs := (List.range 8).map fun i => rowVals f mxs ftz ((tile.drop (16 * i)).take 16) part i (esc.getD i 0)
  (rs.map Prod.fst, rs.foldl (fun a r => a ||| r.2) 0)

/-- The exact products of two K-groups (R100). -/
def products (a b : List Val) : List Val := List.zipWith mulVal a b

/-- How a group of entries is accumulated. -/
structure AccMode where
  int   : Bool
  sat   : Bool
  audit : Bool
  ftz   : Bool
  ifmt  : Nat
  deriving DecidableEq, Repr

/-- One entry after one K-group at `rep` repeats: the entry, flags, whether it overflowed, and what it saturates to. -/
structure EntR where
  ent : BitVec 64
  fl  : BitVec 8
  big : Bool
  cap : BitVec 64
  wrapped : Bool
  deriving DecidableEq, Repr

/-- What an overflowing entry of exact result `v` takes: the FP32 largest normal of its sign, compensation +0 (R109); a result that is
not finite stays so (R104). -/
def capF (v : Val) : BitVec 64 :=
  (if v.isFin then (if v.isNeg then 0xFF7FFFFF else 0x7F7FFFFF) else BitVec.ofNat 32 (codeOf fFP32 v)) ++ (0 : BitVec 32)

/-- Add one K-group of products into an entry (R101, R103, R105, R108, R110). -/
def addGroup (m : AccMode) (rep : Nat) (e : BitVec 64) (p : List Val) : EntR :=
  if m.int then
    let sum := (fld e 32 32).toInt
    let g := p.foldl (fun g v => g + shiftRound (v.at_ 0) (4 * rep)) 0
    let t := sum + (if rep = 0 then p.foldl (fun g v => g + v.at_ 0) 0 else g)
    let out := decide (t < -(2 ^ 31)) || decide (2 ^ 31 ≤ t)
    let cap : BitVec 32 := if t < 0 then 0x80000000 else 0x7FFFFFFF
    ⟨BitVec.ofInt 32 t ++ (0 : BitVec 32), 0, out && m.sat, cap ++ (0 : BitVec 32), out && !m.sat⟩
  else
    let a := read32 m.ftz (fld e 32 32)
    let c := read32 m.ftz (fld e 0 32)
    let q := p.map (Val.scale (-8 * (rep : Int)))
    let r := if m.audit then ledgerGroup m.ftz ⟨a.1, c.1, 0, false⟩ q else accumulate m.ftz a.1 c.1 (alignedGroup q)
    ⟨BitVec.ofNat 32 (codeOf fFP32 r.a) ++ BitVec.ofNat 32 (codeOf fFP32 r.c), a.2 ||| c.2 ||| r.fl, r.big,
      capF (sumVals (a.1 :: c.1 :: q)), false⟩

/-- An existing entry scaled for a repeat: FP32 by 2^-8 (R108), integer right by 4 bits (R110). -/
def rescaleEnt (m : AccMode) (e : BitVec 64) : BitVec 64 × BitVec 8 :=
  if m.int then (BitVec.ofInt 32 (shiftRound (fld e 32 32).toInt 4) ++ (0 : BitVec 32), 0)
  else
    let f := fun w : BitVec 32 =>
      let v := read32 m.ftz w
      let r := round32 m.ftz (v.1.scale (-8))
      { r with fl := r.fl ||| v.2 }
    let a := f (fld e 32 32)
    let c := f (fld e 0 32)
    (BitVec.ofNat 32 a.code ++ BitVec.ofNat 32 c.code, a.fl ||| c.fl)

/-- What accumulating a set of entries gives. -/
structure SetR where
  ents : List (BitVec 64)
  rep  : Nat
  ovf  : Bool
  eff  : Eff
  deriving DecidableEq, Repr

/-- Accumulate `groups` into `ents` with at most `fuel` further repeats (R108 to R110): on an overflow nothing is
written, every entry is scaled and the pass repeats; after 3 repeats overflowing entries saturate. -/
def accumulateSet (m : AccMode) : Nat → Nat → List (BitVec 64) → List (List Val) → BitVec 8 → SetR
  | fuel, rep, ents, groups, fl =>
    let rs := List.zipWith (addGroup m rep) ents groups
    let fl1 := rs.foldl (fun a r => a ||| r.fl) fl
    let wr := (rs.filter fun r => r.wrapped).length
    match fuel with
    | 0 =>
      let sats := (rs.filter fun r => r.big).length
      ⟨rs.map (fun r => if r.big then r.cap else r.ent), rep, sats != 0,
        ⟨fl1, List.replicate sats (if m.int then m.ifmt else 8) ++ List.replicate wr m.ifmt, []⟩⟩
    | n + 1 =>
      if rs.any (fun r => r.big) then
        let sc := ents.map (rescaleEnt m)
        accumulateSet m n (rep + 1) (sc.map Prod.fst) groups (sc.foldl (fun a x => a ||| x.2) fl1)
      else ⟨rs.map (fun r => r.ent), rep, false, ⟨fl1, List.replicate wr m.ifmt, []⟩⟩

/-- The fresh tag after a pass: kind, repeats, `ovf` kept once set (R109), `audit`. -/
def passTag (m : AccMode) (old : BitVec 8) (r : SetR) : BitVec 8 :=
  mkTag (if m.int then 2 else 1) r.rep (r.ovf || tagOvf old) m.audit

end Sys2Proof.Machine
end

