-- ==== Sys2Proof/Machine/Mxa.lean ====
section
/-! DEFINITION. The matrix array, the accumulator sets and the drain unit (R57 to R67, R100 to R118, R137, R138). An MMA
reads its operands as it enters the queue; its sums are written by MMA_ACCUMULATE in program order (LOG 7). -/

namespace Sys2Proof.Machine

/-! ### Sets and roles (R66, R67) -/

/-- The tag of set `i`. -/
def setTag (k : Core) (i : Bool) : BitVec 8 := if i then k.tag1 else k.tag0

/-- The entries of set `i`. -/
def setEnts (k : Core) (i : Bool) : List (BitVec 64) := tgets 0 k.acc (64 * b2n i) 64

/-- Write set `i`. -/
def putSet (k : Core) (i : Bool) (ents : List (BitVec 64)) (tag : BitVec 8) : Core :=
  let k1 := { k with acc := tputs 0 k.acc (64 * b2n i) ents }
  if i then { k1 with tag1 := tag } else { k1 with tag0 := tag }

/-- Kind and audit of the tags and the active role once every queued operation is done (R67). -/
structure Roles where
  k0 : BitVec 2
  k1 : BitVec 2
  a0 : Bool
  a1 : Bool
  active : Bool
  deriving DecidableEq, Repr

/-- The kind an MMA gives its set. -/
def mmaKind (w : W56) : BitVec 2 := if intValued (mmaFmtA w).toNat (mmaMxs w) then 2 else 1

/-- The roles and tags that the queue's operations leave, in program order. -/
def rolesAfter : List MxaOp → Roles → Roles
  | [], r => r
  | .swap _ :: t, r => rolesAfter t { r with active := !r.active }
  | .mma _ _ w au .. :: t, r =>
    let r1 := if r.active then { r with k1 := mmaKind w, a1 := au } else { r with k0 := mmaKind w, a0 := au }
    rolesAfter t (if mmaSwap w then { r1 with active := !r1.active } else r1)

/-- The roles as the next instruction in program order finds them. -/
def rolesNow (k : Core) : Roles :=
  rolesAfter k.mxaQ ⟨tagKind k.tag0, tagKind k.tag1, tagAudit k.tag0, tagAudit k.tag1, k.active⟩

/-! ### MMA -/

/-- The stream runs under audit (R106). -/
def auditOf (k : Core) : Bool := match k.stream with | some st => st.audit | none => false

/-- The E_FORMAT conditions of an MMA (R57 to R59, R63, R65, R66). -/
def mmaFormatFault (k : Core) (w : W56) : Bool :=
  let fa := (mmaFmtA w).toNat
  let fb := (mmaFmtB w).toNat
  let q4 := fa == 9 || fb == 9
  let r := rolesNow k
  let kind := if r.active then r.k1 else r.k0
  pairFault fa fb (mmaMxs w) (mmaSat w) ||
  (mmaAShift w != 0 && (fa == 9 || (match k.prev with
    | some p => !(p.fmtA == mmaFmtA w && p.mxs == mmaMxs w)
    | none => true))) ||
  (mmaQHalf w && (!q4 || (match k.half with
    | some h => !(h.sAddr == mmaSAddr w && h.fmtA == mmaFmtA w && h.fmtB == mmaFmtB w)
    | none => true))) ||
  (!mmaZero w && kind != 0 && kind != mmaKind w)

/-- The first fault of an MMA (R55): reserved bits, formats, the scale block's range, the audit mode (R106). -/
def mmaFault (k : Core) (w : W56) : Option Err :=
  let r := rolesNow k
  let kind := if r.active then r.k1 else r.k0
  let au := if r.active then r.a1 else r.a0
  let size := partSize (mmaFmtA w).toNat (mmaMxs w) + partSize (mmaFmtB w).toNat (mmaMxs w)
  if !mmaRsv w then some eReserved
  else if mmaFormatFault k w then some eFormat
  else if spSize < (mmaSAddr w).toNat * 16 + size then some eRange
  else if !mmaZero w && kind != 0 && au != auditOf k then some eMode
  else none

/-- The A tile under `a_shift` = n: the latch's rows n to 7, then n fresh rows (R63). -/
def shiftRows (n : Nat) (unit : Nat) (latch fresh : List Byte) : List Byte :=
  if n = 0 then fresh else latch.drop (unit * n) ++ fresh.take (unit * n)

/-- Escapes (code 15) in each row of a Q4X half (R65, R87). -/
def escCounts (f : Nat) (tile : List Byte) (start : List Nat) : List Nat :=
  if f = 9 then (List.range 8).map fun i =>
    start.getD i 0 + ((List.range 32).filter fun j => codeAt 9 ((tile.drop (16 * i)).take 16) j == 15).length
  else start

/-- MMA (R60 to R65): issue stalls while the queue holds 8; the operands are read and the operation queued. -/
def execMma (c : CoreId) (w : W56) (s : State) : Res :=
  issue s c [] fun k =>
    if 8 ≤ k.mxaQ.length then s
    else match mmaFault k w with
    | some e => coreFault (setCore s c k) c e
    | none =>
      let fa := (mmaFmtA w).toNat
      let fb := (mmaFmtB w).toNat
      let pa := partSize fa (mmaMxs w)
      let pb := partSize fb (mmaMxs w)
      let sa := (mmaSAddr w).toNat * 16
      let n := (mmaAShift w).toNat
      let a := shiftRows n 16 (tgets 0 k.latch 0 128) (spRead s c ((mmaATile w).toNat * 128) 128)
      let b := spRead s c ((mmaBTile w).toNat * 128) 128
      let partA := spRead s c sa pa
      let partA := if mmaMxs w then shiftRows n 1 (tgets 0 k.latchSc 0 8) (partA.take 8) ++ partA.drop 8 else partA
      let partB := spRead s c (sa + pa) pb
      let z := List.replicate 8 0
      let h := if mmaQHalf w then k.half else none
      let ea := match h with | some h => h.escA | none => z
      let eb := match h with | some h => h.escB | none => z
      let q4 := fa == 9 || fb == 9
      let half : Option HalfPair := if q4 && !mmaQHalf w then
        some ⟨mmaSAddr w, mmaFmtA w, mmaFmtB w, escCounts fa a ea, escCounts fb b eb⟩ else none
      let op := MxaOp.mma k.seq k.pc w (auditOf k) a b (partA ++ partB) ea eb
      done s c { k with mxaQ := k.mxaQ ++ [op], seq := k.seq + 1, latch := tputs 0 k.latch 0 a,
                        latchSc := if mmaMxs w then tputs 0 k.latchSc 0 (partA.take 8) else k.latchSc,
                        prev := some ⟨mmaFmtA w, mmaMxs w⟩, half := half }

/-- The accumulation of one captured MMA into the active set (R100 to R110). -/
def mmaApply (s : State) (c : CoreId) (k : Core) (pc : BitVec 12) (w : W56) (audit : Bool) (a b sc : List Byte)
    (ea eb : List Nat) : State :=
  let ftz := coreFtz s c
  let fa := (mmaFmtA w).toNat
  let fb := (mmaFmtB w).toNat
  let va := tileVals fa (mmaMxs w) ftz a (sc.take (partSize fa (mmaMxs w))) ea
  let vb := tileVals fb (mmaMxs w) ftz b (sc.drop (partSize fa (mmaMxs w))) eb
  let m : AccMode := ⟨intValued fa (mmaMxs w), mmaSat w, audit, ftz, fa⟩
  let groups := va.1.flatMap fun ra => vb.1.map fun cb => products ra cb
  let old := if mmaZero w then 0 else setTag k k.active
  let rep := (tagRepeats old).toNat
  let ents := if mmaZero w then List.replicate 64 0 else setEnts k k.active
  let r := accumulateSet m (3 - rep) rep ents groups (va.2 ||| vb.2)
  let k1 := putSet k k.active r.ents (passTag m old r)
  let s1 := coreEff (setCore s c k1) c r.eff
  if r.ovf && !tagOvf old then
    post s1 (srcCore s c) (coreClock s c) evMxaAccOvf (some (coreCtx s c)) eAccOvf
      [(16, pc.toNat), (8, eAccOvf.toNat), (8, b2n k.active)]
  else s1

/-- MMA_ACCUMULATE (R103, R105): the oldest queued MMA writes its entries; with `swap` it leaves its swap in the queue. -/
def execMmaAccumulate (c : CoreId) (s : State) : Res :=
  if coreExists c then
    let k := coreOf s c
    match k.mxaQ with
    | .mma seq pc w au a b sc ea eb :: t =>
      .next (mmaApply s c { k with mxaQ := if mmaSwap w then .swap seq :: t else t } pc w au a b sc ea eb)
    | _ => .next s
  else .fault (.noSuchCore c)

/-- ACC.SWAP (R67): a requested swap takes its place in the queue. -/
def execAccSwap (c : CoreId) (w : W56) (s : State) : Res :=
  issue s c [] fun k =>
    if !onlyBits w 0 then coreFault (setCore s c k) c eReserved
    else if 8 ≤ k.mxaQ.length then s
    else done s c { k with mxaQ := k.mxaQ ++ [.swap k.seq], seq := k.seq + 1 }

/-- SWAP (R67): the roles change once every earlier MMA has written and every earlier drain has read the shadow set. -/
def execSwap (c : CoreId) (s : State) : Res :=
  if coreExists c then
    let k := coreOf s c
    match k.mxaQ with
    | .swap seq :: t =>
      whenever (k.drainQ.all fun e => decide (seq < e.seq)) s (setCore s c { k with mxaQ := t, active := !k.active })
    | _ => .next s
  else .fault (.noSuchCore c)

/-! ### Drain (R112 to R118) -/

/-- The drain accepts a format code: not reserved, Q4X or E3M2 (R113). -/
def drainFmtOk (f : Nat) : Bool := decide (f ≤ 8) && f != 3

/-- The value an ACC.DRAIN works on is an integer: integer kind and no rescale (R113, R114). -/
def drainInt (k : Core) (w : W56) : Bool :=
  let r := rolesNow k
  !drRsc w && (if r.active then r.k0 else r.k1) == 2

/-- The first fault of an ACC.DRAIN in the order of R113, then R118 and R137. -/
def drainFault (k : Core) (w : W56) : Option Err :=
  let fo := (drFmtOut w).toNat
  let fe := (drFmtE w).toNat
  let rb := fmtBytes fo 8
  let epi := drEpi w
  let tile := epi == 1 || epi == 2
  let stat := epi == 3
  let st := (drStride w).toNat * 4
  let ea := (drEAddr w).toNat * 16
  let s29 := (sreg k 29).toNat
  if !(drainFmtOk fo && drainFmtOk fe) then some eFormat
  else if tile && (decide (fe ≤ 1) != drainInt k w) then some eFormat
  else if fe != 0 && !tile then some eReserved
  else if (drDst w).toNat % rb != 0 || st % rb != 0 then some eAlign
  else if st == 0 then some eRange
  else if spSize < (drDst w).toNat + 7 * st + rb || (tile && spSize < ea + 8 * fmtBytes fe 8) ||
      (stat && spSize < ea + 64) then some eRange
  else if stat && (match k.stream with | some x => x.mode == .service | none => true) then some eMode
  else if stat && ea % 64 != 0 then some eAlign
  else if drRsc w && s29 % 16 != 0 then some eAlign
  else if drRsc w && spSize < s29 + 80 then some eRange
  else none

/-- ACC.DRAIN (R112): issue stalls while the drain queue holds 4; s29 is read at issue (R137). -/
def execAccDrain (c : CoreId) (w : W56) (s : State) : Res :=
  issue s c (if drRsc w then [29] else []) fun k =>
    if 4 ≤ k.drainQ.length then s
    else match drainFault k w with
    | some e => coreFault (setCore s c k) c e
    | none => done s c { k with drainQ := k.drainQ ++ [⟨k.seq, w, sreg k 29⟩], seq := k.seq + 1 }

/-- No swap earlier than `seq` is outstanding (R67). -/
def swapsDone (seq : Nat) (q : List MxaOp) : Bool :=
  q.all fun o => match o with
    | .mma n _ w .. => !(mmaSwap w && decide (n < seq))
    | .swap n => decide (seq ≤ n)

/-- DRAIN_START (R116): with the earlier swaps done, the drain reads the shadow set, its tag, the epilogue tile and the rescale
block. The previous drain has finished reading, for each reads whole as it starts; its rows may still wait to be written. -/
def execDrainStart (c : CoreId) (s : State) : Res :=
  if coreExists c then
    let k := coreOf s c
    match k.drainQ with
    | e :: t =>
      let ea := (drEAddr e.w).toNat * 16
      let job : DrainJob :=
        { w := e.w, set := setEnts k !k.active, tag := setTag k !k.active,
          epi := if drEpi e.w == 1 || drEpi e.w == 2 then spRead s c ea (8 * fmtBytes (drFmtE e.w).toNat 8) else [],
          blk := if drRsc e.w then spRead s c e.s29.toNat 80 else [] }
      whenever (swapsDone e.seq k.mxaQ) s (setCore s c { k with drainQ := t, drain := k.drain ++ [job] })
    | [] => .next s
  else .fault (.noSuchCore c)

/-- An FP32 word of the rescale block. -/
def blk32 (l : List Byte) (i : Nat) : BitVec 32 := leWord 32 ((l.drop i).take 4)

/-- The rescaled value of one entry (R138): exact, rounded once with the drain's `sat`. -/
def rescale (ftz : Bool) (j : DrainJob) (col : Nat) (v : Val) : Conv :=
  let rep := (tagRepeats j.tag).toNat
  let act := read32 ftz (blk32 j.blk 12)
  let zp := (blk32 j.blk 8).toInt
  let wsum := (blk32 j.blk (16 + 8 * col)).toInt
  let ws := read32 ftz (blk32 j.blk (16 + 8 * col + 4))
  let x := if tagKind j.tag == 2 then addVal (v.scale (4 * rep)) (.ofInt (-(zp * wsum)) 0) else v.scale (8 * rep)
  let r := convF fFP32 .nearest (drSat j.w) ftz (mulVal (mulVal x ws.1) act.1)
  { r with fl := r.fl ||| act.2 ||| ws.2 }

/-- Steps 1 to 3 of R114 for one entry: the value w and what it leaves. -/
def drainValue (ftz : Bool) (j : DrainJob) (r c : Nat) (e : BitVec 64) : Val × Eff :=
  let v0 : Val × Eff := if tagKind j.tag == 2 then (.ofInt (fld e 32 32).toInt 0, Eff.none)
    else let x := entryValue ftz (fld e 32 32) (fld e 0 32); (x.val, Eff.flags x.fl)
  let v1 : Val × Eff := if drRsc j.w then
      let x := rescale ftz j c v0.1
      (x.val, v0.2.and (x.eff 8))
    else v0
  let isInt := tagKind j.tag == 2 && !drRsc j.w
  let fe := (drFmtE j.w).toNat
  let ev := readElem fe false ftz (codeAt fe (j.epi.drop (r * fmtBytes fe 8)) c)
  let fin := fun x : Val => if isInt then (if x.isZero then Val.zero else x, v1.2) else
    let y := round32 ftz x
    (y.val, (v1.2.and (Eff.flags ev.2)).and (y.eff 8))
  match (drEpi j.w).toNat with
  | 1 => fin (addVal v1.1 ev.1)
  | 2 => fin (mulVal v1.1 ev.1)
  | _ => v1

/-- The statistics of one row (R118): the maximum and the compensated sum of its eight values. -/
def rowStat (ftz : Bool) (ws : List Val) : List Byte × BitVec 8 :=
  let fs := ws.map (round32 ftz)
  let mx := (fs.map (·.val)).foldl maxVal (.inf true)
  let acc := fs.foldl (fun (x : BitVec 32 × BitVec 32 × BitVec 8) f =>
    let n := accumulateW ftz x.1 x.2.1 f.val
    (n.1, n.2.1, x.2.2 ||| n.2.2 ||| f.fl)) (0, 0, 0)
  let v := entryValue ftz acc.1 acc.2.1
  (leBytes 4 (BitVec.ofNat 32 (codeOf fFP32 mx)) ++ leBytes 4 (BitVec.ofNat 32 v.code), acc.2.2 ||| v.fl)

/-- One output row: its bytes and what it leaves. -/
def drainRow (ftz : Bool) (j : DrainJob) (r : Nat) : List Byte × List Val × Eff :=
  let fo := (drFmtOut j.w).toNat
  let ws := (List.range 8).map fun c => drainValue ftz j r c (j.set.getD (8 * r + c) 0)
  let cs := ws.map fun x => convElem fo .nearest (drSat j.w) ftz x.1
  (storeCodes fo (cs.map (·.code)), ws.map Prod.fst,
    (ws.foldl (fun e x => e.and x.2) Eff.none).and (convsEff fo cs))

/-- Output row `r` written, with what it leaves. -/
def drainRowWrite (c : CoreId) (ftz : Bool) (j : DrainJob) (x : State × Eff) (r : Nat) : State × Eff :=
  let d := drainRow ftz j r
  (spWrite x.1 c ((drDst j.w).toNat + r * (drStride j.w).toNat * 4) d.1, x.2.and d.2.2)

/-- The rows in ascending order, then under EPI.ROWSTAT the statistics block (R116, R118). -/
def drainWrite (s : State) (c : CoreId) (ftz : Bool) (j : DrainJob) : State × Eff :=
  let x := (List.range 8).foldl (drainRowWrite c ftz j) (s, Eff.none)
  if drEpi j.w == 3 then
    let st := (List.range 8).map fun r => rowStat ftz (drainRow ftz j r).2.1
    (spWrite x.1 c ((drEAddr j.w).toNat * 16) (st.flatMap Prod.fst), st.foldl (fun e p => e.and (Eff.flags p.2)) x.2)
  else x

/-- DRAIN_DONE (R114, R115): the rows of the oldest drain that has read are written and its tag goes to `tag_reg`. -/
def execDrainDone (c : CoreId) (s : State) : Res :=
  if coreExists c then
    match (coreOf s c).drain with
    | j :: t =>
      let r := drainWrite s c (coreFtz s c) j
      .next (coreEff (modCore r.1 c fun k =>
        setSreg { k with drain := t } (drTagReg j.w) (j.tag.setWidth 64)) c r.2)
    | [] => .next s
  else .fault (.noSuchCore c)

end Sys2Proof.Machine
end

