-- ==== Sys2Proof/Machine/StartOps.lean ====
section
/-! DEFINITION. Bindings and classes (R367 to R370, R470), the checks of region and guarantee commands (R225, R233, R234), and
what starting or resuming a schedule does (R351, R369). -/

namespace Sys2Proof.Machine

/-! ### Bindings as the context table now names them -/

/-- The contexts that are valid and bound (R369). -/
def boundCtxs (s : State) : List Nat := (List.range 64).filter fun c => cfgValid (ctxOf s c).cfg && cfgBound (ctxOf s c).cfg

/-- The context whose entry names umbel `u`. -/
def namedBy (s : State) (u : BitVec 16) : Option (BitVec 6) :=
  ((boundCtxs s).find? fun c => cfgUmbel (ctxOf s c).cfg == u).map (BitVec.ofNat 6)

/-- The owner of umbel `u` under those bindings (R368), in a table of umbels and for an image context. -/
def ownerNamed (s : State) (um : Tab (BitVec 256)) (im : BitVec 6) : Nat → BitVec 16 → BitVec 6
  | 0, _ => im
  | n + 1, u =>
    match namedBy s u with
    | some c => c
    | none =>
      let p := umParent (tget 0 um u.toNat)
      if p = u then im else ownerNamed s um im n p

/-- Umbel `v` stands on the chain of parents of `u`. -/
def onChain (um : Tab (BitVec 256)) (v : BitVec 16) : Nat → BitVec 16 → Bool
  | 0, u => u == v
  | n + 1, u => u == v || (let p := umParent (tget 0 um u.toNat); p != u && onChain um v n p)

/-- Two umbels share a core. -/
def shareCore (a b : BitVec 256) : Bool :=
  decide ((umFirst a).toNat < (umFirst b).toNat + (umCount b).toNat) &&
    decide ((umFirst b).toNat < (umFirst a).toNat + (umCount a).toNat)

/-! ### The checks of R369 -/

/-- Row 1: the entry is unused, or another context names it. -/
def badBinding (s : State) (c : Nat) : Bool :=
  let u := cfgUmbel (ctxOf s c).cfg
  !umUsed (umbelOf s u.toNat) || (boundCtxs s).any fun d => d != c && cfgUmbel (ctxOf s d).cfg == u

/-- Row 2: a BE umbel shares a core with an LC umbel that does not contain it. -/
def badPlace (s : State) (c : Nat) : Bool :=
  let u := cfgUmbel (ctxOf s c).cfg
  let um := umbels s
  !cfgLc (ctxOf s c).cfg && um.any fun v => umUsed v.2 && shareCore v.2 (umbelOf s u.toNat) &&
    cfgLc (ctxOf s (ownerNamed s um (imgOwner s) um.length (BitVec.ofNat 16 v.1)).toNat).cfg &&
    !onChain um (BitVec.ofNat 16 v.1) um.length u

/-- Row 3. -/
def badRange (s : State) (c : Nat) : Bool :=
  !cfgLc (ctxOf s c).cfg && decide ((svHi (ctxOf s c).saveCtl).toNat ≤ (svLo (ctxOf s c).saveCtl).toNat)

/-- Row 4: the save area is smaller than every core's block. -/
def badArea (s : State) (c : Nat) : Bool :=
  !cfgLc (ctxOf s c).cfg && decide (((svSize (ctxOf s c).saveCtl).toNat + 1) * 65536 <
    (umCount (umbelOf s (cfgUmbel (ctxOf s c).cfg).toNat)).toNat * blockSize s (BitVec.ofNat 6 c))

/-- Row 5: no region entry with the context's key permits reads and writes of the whole save area. -/
def badKey (s : State) (c : Nat) : Bool :=
  let x := ctxOf s c
  let u := (fld x.saveBase 16 32).toNat
  let n := (svSize x.saveCtl).toNat
  !cfgLc x.cfg && !(cfgKey x.cfg != 0 && match hubOfAddr s (u * 65536) with
    | some h => (hubOf s h).regions.any fun e => regionCovers e.2 u && regionCovers e.2 (u + n) && regionGives e.2 (cfgKey x.cfg) true true
    | none => false)

/-- The first check of R369 that fails, each made over every bound context. -/
def bindErr (s : State) : Option Err :=
  let cs := boundCtxs s
  firstErr [(cs.any (badBinding s), eRange), (cs.any (badPlace s), eRange), (cs.any (badRange s), eRange),
            (cs.any (badArea s), eCapacity), (cs.any (badKey s), eKey)]

/-! ### Flows, classes and guarantees (R233, R234, R370, R470) -/

/-- The context of a flow under the bindings the context table names (R470). -/
def flowCtx (s : State) (um : Tab (BitVec 256)) (im : BitVec 6) (f : BitVec 128) : BitVec 6 :=
  match (flCtxSrc f).toNat with
  | 0 => im
  | 1 => ownerNamed s um im um.length (flUmbel f)
  | _ => flCtx f

/-- A guarantee's class is not that of its flow's context (R370). -/
def badClass (s : State) (um : Tab (BitVec 256)) (im : BitVec 6) (flows : Tab (BitVec 128)) (g : BitVec 128) : Bool :=
  guLc g != cfgLc (ctxOf s (flowCtx s um im (tget 0 flows (guFlow g).toNat)).toNat).cfg

/-- `gbps` or `flow` is out of range (R233). -/
def badGuarantee (flows : Tab (BitVec 128)) (g : BitVec 128) : Bool :=
  (guGbps g).toNat == 0 || decide (8192 < (guGbps g).toNat) || !flValid (tget 0 flows (guFlow g).toNat)

/-- The greatest admissible sum of a hub's target, in GB/s (R234): none on a retired HBM range, and for the LLM the live
slices' share of 3,481. -/
def admitMax (s : State) (h : Nat) (llm : Bool) : Nat :=
  if llm then
    let n := ((List.range 8).filter fun i => s.caps.llmLive.getLsbD (h * 8 + i) && !s.sh.retired.contains (channel 0x0B ((h * 8 + i) * 2 ^ 19))).length
    512 * n * 85 / 100
  else if s.caps.hbmLive.getLsbD h && (hubOf s h).pcDead.isEmpty then 5570 else 0

/-- Two guarantees of one flow, hub and target. -/
def sameGuarantee (a b : BitVec 128) : Bool := guFlow a == guFlow b && guHub a == guHub b && guTarget a == guTarget b

/-- A set of guarantees is not admissible (R234). -/
def notAdmitted (s : State) (l : List (BitVec 128)) : Bool :=
  (List.range 4).any (fun h => [false, true].any fun t =>
    decide (admitMax s h t < ((l.filter fun g => (guHub g).toNat == h && guTarget g == t).map fun g => (guGbps g).toNat).sum)) ||
  l.any fun g => decide (1 < (l.filter (sameGuarantee g)).length)

/-- The guarantees in force on every hub. -/
def allGuars (s : State) : List (BitVec 128) := (List.range 4).flatMap fun h => (hubOf s h).guars.map fun g => g.ent

/-- Put a guarantee in force (R235). -/
def addGuar (s : State) (g : BitVec 128) : State :=
  setRates (modHub s (guHub g).toNat fun m => { m with guars := m.guars ++ [{ ent := g, rate := ((guGbps g).toNat * 10, 1) }] }) (guHub g).toNat

/-- Every guarantee of every hub goes. -/
def dropGuars (s : State) : State :=
  (List.range 4).foldl (fun s h => setRates (modHub s h fun m => { m with guars := [] }) h) s

/-- The guarantees whose class the bindings at MB_START change (R470). -/
def startClassErr (s : State) : Bool :=
  (allGuars s).any fun g => flCtxSrc (tget 0 s.run.flows (guFlow g).toNat) == 1 &&
    badClass s (umbels s) (imgOwner s) s.run.flows g

/-! ### Regions (R225) -/

/-- The units of a region entry. -/
def regionUnits (e : BitVec 128) : List Nat := (List.range ((rgSize e).toNat + 1)).map (· + (rgBase e).toNat)

/-- The first unit of the image shadow of hub `h`, and how many it has (R403). -/
def shadowUnits (h : Nat) : Nat × Nat := ((h * 2 ^ 38 + 0x3FE0000000) / 65536, 0x2000)

/-- The units of two regions overlap. -/
def regionsMeet (a b : BitVec 128) : Bool :=
  overlaps ((rgBase a).toNat, (rgSize a).toNat + 1) ((rgBase b).toNat, (rgSize b).toNat + 1)

/-- Why a write of entry `i` of hub `h` is rejected (R225, R352, R379, R231). -/
def regionErr (s : State) (h i : Nat) (e : BitVec 128) : Option Err :=
  let m := hubOf s h
  firstErr [(m.loader.contains i, eKey), (decide (0xFF00 ≤ (rgKey e).toNat), eKey),
    (rgValid e && !(regionUnits e).all fun u => hubOfAddr s (u * 65536) == some h, eRange),
    (rgValid e && (m.regions.any fun x => x.1 != i && rgValid x.2 && regionsMeet e x.2), eRange),
    (rgValid e && overlaps ((rgBase e).toNat, (rgSize e).toNat + 1) (shadowUnits h), eRange),
    (rgValid e && rgReloc e && !decide ((rgBase e).toNat < 2 ^ 24), eMode),
    (match m.migr with | some x => x.index == i | none => false, eBusy)]

/-! ### Starting and resuming (R351) -/

/-- The bindings take effect (R367). -/
def bindNow (s : State) : State :=
  { s with ctxs := (List.range 64).foldl (fun t c =>
      let x := tget Ctx.reset t c
      let b := cfgValid x.cfg && cfgBound x.cfg
      tput Ctx.reset t c { x with boundNow := b, umbelNow := if b then cfgUmbel x.cfg else 0 }) s.ctxs }

/-- The current beat at the command unit. -/
def beatNow (s : State) : BitVec 40 := pmBeat (cmdPm s)

/-- Why MB_START is refused (R351, R369, R470). -/
def startErr (s : State) (b : BitVec 40) : Option Err :=
  match firstErr [(s.tb.st != .locked, eState), (!beatLater b (beatNow s), eRange)] with
  | some e => some e
  | none => match bindErr s with
    | some e => some e
    | none => if startClassErr s then some eGuarantee else none

/-- Step 0 begins at beat `b` (R351, R198, R205). Generations that the local cut store still held are given up: the load has
put edition 0 in the place of the editions they pinned (LOG 29). -/
def startRun (s : State) (b : BitVec 40) : State :=
  let s0 := modCkpt s fun k => { k with older := none, newer := none }
  let s1 := modRun { bindNow s0 with sched := .running } fun r => { r with startBeat := b, step := 0, settled := 0 }
  let s2 := modCommit s1 fun c => { c with forceExp := c.settledExp }
  writeStepRecord (keepBoundary (restartTables s2 0) 0) 0

/-- The base of the restart (R351). -/
def restartBase (s : State) (b k : BitVec 40) : BitVec 40 := b + k * BitVec.ofNat 40 (stepBeats s)

/-- The restart step that HOST.SCHED shows while Stopped (R357): the lowest step that has not settled. -/
def restartStep (s : State) : BitVec 40 := s.run.settled

/-- Why MB_RESUME is refused (R351). -/
def resumeErr (s : State) (b k : BitVec 40) : Option Err :=
  if s.sched = .quiesced then firstErr [(b != 0 || k != 0, eRange)]
  else firstErr [(k != restartStep s, eState), (s.tb.st != .locked, eState), (!beatLater (restartBase s b k) (beatNow s), eRange)]

/-- The schedule runs again (R351, R42, R206). -/
def resumeRun (s : State) (b k : BitVec 40) : State :=
  if s.sched = .quiesced then { s with sched := .running }
  else
    let s1 := modRun { s with sched := .running } fun r => { r with startBeat := b, step := k, verify := false }
    writeStepRecord (keepBoundary (restartTables s1 k) k) k

end Sys2Proof.Machine
end

