-- ==== Sys2Proof/Machine/UpdOps.lean ====
section
/-! DEFINITION. The update engines' operations (R186 to R194): programs and operands, the arrays, the arithmetic, the
block registers and the random words. -/

namespace Sys2Proof.Machine

/-! ### Entries and programs -/

/-- Entry `i` of the update table; all zero where there is none. -/
def updEntry (s : State) (i : Nat) : BitVec 512 :=
  match updSection s with | some u => u.entries.getD i 0 | none => 0

/-- Word `w` of program `p`. -/
def progWord (s : State) (p w : Nat) : BitVec 32 :=
  match updSection s with | some u => tget 0 u.progs (p * 64 + w) | none => 0

/-- The words of a program up to its first END (R190). -/
def progWords (s : State) (p : Nat) : List (BitVec 32) :=
  ((List.range 64).map (progWord s p)).takeWhile fun w => uiOp w != 0

/-- The word of the first BAR, if the program holds one (R192). -/
def barAt (s : State) (p : Nat) : Option Nat := (progWords s p).findIdx? fun w => uiOp w == 0x10

/-- The kind that the program gives block register `i`: the first BSUM or BMAX that names it (R192). -/
def blkStart (s : State) (p i : Nat) : BlkReg :=
  if (barAt s p).isNone then .unused
  else match (progWords s p).find? fun w => (uiOp w == 0x0E || uiOp w == 0x0F) && (fld (uiImm w) 0 1).toNat == i with
    | some w => if uiOp w = 0x0E then .sum 0 0 else .max 0xFF800000
    | none => .unused

/-- Elements of an entry and of its block. -/
def updElems (e : BitVec 512) : Nat := (ueElems e).toNat + 1
def updBlock (e : BitVec 512) : Nat := 2 ^ ((ueBlk e).toNat + 5)

/-- The context that loaded the image flushes subnormals (R191). -/
def updFtz (s : State) : Bool := cfgFtz (ctxOf s s.run.imgCtx.val).cfg

/-! ### Random words (R194) -/

/-- One round of Philox-4x32 with keys `k0`, `k1`. -/
def philoxRound (k0 k1 : BitVec 32) (c : BitVec 32 × BitVec 32 × BitVec 32 × BitVec 32) :
    BitVec 32 × BitVec 32 × BitVec 32 × BitVec 32 :=
  let m0 : BitVec 64 := 0xD2511F53 * c.1.setWidth 64
  let m1 : BitVec 64 := 0xCD9E8D57 * c.2.2.1.setWidth 64
  (fld m1 32 32 ^^^ c.2.1 ^^^ k0, fld m1 0 32, fld m0 32 32 ^^^ c.2.2.2 ^^^ k1, fld m0 0 32)

/-- `n` rounds with key increments between them. -/
def philoxRounds : Nat → BitVec 32 → BitVec 32 → BitVec 32 × BitVec 32 × BitVec 32 × BitVec 32 →
    BitVec 32 × BitVec 32 × BitVec 32 × BitVec 32
  | 0, _, _, c => c
  | n + 1, k0, k1, c => philoxRounds n (k0 + 0x9E3779B9) (k1 + 0xBB67AE85) (philoxRound k0 k1 c)

/-- Output word `w` of Philox-4x32-10. -/
def philox (seed : BitVec 64) (c : BitVec 32 × BitVec 32 × BitVec 32 × BitVec 32) (w : Nat) : BitVec 32 :=
  let r := philoxRounds 10 (fld seed 0 32) (fld seed 32 32) c
  match w with | 0 => r.1 | 1 => r.2.1 | 2 => r.2.2.1 | _ => r.2.2.2

/-- The random word `w` of the engine's element (R194). -/
def updRandom (s : State) (u : UpdEng) (w : Nat) : BitVec 32 :=
  let e := updEntry s u.entry
  let x : BitVec 40 := ueElemBase e + BitVec.ofNat 40 u.elem
  match updSection s with
  | some sec => philox sec.seed (fld x 0 32, (fld x 32 8).setWidth 32, (ueTensor e).setWidth 32, fld u.step 0 32) w
  | none => 0

/-! ### Operands (R189) -/

/-- The FP32 code of a value rounded once. -/
def code32 (ftz : Bool) (v : Val) : BitVec 32 := BitVec.ofNat 32 (round32 ftz v).code

/-- 2 to the power -e, for the exponent of the entry's step (R189, R197). -/
def lsInv (u : UpdEng) : BitVec 32 := code32 false (.fin false 1 (-(u.exp.toInt)))

/-- Operand `x` of the engine's instruction. A block register of kind sum has no value of its own before BAR: a free one
(LOG 11). -/
def updOperand (s : State) (u : UpdEng) (x : BitVec 5) : BitVec 32 :=
  let i := x.toNat
  let blk := fun (j : Nat) (b : BlkReg) => match b with
    | .unused => (0 : BitVec 32)
    | .sum a _ => if u.pass2 then a else fld (Config.freeWord (s.free + j)) 0 32
    | .max v => v
  if i < 16 then tget 0 u.e i
  else if i < 28 then
    match updSection s with | some sec => tget 0 sec.hyper ((ueHyper (updEntry s u.entry)).toNat * 12 + (i - 16)) | none => 0
  else if i = 28 then blk 0 u.b0
  else if i = 29 then blk 1 u.b1
  else if i = 30 then lsInv u
  else code32 false (.fin false (u.step.toNat + 1) 0)

/-- A scalar operand as a value, with the flags of reading it. -/
def updVal (s : State) (u : UpdEng) (x : BitVec 5) : Val × BitVec 8 := read32 (updFtz s) (updOperand s u x)

/-! ### Division and root (R191) -/

/-- The exact quotient of two values, rounded once. -/
def divVal (ftz : Bool) (x y : Val) : Conv :=
  let neg := x.isNeg != y.isNeg
  match x, y with
  | .nan, _ | _, .nan => round32 ftz .nan
  | .inf _, .inf _ => round32 ftz .nan
  | .inf _, .fin .. => round32 ftz (.inf neg)
  | .fin .., .inf _ => round32 ftz (.fin neg 0 0)
  | .fin _ m e, .fin _ n f =>
    if n = 0 then round32 ftz (if m = 0 then .nan else .inf neg)
    else if m = 0 then round32 ftz (.fin neg 0 0)
    else convQ fFP32 .nearest false ftz neg (m * 2 ^ (e - f).toNat) (n * 2 ^ (f - e).toNat) 0

/-- The integer square root of `n`, by bits from `b` down: the largest `r` with `r * r` at most `n`. -/
def isqrt (n : Nat) : Nat → Nat → Nat
  | 0, r => r
  | b + 1, r =>
    let t := r + 2 ^ b
    isqrt n b (if t * t ≤ n then t else r)

/-- The exact root of a value, rounded once: 32 further bits of the root and a mark of a remainder decide every
rounding. -/
def sqrtVal (ftz : Bool) (x : Val) : Conv :=
  match x with
  | .nan => round32 ftz .nan
  | .inf n => round32 ftz (if n then .nan else .inf false)
  | .fin n m e =>
    if m = 0 then round32 ftz (.fin n 0 0)
    else if n then round32 ftz .nan
    else
      let odd := e % 2 ≠ 0
      let m1 := (if odd then 2 * m else m) * 2 ^ 64
      let e1 := (if odd then e - 1 else e) - 64
      let r := isqrt m1 (Nat.log2 m1 / 2 + 1) 0
      round32 ftz (.fin false (2 * r + (if r * r = m1 then 0 else 1)) (e1 / 2 - 1))

/-- POWS (R191): the bits of `n` from the most significant set bit down. -/
def powsBits (ftz : Bool) (a : Val) (n : Nat) : Nat → Val × BitVec 8 → Val × BitVec 8
  | 0, r => r
  | b + 1, r =>
    let sq := round32 ftz (mulVal r.1 r.1)
    let m := round32 ftz (mulVal sq.val a)
    powsBits ftz a n b (if n.testBit b then (m.val, r.2 ||| sq.fl ||| m.fl) else (sq.val, r.2 ||| sq.fl))

/-- `a` raised to `n`. -/
def pows (ftz : Bool) (a : Val) (n : Nat) : Val × BitVec 8 := powsBits ftz a n (Nat.log2 n + 1) (.fin false 1 0, 0)

/-! ### Arrays (R185, R187) -/

/-- Arrays 5 to 7 do not exist: the spec gives their LD no result, which is a free value (LOG 11), and their ST nothing to write. -/
def noArray (i : Nat) : Bool := decide (4 < i)

/-- First granule and element format of array `i`, 1 working, 2 master, 3 m1, 4 m2. -/
def arrayOf (e : BitVec 512) (i : Nat) : Nat × Nat :=
  match i with
  | 1 => ((ueWGran e).toNat, (ueWFmt e).toNat)
  | 2 => ((ueMaGran e).toNat, 8)
  | 3 => ((ueM1Gran e).toNat, if ueMomFp32 e then 8 else 6)
  | _ => ((ueM2Gran e).toNat, if ueMomFp32 e then 8 else 6)

/-- The region offset of element `i` of an array, and of the scale of its block. -/
def elemOff (a : Nat × Nat) (i : Nat) : Nat := a.1 * granule + i * (fmtBits a.2 / 8)
def scaleOff (e : BitVec 512) (i : Nat) : Nat :=
  (ueWGran e).toNat * granule + (updElems e + 63) / 64 * 64 + i / 32



/-- The edition unit's access to element `i` of an array of the engine's entry fails (R213, R226). -/
def elemFault (s : State) (u : UpdEng) (i : Nat) (wr : Bool) : Option Err :=
  let e := updEntry s u.entry
  match edDesc s (ueStage e).toNat, readEd s (ueStage e).toNat u.step with
  | some d, some n => edFault s d n (elemOff (arrayOf e i) u.elem) (fmtBits (arrayOf e i).2 / 8) wr
  | _, _ => none

/-- The bytes of package memory that hold element `i` of an array of the engine's entry. -/
def elemAt (s : State) (u : UpdEng) (i : Nat) : List (Nat × Nat) :=
  let e := updEntry s u.entry
  if i = 0 then [((ueGrad e).toNat + 4 * u.elem, 4)]
  else match edDesc s (ueStage e).toNat, readEd s (ueStage e).toNat u.step with
    | some d, some n => edSpans s d n (elemOff (arrayOf e i) u.elem) (fmtBits (arrayOf e i).2 / 8)
    | _, _ => []

/-- LD of array 1 to 4: the element's value with flags. -/
def loadElem (s : State) (u : UpdEng) (i : Nat) : Val × BitVec 8 :=
  let e := updEntry s u.entry
  let g := (ueStage e).toNat
  match edDesc s g, readEd s g u.step with
  | some d, some n =>
    let a := arrayOf e i
    let c := leNat (edRead s d n (elemOff a u.elem) (fmtBits a.2 / 8))
    let v := readElem a.2 false (updFtz s) c
    if a.2 = 4 then
      let b := edByte s d n (scaleOff e u.elem)
      (scaled b v.1, v.2 ||| (if b = 0xFF then fMxNan else 0))
    else v
  | _, _ => (Val.zero, 0)

/-- Conversion of a block into E4M3 with a scale, each element with its own rounding (R85, R96, R191). -/
def convBlock (ftz : Bool) (l : List (Val × RMode)) : Byte × List Conv × BitVec 8 :=
  let plain := convMx 4 ftz (l.map Prod.fst)
  if plain.1 = 0xFF || (l.all fun v => v.1.isZero) then plain
  else
    let E : Int := (plain.1.toNat : Int) - 127
    (plain.1, l.map fun v => convElem 4 v.2 true ftz (v.1.scale (-E)), 0)

/-! ### Faults (R193) -/

/-- The source id and clock of an engine (R407). -/
def updSrc (s : State) (h : Nat) : BitVec 32 := srcUnit s 0xA8 h 0
def updPm (s : State) (h : Nat) : Pm := clock s (domHub h)

/-- The entry stops with update.fault; the engine goes on with the next one (R193, R201). -/
def updFault (s : State) (h : Nat) (err : Err) : State :=
  let u := updOf s h
  let s1 := modUpd s h fun u => { u with busy := false, done := u.done + 1, faulted := u.faulted ++ [u.entry], wbuf := [] }
  markStep (post s1 (updSrc s h) (updPm s h) evUpdateFault (some (imgOwner s)) err
    [(32, u.entry), (64, u.elem), (8, err.toNat)]) u.step

/-- Write bytes of the pending edition of the engine's step; an edition that may not open, or an empty pool, stops the
entry (R160, R161, R193). -/
def updWrite (s : State) (h : Nat) (writes : List (Nat × List Byte)) : State × Bool :=
  let u := updOf s h
  let g := (ueStage (updEntry s u.entry)).toNat
  match edDesc s g with
  | none => (updFault s h eCapacity, false)
  | some d =>
    match pendFor s g d u.step with
    | none => (updFault (edFull s g u.step 1 u.entry) h eCapacity, false)
    | some (s1, n) =>
      writes.foldl (fun r w =>
        if r.2 then
          match edWrite r.1 g d n w.1 w.2 with
          | (s2, none) => (s2, true)
          | (s2, some i) => (updFault (poolEmpty s2 g u.step i 1 u.entry) h eCapacity, false)
        else r) (s1, true)

/-! ### One instruction -/

/-- The word the engine is at. -/
def updWord (s : State) (u : UpdEng) : BitVec 32 := progWord s (ueProg (updEntry s u.entry)).toNat u.pcw

/-- Some operand reads a sum register before BAR. -/
def readsFree (u : UpdEng) (l : List (BitVec 5)) : Bool :=
  !u.pass2 && l.any fun x => (match u.b0 with | .sum .. => x == 28 | _ => false) || (match u.b1 with | .sum .. => x == 29 | _ => false)

/-- The engine of hub `h` executes its next word when its opcode is `op` and the schedule runs (R188, R190, R359). -/
def upStep (s : State) (h : Fin 4) (op : BitVec 6) (f : UpdEng → BitVec 32 → State) : Res :=
  let u := updOf s h.val
  whenever (schedRuns s && u.busy && !u.ended && uiOp (updWord s u) == op) s (f u (updWord s u))

/-- A word that reaches memory: what the codes met at its element comes first (R213), and it waits for a hub that is flushing
(R229). -/
def upMem (s : State) (h : Fin 4) (op : BitVec 6) (ecc : EccAt) (f : State → UpdEng → BitVec 32 → State) : Res :=
  let u := updOf s h.val
  let w := updWord s u
  let i := (fld (uiImm w) 0 3).toNat
  let span := if noArray i then [] else elemAt s u i
  whenever (schedRuns s && u.busy && !u.ended && uiOp w == op && !anyWaits s span) s (f (metEcc s ecc span) u w)

/-- `d` takes a result, the flags are set, and the engine goes to the next word. -/
def upPut (s : State) (h : Fin 4) (u : UpdEng) (w : BitVec 32) (reads : List (BitVec 5)) (v : BitVec 32) (fl : BitVec 8) : State :=
  let s1 := modUpd (setFlags s (imgOwner s) fl) h.val fun _ => { u with e := tput 0 u.e (uiD w).toNat v, pcw := u.pcw + 1 }
  if readsFree u reads then { s1 with free := s1.free + 2 } else s1

/-- An operation of two operands. -/
def upBin (s : State) (h : Fin 4) (op : BitVec 6) (f : Bool → Val → Val → Conv) : Res :=
  upStep s h op fun u w =>
    let a := updVal s u (uiA w)
    let b := updVal s u (uiB w)
    let r := f (updFtz s) a.1 b.1
    upPut s h u w [uiA w, uiB w] (BitVec.ofNat 32 r.code) (a.2 ||| b.2 ||| r.fl)

/-- An operation of one operand. -/
def upUn (s : State) (h : Fin 4) (op : BitVec 6) (f : Bool → Val → Conv) : Res :=
  upStep s h op fun u w =>
    let a := updVal s u (uiA w)
    let r := f (updFtz s) a.1
    upPut s h u w [uiA w] (BitVec.ofNat 32 r.code) (a.2 ||| r.fl)

/-- The engine begins the element `i` at word `w` of its program. -/
def atElem (u : UpdEng) (i w : Nat) : UpdEng := { u with elem := i, pcw := w, e := [] }

/-- The engine begins a block at element `i`: its registers are cleared (R192). -/
def atBlock (s : State) (u : UpdEng) (i : Nat) : UpdEng :=
  let p := (ueProg (updEntry s u.entry)).toNat
  { atElem u i 0 with pass2 := false, b0 := blkStart s p 0, b1 := blkStart s p 1 }

/-- Element `i` is the last of its block or of the entry. -/
def blockEnd (e : BitVec 512) (i : Nat) : Bool := (i + 1) % updBlock e == 0 || i + 1 == updElems e

/-- After END (R190, R192): the next element, the next block, or the end of the entry. -/
def afterEnd (s : State) (u : UpdEng) : UpdEng :=
  let e := updEntry s u.entry
  match barAt s (ueProg e).toNat with
  | none => if u.elem + 1 < updElems e then atElem u (u.elem + 1) 0 else { u with ended := true }
  | some b =>
    if !blockEnd e u.elem then atElem u (u.elem + 1) (b + 1)
    else if u.elem + 1 < updElems e then atBlock s u (u.elem + 1)
    else { u with ended := true }

/-- The value of a register at BAR (R192, R107), with the flags of reading it. -/
def barReg (ftz : Bool) (b : BlkReg) : BlkReg × BitVec 8 :=
  match b with | .sum a c => let r := entryValue ftz a c; (.sum (BitVec.ofNat 32 r.code) 0, r.fl) | x => (x, 0)

/-- After BAR (R192): the next element of pass 1, or pass 2 of the block, with the flags of closing its registers; a BAR in pass 2
ends nothing. -/
def afterBar (s : State) (u : UpdEng) : UpdEng × BitVec 8 :=
  let e := updEntry s u.entry
  if u.pass2 then ({ u with pcw := u.pcw + 1 }, 0)
  else if !blockEnd e u.elem then (atElem u (u.elem + 1) 0, 0)
  else
    let x := barReg (updFtz s) u.b0
    let y := barReg (updFtz s) u.b1
    ({ atElem u (u.elem / updBlock e * updBlock e) (u.pcw + 1) with pass2 := true, b0 := x.1, b1 := y.1 }, x.2 ||| y.2)

/-- A value joins block register `b` by BSUM or BMAX (R192, R103). A register of the other kind takes a free value: the
spec gives none (LOG 11). -/
def joinBlk (ftz : Bool) (isSum : Bool) (v : Val) (free : BitVec 32) (b : BlkReg) : BlkReg × BitVec 8 :=
  match b, isSum with
  | .unused, _ => (.unused, 0)
  | .sum a c, true => let r := accumulateW ftz a c v; (.sum r.1 r.2.1, r.2.2)
  | .max m, false => let x := read32 ftz m; (.max (BitVec.ofNat 32 (codeOf fFP32 (maxVal x.1 v))), x.2)
  | .sum .., false => (.max free, 0)
  | .max _, true => (.max free, 0)

/-- BSUM or BMAX into register `imm`[0]. -/
def upBlk (s : State) (h : Fin 4) (op : BitVec 6) (isSum : Bool) : Res :=
  upStep s h op fun u w =>
    let a := updVal s u (uiA w)
    let fr := fld (Config.freeWord (s.free + 2)) 0 32
    let one := (fld (uiImm w) 0 1).toNat = 1
    let r := joinBlk (updFtz s) isSum a.1 fr (if one then u.b1 else u.b0)
    let u1 := if one then { u with b1 := r.1 } else { u with b0 := r.1 }
    let s1 := modUpd (setFlags s (imgOwner s) (a.2 ||| r.2)) h.val fun _ => { u1 with pcw := u.pcw + 1 }
    { s1 with free := s1.free + 3 }

end Sys2Proof.Machine
end

