-- ==== Sys2Proof/Machine/LoadOps.lean ====
section
/-! DEFINITION. The checks of pass 1 of MB_LOAD (R350): signature, placement, every section in ascending id, capacity. They
are made on a trial state: the package with the image's tables in force. -/

namespace Sys2Proof.Machine

/-- The package as it would stand with the image's tables in force, under context `c`. -/
def trial (s : State) (im : Image) (c : Fin 64) : State :=
  modRun s fun r => { r with image := some im, imgCtx := c, flows := im.flows }

/-! ### Helpers -/

/-- Every pair of a list, in order, meets `f`. -/
def pairsOk {α : Type} (f : α → α → Bool) : List α → Bool
  | [] => true
  | x :: t => t.all (f x) && pairsOk f t

/-- Every element and the next meet `f`. -/
def chainOk {α : Type} (f : α → α → Bool) : List α → Bool
  | x :: y :: t => f x y && chainOk f (y :: t)
  | _ => true

/-- The used umbels of the image. -/
def usedUmbels (im : Image) : List (Nat × BitVec 256) := im.umbels.filter fun e => umUsed e.2

/-- The release table of an umbel. -/
def relTable (im : Image) (e : BitVec 256) : List (BitVec 256) := (im.rels.drop (umRelOff e).toNat).take (umRelCount e).toNat

/-- Subscriber `i` holds a copy of receipt `r` (R182). -/
def subscribed (t : State) (r : BitVec 14) (i : Nat) : Bool := (rcptSubs t r).getLsbD i

/-- The releases with an action code. -/
def relsOf (im : Image) (a : Nat) : List (BitVec 256) := im.rels.filter fun r => (relAction r).toNat == a

/-- The window of the stage that holds core `c` (R142): first byte and end. -/
def windowOf (im : Image) (t : State) (c : Nat) : Option (Nat × Nat) :=
  match stageUmbel t c with
  | some e => (im.budgets.find? fun b => budStage b == umStage e).map fun b => ((budLo b).toNat * 1024, (budHi b).toNat * 1024)
  | none => none

/-- Bytes `a` to `a + n - 1` lie in LLM slices in scratchpad mode. -/
def inSpLlm (s : State) (a n : Nat) : Bool :=
  decide (0x010000000000 ≤ a) && decide (a + n ≤ 0x010080000000) && !touchesCache s a n

/-- Bytes `a` to `a + n - 1` lie in HBM. -/
def inHbm (a n : Nat) : Bool := decide (a + n ≤ 0x010000000000)

/-- Two non-empty ranges overlap. -/
def meet (a b : Nat × Nat) : Bool := a.2 != 0 && b.2 != 0 && overlaps a b

/-! ### Sections 0x01 to 0x03 -/

/-- The sections an image must hold (R35). -/
def neededSections (im : Image) : List Nat :=
  [0x01, 0x02, 0x03, 0x04, 0x05, 0x07, 0x08, 0x09, 0x0A, 0x0B, 0x0C, 0x0F, 0x10] ++
    (if (relsOf im 3).isEmpty then [] else [0x06]) ++
    (if im.plans.any (fun p => plKind p.2 != 0 && plQuant p.2) then [0x0D] else []) ++
    (if (relsOf im 6).isEmpty then [] else [0x0E])

/-- The sections are complete, single and known (R35). -/
def sectionsBad (im : Image) : Bool :=
  !(neededSections im).all im.sections.contains || !pairsOk (fun a b => a != b) im.sections ||
    im.sections.any fun i => i == 0 || decide (0x10 < i)

/-- The number of cache-mode slices of a hub is none that R217 allows. -/
def sliceCountBad (s : State) : Bool :=
  (List.range 4).any fun h =>
    !([0, 1, 2, 4, 8].contains ((List.range 8).filter fun i => !s.regs.llmMode.getLsbD (h * 8 + i)).length)

/-- Section 0x01, after the placement (R36, R310, R217). R36 gives `step_beats` its range and no code for 0: E_IMAGE is the
model's choice (LOG 34). -/
def headerErr (s : State) (im : Image) : Option Err :=
  firstErr [(!pbRsv im.placement, eReserved), (im.stepBeats == 0, eImage), (sliceCountBad s, eImage)]

/-- A word of the instruction stream is at fault by itself (R55). The layouts of the VXE instructions but MV are not given, so
those words are taken. -/
def wordBad (x : BitVec 64) : Bool :=
  let w : W56 := fld x 0 56
  let only := fun m => !onlyBits w m
  match (fld x 56 8).toNat with
  | 0x09 => only (mRd ||| mRa ||| mImm32)
  | 0x0A => only (mRd ||| mImm41)
  | 0x0B => only (mRd ||| mRa ||| mImm32)
  | 0x10 => only (mRa ||| mTarget)
  | 0x11 => only (mRa ||| mTarget)
  | 0x12 => only mTarget
  | 0x13 => only mRa
  | 0x14 => only 0x7FFFFFF
  | 0x15 => only (mRd ||| mRa ||| mOff)
  | 0x16 => only (mRa ||| mRb ||| mOff)
  | 0x17 => only mRd
  | 0x18 => only mRd
  | 0x20 => only 0
  | 0x21 => only 0
  | 0x22 => only 0xF
  | 0x23 => only mRa
  | 0x24 => only (mRcpt ||| (1 <<< 41) ||| mImm32)
  | 0x30 => only mRa
  | 0x31 => only ((0xF <<< 52) ||| mRa)
  | 0x32 => only (mRcpt ||| (0x1F <<< 37) ||| (0x1F <<< 32) ||| (1 <<< 31))
  | 0x33 => only (mRcpt ||| (0x1F <<< 37))
  | 0x34 => only (mRa ||| 1)
  | 0x35 => only 0
  | 0x40 => !mmaRsv w || pairFault (mmaFmtA w).toNat (mmaFmtB w).toNat (mmaMxs w) (mmaSat w) ||
      (mmaQHalf w && mmaFmtA w != 9 && mmaFmtB w != 9) || (mmaAShift w != 0 && mmaFmtA w == 9)
  | 0x41 => only 0
  | 0x42 => !drainFmtOk (drFmtOut w).toNat || !drainFmtOk (drFmtE w).toNat ||
      ((drEpi w == 0 || drEpi w == 3) && drFmtE w != 0)
  | 0x60 => false
  | 0x61 => !mvRsv w || pairFault (mvFmtW w).toNat (mvFmtX w).toNat (mvMxs w) false
  | 0x62 => false
  | 0x63 => false
  | 0x64 => false
  | 0x65 => false
  | 0x66 => false
  | 0x67 => false
  | 0x68 => false
  | 0x69 => false
  | 0x6A => false
  | 0x80 => !xfRsv w || xferFormatBad false w
  | 0x81 => !xfRsv w || xferFormatBad true w
  | n => opReserved (BitVec.ofNat 8 n) || only (mRd ||| mRa ||| mRb)

/-- The `n` logical cores from `a` take in a guest's endpoint (R248, R249). -/
def onGuest (s : State) (a n : Nat) : Bool := (List.range 32).any fun d => isGuestDie s d && meet (a, n) (d * 4096, 4096)

/-- Bytes `a` to `a + n - 1` take in storage of a guest's die (R249). -/
def inGuest (s : State) (a n : Nat) : Bool :=
  (List.range 32).any fun d => isGuestDie s d &&
    (meet (a, n) (0x020000000000 + d * 4096 * 131072, 4096 * 131072) || meet (a, n) (0x030000000000 + d * 4096 * 16384, 4096 * 16384))

/-- The envelope block of a core at fault (R167). -/
def envBlockBad (im : Image) (t : State) (c : Nat) (b : EnvBlock) : Bool :=
  ebRetry b.hdr == 0 || ebMaxTries b.hdr == 0 || decide (spSize < (ebInbox b.hdr).toNat + 320) ||
    (match windowOf im t c with
     | some w => meet ((ebInbox b.hdr).toNat, 320) (w.1, w.2 - w.1)
     | none => false)

/-- A core of a used umbel has no envelope block; every logical core that can take one must (R167). Blocks of cores outside every used
umbel take no part in anything and stand in no image of the model (LOG 8). -/
def blockMissing (im : Image) (t : State) : Bool :=
  (usedUmbels im).any fun u => (umCores u.2).any fun c => !isGuestDie t (dieOf c) && !(im.envBlocks.any fun b => b.1 == c.toNat)

/-- Section 0x02 (R55, R167); a guest's endpoint has no stream (R249). -/
def streamsErr (im : Image) (t : State) : Option Err :=
  firstErr [(im.envBlocks.any fun b => !ebRsv b.2.hdr || b.2.ents.any fun e => !heRsv e.2, eReserved),
    (im.streams.any fun w => wordBad w.2 || onGuest t (w.1 / 2048) 1, eImage),
    (blockMissing im t || im.envBlocks.any fun b => envBlockBad im t b.1 b.2, eImage)]

/-- A release unit holds more entries than it can (R40). -/
def relUnitFull (im : Image) : Bool :=
  (usedUmbels im).any fun u =>
    decide ((if oneCluster u.2 then 512 else 65536) <
      (((usedUmbels im).filter fun v => relUnit v.2 == relUnit u.2).map
        fun v => (umRelCount v.2).toNat).sum)

/-- A release entry at fault by itself (R36, R38, R51, R165, R176, R179). -/
def relBad (im : Image) (r : BitVec 256) : Bool :=
  let a := (relAction r).toNat
  a == 0 || decide (8 < a) || decide (im.stepBeats.toNat ≤ (pmBeat (relOffset r)).toNat) ||
    (a == 1 && decide (2047 < (relArg r).toNat)) || (a == 4 && decide (15 < (relArg r).toNat)) ||
    (a == 5 && (relArg r == 0 || decide (2 ^ 31 ≤ (relArg r).toNat) || decide (16384 ≤ (relObject r).toNat)))

/-- Section 0x03 (R36 to R40, R51, R176). -/
def releasesErr (im : Image) : Option Err :=
  let ends := relsOf im 8
  firstErr [(im.rels.any fun r => !relRsv r, eReserved), (im.rels.any (relBad im), eImage),
    ((usedUmbels im).any fun u => !chainOk (fun a b => decide ((relOffset a).toNat ≤ (relOffset b).toNat)) (relTable im u.2), eImage),
    (ends.length != 1, eImage),
    (!(usedUmbels im).any fun u => !oneCluster u.2 && (relTable im u.2).any fun r => relAction r == 8, eImage),
    ((usedUmbels im).any fun u => (relTable im u.2).any fun r =>
      decide ((umRcptCount u.2).toNat ≤ (relReceipt r).toNat), eImage),
    (relUnitFull im, eCapacity)]

/-! ### Section 0x04 (R139 to R141) -/

/-- The core range lies in the usable shape and holds no invalid cluster (R12, R140). -/
def coreRangeOk (s : State) (e : BitVec 256) : Bool :=
  let a := (umFirst e).toNat
  let n := (umCount e).toNat
  n != 0 && decide (a + n ≤ 131072) &&
    (List.range 32).all fun d => !meet (a, n) (d * 4096, 4096) || (dieUsable s d && !meet (a, n) (d * 4096 + 2560, 1536))

/-- The children of an umbel of umbels make up its range (R140). -/
def childrenOk (im : Image) (i : Nat) (e : BitVec 256) : Bool :=
  let ks := (List.range (umChildCount e).toNat).map fun j => tget 0 im.umbels ((umFirstChild e).toNat + j)
  let r := fun (k : BitVec 256) => ((umFirst k).toNat, (umCount k).toNat)
  ks.all (fun k => umUsed k && (umParent k).toNat == i && decide ((umFirst e).toNat ≤ (umFirst k).toNat) &&
      decide ((umFirst k).toNat + (umCount k).toNat ≤ (umFirst e).toNat + (umCount e).toNat)) &&
    pairsOk (fun a b => !meet (r a) (r b)) ks && (ks.map fun k => (umCount k).toNat).sum == (umCount e).toNat

/-- Following `parent` links from umbel `u` reaches an umbel that is its own parent (R140). -/
def rootReached (um : Tab (BitVec 256)) : Nat → BitVec 16 → Bool
  | 0, _ => false
  | n + 1, u => let p := umParent (tget 0 um u.toNat); p == u || rootReached um n p

/-- A used entry at fault (R140). -/
def umbelBad (s : State) (im : Image) (i : Nat) (e : BitVec 256) : Bool :=
  (umAddr e).toNat != i || umKind e == 3 || !coreRangeOk s e ||
    (umKind e == 2 && !childrenOk im i e) ||
    (umKind e == 1 && (usedUmbels im).any fun v => v.1 != i && (umParent v.2).toNat == i) ||
    !rootReached im.umbels (im.umbels.length + 2) (BitVec.ofNat 16 i) ||
    decide (16384 < (umRcptBase e).toNat + (umRcptCount e).toNat) ||
    decide (im.rels.length < (umRelOff e).toNat + (umRelCount e).toNat)

/-- Receipt ranges overlap only where one umbel encloses the other (R140). -/
def rcptRangesOk (im : Image) (a b : Nat × BitVec 256) : Bool :=
  let n := im.umbels.length
  !meet ((umRcptBase a.2).toNat, (umRcptCount a.2).toNat) ((umRcptBase b.2).toNat, (umRcptCount b.2).toNat) ||
    onChain im.umbels (BitVec.ofNat 16 a.1) n (BitVec.ofNat 16 b.1) || onChain im.umbels (BitVec.ofNat 16 b.1) n (BitVec.ofNat 16 a.1)

/-- Two umbels are not stages of one number or of overlapping cores (R141). -/
def stagesOk (a b : BitVec 256) : Bool :=
  umStage a != umStage b && !meet ((umFirst a).toNat, (umCount a).toNat) ((umFirst b).toNat, (umCount b).toNat)

/-- The nesting is a tree (R20): umbels with no parent share no core, and every other used umbel is a child of a used umbel of
umbels that lists it. R140 gives the two no code of their own: E_IMAGE is the model's reading (DEDUCED, LOG 34). -/
def nestingOk (im : Image) : Bool :=
  let us := usedUmbels im
  let roots := us.filter fun u => (umParent u.2).toNat == u.1
  pairsOk (fun a b => !meet ((umFirst a.2).toNat, (umCount a.2).toNat) ((umFirst b.2).toNat, (umCount b.2).toNat)) roots &&
    us.all fun u =>
      let p := tget 0 im.umbels (umParent u.2).toNat
      (umParent u.2).toNat == u.1 || (umKind p == 2 && decide ((umFirstChild p).toNat ≤ u.1) &&
        decide (u.1 < (umFirstChild p).toNat + (umChildCount p).toNat))

/-- A stage, or an umbel with a release table, names a guest's endpoint, which so has a STREAM_START or an ENV_RELEASE (R249). -/
def guestUmbel (s : State) (u : Nat × BitVec 256) : Bool :=
  (umIsStage u.2 || umRelCount u.2 != 0) && onGuest s (umFirst u.2).toNat (umCount u.2).toNat

/-- Section 0x04. -/
def umbelsErr (s : State) (im : Image) : Option Err :=
  firstErr [(im.umbels.any fun u => !umRsv u.2, eReserved), ((usedUmbels im).any fun u => umbelBad s im u.1 u.2, eImage),
    (!nestingOk im, eImage), ((usedUmbels im).any (guestUmbel s), eImage), (!pairsOk (rcptRangesOk im) (usedUmbels im), eImage),
    (!pairsOk stagesOk (((usedUmbels im).map Prod.snd).filter umIsStage), eImage)]

/-! ### Section 0x05 (R142 to R144, R217) -/

/-- A field that the entry's kind does not use is not zero (R144). -/
def planFieldBad (p : BitVec 256) : Bool :=
  let k := (plKind p).toNat
  let on := fun (l : List Nat) => l.contains k
  (!on [4] && plEdSel p != 0) || (!(k == 4 && plEdSel p == 2) && plEdDrop p) || (!on [2] && plRemote p) ||
    (!on [2, 3] && plQueue p != 0) || (!on [4, 5] && plStage p != 0) || (!on [2, 3, 4] && plMb p != 0) ||
    (!(k == 2 && plRemote p) && plDstPkg p != 0) || (!plQuant p && plLayer p != 0) || (k == 0 && p != 0)

/-- A quantising entry at fault (R144): its kind, its record, its row. -/
def planQuantBad (t : State) (h : Nat) (p : BitVec 256) : Bool :=
  plQuant p && (!((plKind p).toNat == 1 || (plKind p).toNat == 2) ||
    match layerRec t (plLayer p).toNat with
    | some l => (lrHub l.hdr).toNat != h || plBytes p != ((lrInCh l.hdr).toNat + 1) * (fmtBits (lrSrcFmt l.hdr).toNat / 8)
    | none => true)

/-- The bytes from offset 0 that rows of `n` bytes reach. -/
def rowsEnd (off count stride n : Nat) : Nat := off + (count - 1) * (stride * 16) + n

/-- A POST or COLLECT reaches outside the slot, or an edition consignment outside its region (R144). -/
def planReachBad (t : State) (p : BitVec 256) : Bool :=
  let c := plRowCount p
  let dstEnd := max (rowsEnd (plDst p).toNat c (plDstStride p).toNat (dstBytes t p))
    (match planLayer t p with | some l => (plDst p).toNat + headerAt l p + 16 | none => 0)
  let srcEnd := rowsEnd (plSrc p).toNat c (plSrcStride p).toNat (plBytes p)
  match (plKind p).toNat with
  | 2 => !plRemote p && (match planQueue t p with | some d => decide ((qdSlotBytes d).toNat < dstEnd) | none => true)
  | 3 => match planQueue t p with | some d => decide ((qdSlotBytes d).toNat < srcEnd) | none => true
  | 4 => match edDesc t (plStage p).toNat with | some d => decide (((edGranules d).toNat + 1) * granule < srcEnd) | none => true
  | 5 => match edDesc t (plStage p).toNat with | some d => decide (((edGranules d).toNat + 1) * granule < dstEnd) | none => true
  | _ => false

/-- Bytes written to a core's scratchpad lie outside the window of the stage that holds the core (R142). -/
def outsideWindow (im : Image) (t : State) (a n : Nat) : Bool :=
  n != 0 && decide (0x020000000000 ≤ a) && decide (a < 0x030000000000) &&
    (List.range ((a % 131072 + n - 1) / 131072 + 1)).any fun i =>
      let base := a / 131072 * 131072 + i * 131072
      match windowOf im t ((base - 0x020000000000) / 131072) with
      | some w => decide (max a base < base + w.1) || decide (base + w.2 < min (a + n) (base + 131072))
      | none => true

/-- A plan entry at fault (R142 to R144, R217, R249). -/
def planBad (im : Image) (t : State) (n : Nat) (p : BitVec 256) : Bool :=
  let k := (plKind p).toNat
  let h := consHub n
  let acc := accesses t p
  decide (5 < k) || (plSrc p).toNat % 16 != 0 || (plDst p).toNat % 16 != 0 ||
    plBytes p == 0 || plBytes p % 16 != 0 ||
    (decide (1 < plRowCount p) && (decide ((plSrcStride p).toNat * 16 < plBytes p) || decide ((plDstStride p).toNat * 16 < plBytes p))) ||
    planQuantBad t h p ||
    ((k == 4 || k == 5) && ((stageEnt t (plStage p).toNat).isNone || homeHub t (plStage p).toNat != h)) ||
    ((k == 3 || (k == 2 && !plRemote p)) &&
      (match queueDesc t (plQueue p).toNat with | some d => (qdHub d).toNat != h | none => true)) ||
    planReachBad t p ||
    (acc.any fun x => x.2.2 && outsideWindow im t x.1 x.2.1) ||
    (acc.any fun x => touchesCache t x.1 x.2.1) || acc.any fun x => inGuest t x.1 x.2.1

/-- For the queue and micro-batch of entry `p`, the COLLECT entries are not `parts`, or the POST entries are not (R144). A queue that
only remote POSTs feed has no POST entry of its own (R150; DEDUCED, LOG 34). -/
def partsBad (im : Image) (t : State) (p : BitVec 256) : Bool :=
  let n := fun (k : Nat) => (im.plans.filter fun x => (plKind x.2).toNat == k && plQueue x.2 == plQueue p && plMb x.2 == plMb p &&
    !plRemote x.2).length
  match queueDesc t (plQueue p).toNat with
  | some d => n kCollect != (qdParts d).toNat + 1 || (n kPost != 0 && n kPost != (qdParts d).toNat + 1)
  | none => true

/-- Section 0x05. -/
def plansErr (im : Image) (t : State) : Option Err :=
  let used := im.plans.filter fun p => plKind p.2 != 0
  firstErr [(im.plans.any fun p => !plRsv p.2, eReserved),
    ((relsOf im 2).any fun r => plKind (tget 0 im.plans (relObject r).toNat) == 0, eImage),
    (im.plans.any fun p => planFieldBad p.2, eImage), (used.any fun p => planBad im t p.1 p.2, eImage),
    (used.any fun p => (plKind p.2 == 3 || (plKind p.2 == 2 && !plRemote p.2)) && partsBad im t p.2, eImage)]

/-! ### Section 0x06 (R287 to R290) -/

/-- A station may stand next to the station at hub `h` of this package (R287). -/
def stationOk (s : State) (h : Nat) (pkg : BitVec 15) (hub : Nat) : Bool :=
  if pkg = s.place.addr then hub != h && hub + h != 3
  else
    let d := fun a => (coordOf s pkg a + axisLen s a - coordOf s s.place.addr a) % axisLen s a
    let near := fun a => d a == 1 || d a + 1 == axisLen s a
    ((List.range 3).filter fun a => d a != 0).length == 1 && (List.range 3).all fun a => d a == 0 || near a

/-- A collective entry has a format code that is neither BF16 nor FP32 (R290). -/
def collFormatBad (e : BitVec 512) : Bool :=
  !([6, 8].contains (coInFmt e).toNat) || !([6, 8].contains (coOutFmt e).toNat)

/-- The contribution is read at this station (R293). -/
def collNeedsSrc (e : BitVec 512) : Bool := isReduce e || isRoot e
/-- The result is written at this station (R293). -/
def collNeedsDst (e : BitVec 512) : Bool := coKind e != 2 || isRoot e

/-- The other conditions of R290 on one entry, beside its formats and its id. -/
def collEntryBad (s : State) (e : BitVec 512) : Bool :=
  coKind e == 0 || coOp e == 3 || (coKind e == 1 && coOp e != 0) ||
    decide ((coRingN e).toNat < (coPos e).toNat) || decide ((coRingN e).toNat < (coRoot e).toNat) || coRingN e == 0 ||
    !stationOk s (coHub e).toNat (coNextPkg e) (coNextHub e).toNat || !stationOk s (coHub e).toNat (coPrevPkg e) (coPrevHub e).toNat ||
    coCount e % 32 != 0 || (coSrc e).toNat % 64 != 0 || (coDst e).toNat % 64 != 0 ||
    (collNeedsSrc e && coSrc e == 0) || (collNeedsDst e && coDst e == 0) || coTimeout e == 0

/-- The offset beat at which an image's collective starts. -/
def collBeat (im : Image) (e : BitVec 512) : Nat :=
  match (relsOf im 3).find? fun r => relObject r == coId e with | some r => (pmBeat (relOffset r)).toNat | none => 0

/-- Two neighbouring entries stand in hub order, and in key order within a hub (R288, R297). -/
def collOrderOk (im : Image) (a b : BitVec 512) : Bool :=
  decide ((coHub a).toNat < (coHub b).toNat) ||
    (coHub a == coHub b && (decide (collBeat im a < collBeat im b) || (collBeat im a == collBeat im b && decide ((coId a).toNat < (coId b).toNat))))

/-- The codes of a wheel, slice by slice (R283). -/
def wheelCodes (w : BitVec 64) : List Nat := (List.range 16).map fun i => (fld w (4 * i) 4).toNat

/-- A hub block at fault (R288, R290). -/
def hubBlockBad (s : State) (h : Nat) (b : BitVec 256) : Bool :=
  let w := wheelCodes (chWheel b)
  let base := (chHoldBase b).toNat
  let n := (chHoldSlots b).toNat
  w.any (fun c => decide (6 < c)) || !w.contains 5 || !w.contains 6 ||
    ((List.range 3).any fun i => (match (linksOfHub h)[i]? with | some l => linkServes s l | none => false) && !w.contains i) ||
    base % granule != 0 || decide (n < 16) || decide (1024 < n) ||
    !inSpLlm s base (n * granule) || hubOfAddr s base != some h || hubOfAddr s (base + n * granule - 1) != some h

/-- Section 0x06. -/
def collsErr (s : State) (im : Image) : Option Err :=
  if !im.sections.contains 0x06 then none else
  firstErr [(im.collHubs.any (fun b => !chRsv b) || im.colls.any fun e => !coRsv e, eReserved),
    (im.colls.any fun e => collEntryBad s e || collFormatBad e || bit (coId e) 31, eImage),
    (im.colls.any fun e => ((relsOf im 3).filter fun r => relObject r == coId e).length != 1, eImage),
    (!pairsOk (fun a b => coHub a != coHub b || coId a != coId b) im.colls, eImage),
    (!chainOk (collOrderOk im) im.colls, eImage),
    (im.collHubs.length != 4 || (List.range 4).any fun h => hubBlockBad s h (im.collHubs.getD h 0), eImage),
    ((List.range 4).any fun h => decide (4096 < (im.colls.filter fun e => (coHub e).toNat == h).length), eCapacity)]

/-! ### Sections 0x07 and 0x08 (R142, R148, R156, R177, R182, R322, R323) -/

/-- A queue's storage. -/
def queueRange (d : BitVec 256) : Nat × Nat := ((qdBase d).toNat, ((qdDepth d).toNat + 1) * (qdSlotBytes d).toNat)

/-- A queue descriptor at fault (R148, R217). -/
def queueBad (s : State) (im : Image) (d : BitVec 256) : Bool :=
  let r := queueRange d
  let n := (qdDepth d).toNat
  let unused := fun (u : BitVec 16) => !umUsed (tget 0 im.umbels u.toNat)
  r.1 % 64 != 0 || !(inHbm r.1 r.2 || inSpLlm s r.1 r.2) || (hubOfAddr s r.1).isNone ||
    (decide (r.1 < 0x010000000000) && hubOfAddr s r.1 != hubOfAddr s (r.1 + r.2 - 1)) ||
    (qdHiEn d && ((qdWmHigh d).toNat == 0 || decide (n + 1 < (qdWmHigh d).toNat))) ||
    (qdLoEn d && decide (n < (qdWmLow d).toNat)) ||
    (qdHiEn d && qdLoEn d && decide ((qdWmHigh d).toNat ≤ (qdWmLow d).toNat)) ||
    unused (qdProducer d) || unused (qdConsumer d)

/-- The stages of the image. -/
def stageNums (im : Image) : List (BitVec 10) := (((usedUmbels im).map Prod.snd).filter umIsStage).map umStage

/-- Every agent that waits on a receipt lies on a subscribed die or hub: release units and WAIT.RCPT (R182). -/
def waitersBad (im : Image) (t : State) : Bool :=
  ((usedUmbels im).any fun u => (relTable im u.2).any fun r =>
    !relNoWait r && !subscribed t (umRcptBase u.2 + relReceipt r) (relSub u.2)) ||
  im.streams.any fun w => fld w.2 56 8 == 0x24 && !subscribed t (scuRcpt (fld w.2 0 56)) (w.1 / 2048 / 4096)

/-- The bytes of a stage's edition region, its pool and its eight granule tables (R156). -/
def edRanges (d : BitVec 256) : List (Nat × Nat) :=
  let n := (edGranules d).toNat + 1
  [((edBase d).toNat, n * granule), ((edPoolBase d).toNat, (edPool d).toNat * granule), ((edGtBase d).toNat, 8 * n * 4)]

/-- The two regions of a checkpoint record (R322). -/
def ckptRanges (r : BitVec 256) : List (Nat × Nat) :=
  [((ckBuddyBase r).toNat, ((ckBuddyGib r).toNat + 1) * 2 ^ 30), ((ckStoreBase r).toNat, ((ckStoreGib r).toNat + 1) * 2 ^ 30)]

/-- In the table of some umbel a CKPT_CUT follows a COMMIT (R323). -/
def cutAfterCommit (im : Image) : Bool :=
  (usedUmbels im).any fun u => ((relTable im u.2).dropWhile fun r => relAction r != 6).any fun r => relAction r == 7

/-- The CKPT_CUT release waits on the `done_rcpt` of `warn_coll` (R323). -/
def cutReceiptOk (im : Image) (e : BitVec 512) : Bool :=
  (usedUmbels im).any fun u => (relTable im u.2).any fun r => relAction r == 7 && umRcptBase u.2 + relReceipt r == coDone e

/-- The checkpoint record at fault (R323). -/
def ckptBad (im : Image) (r : BitVec 256) : Bool :=
  let others := im.editions.flatMap edRanges ++ im.queues.map queueRange
  (match im.colls.find? fun e => coId e == ckWarnColl r with
   | some e => coKind e != 3 || coOp e != 0 || coInFmt e != 8 || !cutReceiptOk im e
   | none => true) ||
  (relsOf im 7).any (fun x => relObject x != 0) || (!(relsOf im 6).isEmpty && !cutAfterCommit im) ||
  ckVersion r != 1 || ckRate r == 0 || decide (400 < (ckRate r).toNat) ||
  (ckptRanges r).any (fun x => x.1 % granule != 0 || !inHbm x.1 x.2 || others.any (meet x)) || !pairsOk (fun a b => !meet a b) (ckptRanges r)

/-- Section 0x07. -/
def queuesErr (s : State) (im : Image) (t : State) : Option Err :=
  let rsv := im.budgets.any (fun b => !budRsv b) || im.queues.any (fun d => !qdRsv d) || im.rcptDescs.any (fun d => !rdRsv d) ||
    (match im.ckptRec with | some r => !ckRsv r | none => false)
  firstErr [(rsv, eReserved),
    ((stageNums im).any fun g => (im.budgets.filter fun b => budStage b == g).length != 1, eImage),
    (im.budgets.any fun b => decide ((budHi b).toNat ≤ (budLo b).toNat), eImage),
    (!pairsOk (fun a b => qdQueue a != qdQueue b) im.queues, eImage), (im.queues.any (queueBad s im), eImage),
    ((List.range 4).any fun h => decide (1024 < (im.queues.filter fun d => (qdHub d).toNat == h).length), eCapacity),
    (!pairsOk (fun a b => rdRcpt a != rdRcpt b) im.rcptDescs, eImage), (waitersBad im t, eImage),
    (decide (1 < (relsOf im 7).length) || im.ckptRec.isSome == (relsOf im 7).isEmpty, eImage),
    (match im.ckptRec with | some r => ckptBad im r | none => false, eImage)]

/-- Section 0x08. -/
def editionsErr (s : State) (im : Image) : Option Err :=
  let all := im.editions.flatMap edRanges
  firstErr [(im.editions.any fun d => !edRsv d, eReserved),
    ((stageNums im).any fun g => (im.editions.filter fun d => edStage d == g).length != 1, eImage),
    (im.editions.any fun d => edMax d == 0 || decide (8 < (edMax d).toNat), eImage),
    (!pairsOk (fun a b => !meet a b) all || all.any fun x => im.queues.any fun d => meet x (queueRange d), eImage),
    (im.editions.any fun d => !inSpLlm s (edGtBase d).toNat (8 * ((edGranules d).toNat + 1) * 4), eImage)]

/-! ### Sections 0x09 and 0x0A (R233, R234, R243, R370, R470) -/

/-- A guarantee on an HBM range that the package reports as zero: the capacity check rejects it (R214). -/
def onDeadHbm (s : State) (g : BitVec 128) : Bool := !guTarget g && !s.caps.hbmLive.getLsbD (guHub g).toNat

/-- Section 0x09. -/
def guarsErr (s : State) (im : Image) (c : Fin 64) : Option Err :=
  firstErr [(im.guars.any fun g => !guRsv g, eReserved), (im.guars.any (badGuarantee im.flows), eImage),
    (im.guars.any (badClass s im.umbels (BitVec.ofNat 6 c.val) im.flows), eGuarantee), (notAdmitted s (im.guars.filter fun g => !onDeadHbm s g), eGuarantee)]

/-- The map entry names no valid flow, or one whose context is not of source `src`. -/
def mapBad (im : Image) (src : Nat) (m : BitVec 16) : Bool :=
  let f := tget 0 im.flows (fld m 0 12).toNat
  !flValid f || (flCtxSrc f).toNat != src

/-- The hub pairs that a flow's intermediate hubs need (R18, R470), as bundle numbers. -/
def flowBundles (f : BitVec 128) : List Nat :=
  (if flVia03 f then [38, 37] else [36, 39]) ++ (if flVia12 f then [39, 37] else [36, 38])

/-- The logical dies from which flow `f` reaches memory: those of the umbels whose XFERs it serves, and of an umbel that it names and whose
guest it may serve (R470, R248). -/
def flowDies (im : Image) (f : BitVec 12) : List Nat :=
  let e := tget 0 im.flows f.toNat
  ((usedUmbels im).filter fun u => fld (tget 0 im.xferFlow u.1) 0 12 == f || (flCtxSrc e == 1 && (flUmbel e).toNat == u.1)).flatMap fun u =>
    (List.range 32).filter fun d => meet ((umFirst u.2).toNat, (umCount u.2).toNat) (d * 4096, 4096)

/-- The hubs from which flow `f` reaches memory: of its dies, its consignments, its engines, its collectives, and C0 for the host's
paths (R470, R289). -/
def flowHubs (im : Image) (f : BitVec 12) : List Nat :=
  let plans : List Nat := (im.plans.filter fun p => plKind p.2 != 0 && fld (tget 0 im.consFlow p.1) 0 12 == f).map fun p => consHub p.1
  let host : List Nat := (im.hostFlow.filter fun m => fld m.2 0 12 == f).map fun m => if m.1 < 65 then 0 else (m.1 - 65) / 4
  let colls : List Nat := (im.colls.filter fun e => coFlow e == f).map fun e => (coHub e).toNat
  ((flowDies im f).map (· / 8) ++ plans ++ host ++ colls).dedup

/-- The hub pairs on the way from hub `q` to hub `h` (R18, R470). -/
def pairPath (e : BitVec 128) (q h : Nat) : List Nat :=
  if q = h then []
  else match hopTo q h with
    | some x => [x.1]
    | none => if q + h = 3 ∧ (q = 0 ∨ q = 3) then (if flVia03 e then [38, 37] else [36, 39]) else (if flVia12 e then [39, 37] else [36, 38])

/-- The guaranteed GB/s that may cross bundle `b` in a direction (R243, R247): every guarantee whose flow reaches its memory over it. That a
guarantee counts whole on each bundle of its way is the model's reading (DEDUCED, LOG 8). -/
def bundleLoad (s : State) (im : Image) (b : Nat) : Nat :=
  ((im.guars.filter fun g =>
    if b < 36 then (flowDies im (guFlow g)).any fun d => siteOfDie s d == b
    else (flowHubs im (guFlow g)).any fun q => (pairPath (tget 0 im.flows (guFlow g).toNat) q (guHub g).toNat).contains b).map fun g => (guGbps g).toNat).sum

/-- The payload capacity of a bundle's live ports in a direction, in GB/s times 1,024 / 125 (R238, R243, R247). -/
def bundleRoom (s : State) (b : Nat) (up : Bool) : Nat :=
  (((List.range 4).filter (portLive s b)).map fun p => dataGroups s b p up * 64 * (if b < 36 then (siteOf s b).rate else 16)).sum

/-- The guarantees need more than some bundle's live ports carry. -/
def bundleShort (s : State) (im : Image) : Bool :=
  (List.range 40).any fun b =>
    let n := bundleLoad s im b
    n != 0 && [true, false].any fun up => decide (bundleRoom s b up * 125 < n * 1024)

/-- Section 0x0A. Map entries of unused consignments and umbels are not read (R470). -/
def routesErr (s : State) (im : Image) : Option Err :=
  let valid := (im.flows.map Prod.snd).filter flValid
  let maps := ((im.plans.filter fun p => plKind p.2 != 0).map fun p => tget 0 im.consFlow p.1) ++
    ((usedUmbels im).map fun u => tget 0 im.xferFlow u.1) ++ im.hostFlow.map Prod.snd
  firstErr [(fld im.rtHdr 8 504 != 0 || im.flows.any (fun f => !flRsv f.2) || maps.any (fun m => fld m 12 4 != 0) ||
      im.hostFlow.any (fun m => decide (81 ≤ m.1)), eReserved),
    (fld im.rtHdr 0 8 != 1, eImage),
    (valid.any fun f => flCtxSrc f == 3 || decide (6 ≤ (flAxis f).toNat) || flWeight f == 0, eImage),
    (im.plans.any fun p => plKind p.2 != 0 && mapBad im 0 (tget 0 im.consFlow p.1), eImage),
    ((usedUmbels im).any fun u => mapBad im 1 (tget 0 im.xferFlow u.1), eImage),
    ((List.range 65).any fun c => let m := tget 0 im.hostFlow c
      mapBad im 2 m || (flCtx (tget 0 im.flows (fld m 0 12).toNat)).toNat != c % 64, eImage),
    ((List.range 16).any fun i => mapBad im 0 (tget 0 im.hostFlow (65 + i)), eImage),
    (im.colls.any fun e => mapBad im 0 ((coFlow e).setWidth 16), eImage),
    (match im.ckptRec with | some r => mapBad im 0 ((ckFlow r).setWidth 16) | none => false, eImage),
    ((valid.any fun f => (flowBundles f).any fun b => tget 0 s.caps.hdi b == 0) || bundleShort s im, eCapacity)]

/-! ### Sections 0x0D and 0x0E (R119 to R122, R186 to R190, R199, R200) -/

/-- A bounds entry whose `lo` or `hi` is not finite, or with `lo` above `hi` (R123). -/
def boundBad (b : BitVec 64) : Bool :=
  let lo := decodeF fBF16 (beLo b).toNat
  let hi := decodeF fBF16 (beHi b).toNat
  !lo.isFin || !hi.isFin || ltVal hi lo

/-- A layer record at fault (R123). -/
def layerBad (l : Layer) : Bool :=
  let n := (lrInCh l.hdr).toNat + 1
  (lrDstFmt l.hdr == 9 && n % 64 != 0) || (lrDstFmt l.hdr == 0 && n % 2 != 0) || l.bounds.any boundBad ||
    (l.rescale.any fun r => !(decodeF fFP32 (fld r 32 32).toNat).isFin) ||
  lrVersion l.hdr != 1 || !([6, 7, 8].contains (lrSrcFmt l.hdr).toNat) || !([0, 1, 9].contains (lrDstFmt l.hdr).toNat) ||
    decide (16 < (lrPinned l.hdr).toNat) || (l.bounds.filter bePinned).length != (lrPinned l.hdr).toNat ||
    l.bounds.length != n || l.rescale.length != (lrOutCh l.hdr).toNat + 1 || (lrStats l.hdr).toNat % 8 != 0

/-- Section 0x0D. -/
def layersErr (im : Image) : Option Err :=
  firstErr [(im.layers.any fun l => !lrRsv l.hdr || l.bounds.any fun b => !beRsv b, eReserved),
    (im.layers.any layerBad || !pairsOk (fun a b => lrId a.hdr != lrId b.hdr) im.layers, eImage),
    (decide (16384 < im.layers.length) ||
      (List.range 4).any fun h => decide (4096 < (im.layers.filter fun l => (lrHub l.hdr).toNat == h).length), eCapacity)]

/-- The bytes of the four arrays of an entry in its edition region (R185). -/
def arrayRanges (e : BitVec 512) : List (Nat × Nat) :=
  let n := updElems e
  let w := if ueWFmt e = 4 then (n + 63) / 64 * 64 + n / 32 else n * 2
  let m := if ueMomFp32 e then 4 else 2
  [((ueWGran e).toNat * granule, w), ((ueMaGran e).toNat * granule, n * 4), ((ueM1Gran e).toNat * granule, n * m),
   ((ueM2Gran e).toNat * granule, n * m)]

/-- Program `i` at fault (R187). -/
def progBad (u : UpdSection) (i : Nat) : Bool :=
  let ws := tgets 0 u.progs (i * 64) 64
  ws.any (fun w => decide (0x10 < (uiOp w).toNat) || ((uiOp w).toNat == 2 && fld w 0 3 == 0)) || !ws.any fun w => uiOp w == 0

/-- An update entry at fault (R187). -/
def entryBad (t : State) (e : BitVec 512) : Bool :=
  let n := updElems e
  let g := (ueStage e).toNat
  !(ueWFmt e == 6 || ueWFmt e == 4) || n % 2 ^ ((ueBlk e).toNat + 5) != 0 || (ueWFmt e == 4 && n % 32 != 0) ||
    (match edDesc t g with
     | some d => !pairsOk (fun x y => !meet x y) (arrayRanges e) || (arrayRanges e).any fun r => decide (((edGranules d).toNat + 1) * granule < r.1 + r.2)
     | none => true) ||
    !subscribed t (ueGo e) (32 + homeHub t g)

/-- Two update entries do not collide: their arrays, and the element ranges of one tensor (R187). -/
def entriesOk (a b : BitVec 512) : Bool :=
  (ueStage a != ueStage b || (arrayRanges a).all fun x => (arrayRanges b).all fun y => !meet x y) &&
    (ueTensor a != ueTensor b || !meet ((ueElemBase a).toNat, updElems a) ((ueElemBase b).toNat, updElems b))

/-- The receipts that words, releases and tables of the image name, beside the commit record's three (R200). -/
def namedRcpts (im : Image) (u : UpdSection) : List (BitVec 14) :=
  im.queues.flatMap (fun d => [qdArrive d, qdFree d]) ++ ((im.plans.filter fun p => plKind p.2 != 0).map fun p => plRcpt p.2) ++
    im.colls.map coDone ++ (match im.ckptRec with | some r => [ckDone r] | none => []) ++
    u.entries.flatMap (fun e => [ueGo e, ueDone e]) ++ [crReady u.commit] ++
    (relsOf im 5).map (fun r => (relObject r).setWidth 14) ++
    im.streams.filterMap fun w =>
      let b : W56 := fld w.2 0 56
      match (fld w.2 56 8).toNat with
      | 0x24 => some (scuRcpt b)
      | 0x32 => if scuRemote b then none else some (scuRcpt b)
      | 0x33 => some (scuRcpt b)
      | 0x80 => if xfRadd b then some (xfRcpt b) else none
      | 0x81 => if xfRadd b then some (xfRcpt b) else none
      | _ => none

/-- The commit record at fault (R200, R182). -/
def commitBad (im : Image) (t : State) (u : UpdSection) (r : BitVec 256) : Bool :=
  let rs := [crVote r, crConfirm r, crAbort r]
  crVersion r != 1 || decide (1 < (crLag r).toNat) || crVoteWin r == 0 || crConfirmWin r == 0 || crDoubtWin r == 0 ||
    (memberPos t r t.place.addr).isNone ||
    decide (im.stepBeats.toNat * 4096 ≤ ((crVoteWin r).toNat + (crConfirmWin r).toNat + (crDoubtWin r).toNat) * 16) ||
    !pairsOk (fun a b => a != b) rs || rs.any (rcptOpen t) ||
    (rs.any fun x => (usedUmbels im).any fun v => decide ((umRcptBase v.2).toNat ≤ x.toNat) &&
      decide (x.toNat < (umRcptBase v.2).toNat + (umRcptCount v.2).toNat)) ||
    rs.any (namedRcpts im u).contains || (crStepRec r).toNat % 64 != 0 || !subscribed t (crReady r) 32

/-- `ls_init_exp` lies within the latitude (R187). -/
def lsInitOk (im : Image) (u : UpdSection) : Bool :=
  decide ((latLsMin im.latitude).toInt ≤ u.lsInit.toInt) && decide (u.lsInit.toInt ≤ (latLsMax im.latitude).toInt)

/-- Section 0x0E. -/
def updErr (im : Image) (t : State) : Option Err :=
  let n := (relsOf im 6).length
  match im.upd with
  | none => if n = 0 then none else some eImage
  | some u =>
    firstErr [(u.rsv != 0 || !crRsv u.commit || u.entries.any fun e => !ueRsv e, eReserved),
      (u.version != 1 || !lsInitOk im u, eImage), ((List.range 64).any (progBad u), eImage),
      (u.entries.any (entryBad t) || !pairsOk entriesOk u.entries, eImage),
      (decide (1 < n) || (n == 0) != (u.commit == 0), eImage),
      (n != 0 && commitBad im t u u.commit, eImage)]

/-! ### Section 0x0F and capacity (R16, R44, R214, R403) -/

/-- Section 0x0F. -/
def latitudeErr (x : BitVec 256) : Option Err :=
  let out := fun (v : BitVec 8) => decide (v.toNat < 16) || decide (60 < v.toNat)
  let far := fun (v : BitVec 8) => decide (v.toInt < -24) || decide (24 < v.toInt)
  firstErr [(!latRsv x, eReserved), (latVersion x != 1, eImage),
    (decide ((latFMax x).toNat < (latFMin x).toNat) || out (latFMin x) || out (latFMax x), eImage),
    (decide ((latPMax x).toNat < 600) || decide (1400 < (latPMax x).toNat), eImage),
    (decide ((latRekeyMin x).toNat < 60), eImage),
    (decide ((latLsMax x).toInt < (latLsMin x).toInt) || far (latLsMin x) || far (latLsMax x), eImage),
    (latLsGrowth x == 0, eImage), (latMinRate x == 3, eImage)]

/-- The memory the image places data in, as (address, length) pairs. -/
def placedRanges (im : Image) (t : State) : List (Nat × Nat) :=
  im.queues.map queueRange ++ im.editions.flatMap edRanges ++
    (match im.ckptRec with | some r => ckptRanges r | none => []) ++
    (im.plans.flatMap fun p => if plKind p.2 == 0 then [] else (accesses t p.2).map fun x => (x.1, x.2.1)) ++
    (im.colls.flatMap fun e => [((coSrc e).toNat, if collNeedsSrc e then coCount e * collBytes (coInFmt e) else 0),
                                ((coDst e).toNat, if collNeedsDst e then coCount e * collBytes (coOutFmt e) else 0)]) ++
    (im.layers.map fun l => ((lrStats l.hdr).toNat, 2 * ((lrInCh l.hdr).toNat + 1) * 8)) ++
    (match im.upd with
     | some u => (u.entries.map fun e => ((ueGrad e).toNat, updElems e * 4)) ++
        (if (relsOf im 6).isEmpty then [] else [((crStepRec u.commit).toNat, 64)])
     | none => [])

/-- More is needed than the package reports, or data lies where none may (R16, R214, R403). A guarantee may lie on no
HBM range that is retired. -/
def capacityErr (s : State) (im : Image) (t : State) : Option Err :=
  let dead := (List.range 4).filter fun h => !s.caps.hbmLive.getLsbD h
  let bad := fun (r : Nat × Nat) => dead.any (fun h => meet r (h * 2 ^ 38, 2 ^ 38)) ||
    (List.range 4).any (fun h => meet r (h * 2 ^ 38 + 0x3FE0000000, 0x20000000)) ||
    (List.range 32).any fun i => !s.caps.llmLive.getLsbD i && meet r (0x010000000000 + i * 0x04000000, 0x04000000)
  firstErr [(decide (s.caps.cores.toNat < im.needCores) || decide (s.caps.dies.toNat < im.needDies) ||
      (im.needHbm &&& ~~~s.caps.hbmLive) != 0 || im.guars.any (onDeadHbm s), eCapacity),
    ((placedRanges im t).any bad, eCapacity)]

/-! ### The whole of pass 1 -/

/-- The placement block differs from SYS.PLACE, or SYS.PLACE is not set (R311). -/
def shapeBad (s : State) (im : Image) : Bool :=
  let p := im.placement
  !s.place.set || pbLenP p != s.place.lenP || pbLenD p != s.place.lenD || pbLenS p != s.place.lenS ||
    pbP p != s.place.p || pbD p != s.place.d || pbS p != s.place.s

/-- The first of a list of answers that is an error. -/
def firstSome : List (Option Err) → Option Err
  | [] => none
  | x :: t => match x with | some e => some e | none => firstSome t

/-- Why pass 1 rejects an image of `len` bytes loaded under context `c` (R350, R35). -/
def loadErr (s : State) (im : Image) (c : Fin 64) (len : Nat) : Option Err :=
  let t := trial s im c
  firstSome [
    firstErr [(im.secBytes != len, eImage), (sectionsBad im, eImage),
      (!(keyStore s.sh).any fun k => Config.imageSigned im k, eImage), (shapeBad s im, eShape)],
    headerErr s im, streamsErr im t, releasesErr im, umbelsErr s im, plansErr im t, collsErr s im, queuesErr s im t,
    editionsErr s im, guarsErr s im c, routesErr s im, layersErr im, updErr im t, latitudeErr im.latitude, capacityErr s im t]

end Sys2Proof.Machine
end

