-- ==== Sys2Proof/Machine/LoadApply.lean ====
section
/-! DEFINITION. Applying an image and removing it (R350, R367, R470, R474): cores, tables, region entries of the loader,
guarantees. -/

namespace Sys2Proof.Machine

/-! ### Cores -/

/-- Every port takes its core's envelope block. -/
def freshPorts (t : Tab Port) (blks : Tab EnvBlock) : Tab Port :=
  (tkeys t ++ tkeys blks).foldl (fun u c => tput Port.reset u c (freshPort (tget Port.reset t c) (tget ⟨0, []⟩ blks c))) []

/-- The instruction stores take the image's words. -/
def putStreams (s : State) (im : Image) : State :=
  im.streams.foldl (fun s w => wrMem s (isAddr (BitVec.ofNat 17 (w.1 / 2048)) (8 * (w.1 % 2048))) (leBytes 8 w.2)) s

/-! ### Editions (R156) -/

/-- The granule table of edition slot 0: consecutive frames from `ed_base`, all owned. -/
def firstTable (s : State) (d : BitVec 256) : State :=
  (List.range ((edGranules d).toNat + 1)).foldl
    (fun s g => gtPut s d 0 g (BitVec.ofNat 32 (2 ^ 31 + ((edBase d).toNat / granule + g) % 2 ^ 31))) s

/-- Edition (epoch 0, number 0) is Published. -/
def firstStage : Stage := { Stage.reset with eds := [(0, { Edition.reset with st := .published })] }

/-! ### Region entries of the loader (R157, R225, R352) -/

/-- The unit lies under a valid entry of its hub; for edition memory, under one of the edition key (R157). -/
def unitCovered (s : State) (key : BitVec 16) (u : Nat) : Bool :=
  match hubOfAddr s (u * 65536) with
  | some h => (hubOf s h).regions.any fun e => regionCovers e.2 u && (key != editionKey || rgKey e.2 == editionKey)
  | none => true

/-- Ascending units gathered into runs within one hub: (first unit, count). -/
def unitRuns (s : State) : List Nat → List (Nat × Nat)
  | [] => []
  | u :: t => match unitRuns s t with
    | (v, n) :: r => if v = u + 1 ∧ hubOfAddr s (u * 65536) = hubOfAddr s (v * 65536) then (u, n + 1) :: r else (u, 1) :: (v, n) :: r
    | [] => [(u, 1)]

/-- A region entry that permits reads and writes. -/
def mkRegion (base n : Nat) (key : BitVec 16) : BitVec 128 :=
  BitVec.ofNat 32 base ++ BitVec.ofNat 32 (n - 1) ++ key ++ (7 : BitVec 3) ++ (0 : BitVec 45)

/-- The loader writes one entry at the lowest index out of force. -/
def loaderEntry (s : State) (key : BitVec 16) (r : Nat × Nat) : State :=
  match hubOfAddr s (r.1 * 65536) with
  | some h => match (List.range 1024).find? fun i => !rgValid (tget 0 (hubOf s h).regions i) with
    | some i => modHub s h fun m => { m with regions := tput 0 m.regions i (mkRegion r.1 r.2 key), loader := m.loader ++ [i] }
    | none => s
  | none => s

/-- The loader covers a range of bytes that no entry covers yet; edition memory also where the host's entry does (R157). -/
def loaderRange (s : State) (key : BitVec 16) (r : Nat × Nat) : State :=
  (unitRuns s ((unitsOf r.1 r.2).filter fun u => !unitCovered s key u)).foldl (fun s x => loaderEntry s key x) s



/-- The loader's entries of the image. -/
def loaderEntries (s : State) (im : Image) : State :=
  let s1 := (im.editions.flatMap edRanges).foldl (fun s r => loaderRange s editionKey r) s
  (im.queues.map queueRange).foldl (fun s r => loaderRange s (ctxKey s1 (imgOwner s1)) r) s1

/-- The loader's entries go. -/
def dropLoader (s : State) : State :=
  { s with hubs := tmap HubMem.reset (fun _ m => { m with regions := m.loader.foldl (fun t i => tput 0 t i 0) m.regions, loader := [] }) s.hubs }

/-! ### The whole -/

/-- What neither a load nor an unload keeps: schedule, cores, consignments, queues, receipts, engines, rounds, collectives of
an image. Sealed generations of the local cut store stand (R393). -/
def clearImage (s : State) (blks : Tab EnvBlock) : State :=
  { s with
    cores := retiredOnly s.cores, ports := freshPorts s.ports blks, evicts := [], run := { Run.reset with lastRekeyNs := s.run.lastRekeyNs }
    rcpt := Rcpts.reset, cons := [], slots := [], queues := [], stages := [], stats := [], layers := [], upd := []
    commit := { Commit.reset with stale := s.commit.stale }
    ckpt := { s.ckpt with writing := false, localDone := false, heldBits := [],
                          newer := s.ckpt.newer.filter fun g => g.sealed_ }
    offices := tmap Office.reset (fun _ o => { o with colls := [], held := [], wheel := Office.reset.wheel }) s.offices
    ctxs := tmap Ctx.reset (fun _ c => { c with boundNow := false, umbelNow := 0 }) s.ctxs }

/-- The image is applied under context `c` (R350, R470, R474). -/
def applyImage (s : State) (im : Image) (c : Fin 64) : State :=
  let s1 := clearImage (dropLoader s) im.envBlocks
  let s2 := modRun { s1 with sched := .loaded } fun r => { r with image := some im, imgCtx := c, flows := im.flows }
  let s3 := putStreams s2 im
  let s4 := im.editions.foldl firstTable s3
  let s5 := { s4 with stages := im.editions.foldl (fun t d => tput Stage.reset t (edStage d).toNat firstStage) [] }
  let s6 := modCommit s5 fun k => match im.upd with | some u => { k with settledExp := u.lsInit, forceExp := u.lsInit } | none => k
  let s7 := { s6 with hubs := tmap HubMem.reset (fun _ m => { m with hkey := 0 }) s6.hubs }
  let s8 := (List.range 4).foldl (fun s h => match im.collHubs[h]? with
    | some b => modOffice s h fun o => { o with wheel := chWheel b } | none => s) s7
  let s9 := im.guars.foldl addGuar (dropGuars s8)
  let s10 := loaderEntries s9 im
  modSh s10 fun x => { x with meas5 := (Config.imageDigest im).toNat * 2 ^ 64 + (pbDigest im.placement).toNat }

/-- MB_UNLOAD (R347, R367, R470): the image and all that hangs on it go. -/
def removeImage (s : State) : State :=
  let s1 := clearImage (dropLoader s) []
  modSh (dropGuars { s1 with sched := .none }) fun x => { x with meas5 := 0 }

/-- Pass 2 of MB_LOAD (R350): an image that reads otherwise the second time is discarded with host.load_changed; else it is
applied. -/
def finishLoad (s : State) (im again : Image) (c : Fin 64) : State × Err :=
  if Config.imageDigest im = Config.imageDigest again then (applyImage s im c, eOk)
  else (post s (srcUnit s 0xAD 0 0) (cmdPm s) evHostLoadChanged none eImage [], eImage)

end Sys2Proof.Machine
end

