-- ==== Sys2Proof/Machine/RestoreOps.lean ====
section
/-! DEFINITION. MB_RESTORE (R328, R331 to R334): the checks of R332 and the cut state of a step. -/

namespace Sys2Proof.Machine

/-- What a restore puts back: the boundary state and the rest of the boundary block of R325. -/
structure CutState where
  step : BitVec 40
  block : Boundary
  round : BitVec 32
  settledExp : BitVec 8
  lsClean : BitVec 32
  stats : Tab StatHalf
  stages : Tab Stage
  bounds : Tab (Tab (BitVec 32))
  tables : List (Nat × List Byte)
  carried : List (Nat × List Byte)
  deriving DecidableEq, Repr

/-- The cut state of a generation of the local store. -/
def genCut (g : Gen) : CutState :=
  { step := g.step, block := g.block, round := g.round, settledExp := g.settledExp, lsClean := g.lsClean, stats := g.stats
    stages := g.stages, bounds := g.layers.map fun l => (l.1, l.2.bounds), tables := g.tables, carried := g.carried }

/-- The cut state of the buddy's generation. -/
def buddyCut (g : BuddyData) : CutState :=
  { step := g.block.step, block := g.block, round := ghRound g.hdr, settledExp := g.settledExp, lsClean := g.lsClean
    stats := g.stats, stages := g.stages, bounds := g.pinBounds, tables := g.tables, carried := g.carried }

/-! ### The checks (R332) -/

/-- The generation of step `c` in the local store, the newer first. -/
def genOf (s : State) (c : BitVec 40) : Option Gen :=
  (s.ckpt.newer.toList ++ s.ckpt.older.toList).find? fun g => g.step == c

/-- The header's `place` and `job_digest` against this package's. -/
def headerMismatch (s : State) (h : BitVec 512) : Option Err :=
  firstErr [(ghPlace h != placeBits s, eShape), (ghDigest h != jobDigest s, eImage)]

/-- Why a LOCAL restore is rejected. -/
def localErr (s : State) (c : BitVec 40) : Option Err :=
  match genOf s c with
  | none => some eRange
  | some g => match headerMismatch s g.hdr with
    | some e => some e
    | none => if g.sealed_ then none else some eRange

/-- Why a BUDDY restore is rejected; `replica` names the package the working arrays come from (R355). -/
def buddyErr (s : State) (c : BitVec 40) (replica : BitVec 15) (g : BuddyData) : Option Err :=
  match firstErr [((ckptRec s).isNone, eRange), (coordOf s replica 0 != coordOf s s.place.addr 0 || coordOf s replica 2 != coordOf s s.place.addr 2 ||
                   replica == s.place.addr, eRange), (!g.reachable, eLinkDown)] with
  | some e => some e
  | none => match headerMismatch s g.hdr with
    | some e => some e
    | none => if ghSealed g.hdr && ghStep g.hdr == c.setWidth 64 && g.block.step == c then none else some eRange

/-! ### The cut state (R333) -/

/-- Write byte lists at their addresses. -/
def putBytes (s : State) (l : List (Nat × List Byte)) : State := l.foldl (fun s x => wrMem s x.1 x.2) s

/-- The generations still held. -/
def heldGens (s : State) : List Gen := s.ckpt.older.toList ++ s.ckpt.newer.toList

/-- An edition unit as the cut left it: pins are those of the generations held, the serial number goes on rising. -/
def cutUnit (s : State) (g : Nat) (t : Stage) : Stage :=
  let pinsOf := fun (n : Nat) => ((heldGens s).map fun x => (x.pins.filter fun p => p == (g, n)).length).sum
  { t with eds := tmap Edition.reset (fun n e => { e with pins := pinsOf n }) t.eds, frames := 0,
           serial := max t.serial (stageOf s g).serial }

/-- Layer bounds return; their exact counters stand. -/
def cutLayers (s : State) (b : Tab (Tab (BitVec 32))) : Tab LayerSt :=
  (imageLayers s).foldl (fun t l =>
    let i := (lrId l.hdr).toNat
    tput LayerSt.reset t i { layerOf s i with bounds := tget [] b i, pendB := [], pendStep := 0, hitPins := [] }) s.layers

/-- Every commit receipt is n × `round`. -/
def roundCounts (s : State) (round : BitVec 32) (t : Tab (BitVec 32)) : Tab (BitVec 32) :=
  match commitRec s with
  | some r => [crVote r, crConfirm r, crAbort r].foldl (fun t x => tput 0 t x.toNat (round * BitVec.ofNat 32 (crN r))) t
  | none => t

/-- The package stands at the cut `x` (R333, R357): the schedule is Stopped at its step. -/
def restoreCut (s : State) (x : CutState) : State :=
  let s1 := stopCores (discardEvicts s)
  let s2 := putBytes (putBytes { s1 with cons := [], upd := [], sched := .stopped } x.tables) x.carried
  let s3 := { s2 with stages := (edStages s2).foldl (fun t g => tput Stage.reset t g (cutUnit s2 g (tget Stage.reset x.stages g))) [] }
  let s4 := { s3 with stats := x.stats, layers := cutLayers s3 x.bounds }
  let s5 := restoreSlots (restoreCounts s4 (roundCounts s4 x.round x.block.counts) []) x.step x.block.slots
  let s6 := restoreQstats s5 x.block.qstats
  let s7 := modCommit s6 fun c => { c with
    closed := x.round, phase := .closed, waiting := none, votes := 0, confirms := 0, answers := 0
    settledExp := x.settledExp, forceExp := x.block.forceExp, lsClean := x.lsClean }
  let s8 := modRun s7 fun r => { r with
    step := x.step, settled := x.step, reruns := x.block.reruns, stepBad := [], ovf := [], rolling := none
    bounds := [x.block], rekeys := [] }
  let s9 := (edStages s8).foldl freeEds s8
  clearColls (restartTables s9 x.step)

/-- The newer generation is given up, written or not: the restore takes away the editions it pins (R333). -/
def dropNewer (k : Ckpt) : Ckpt := { k with newer := none, writing := false, localDone := false, heldBits := [] }

/-- A LOCAL restore: a generation newer than the one restored is discarded. -/
def restoreLocal (s : State) (g : Gen) : State :=
  let s1 := match s.ckpt.newer with
    | some n => if n.step == g.step then s else modCkpt s dropNewer
    | none => s
  restoreCut s1 (genCut g)

/-- Write the bytes `l` at offset `o` of edition `n` where it stands. -/
def edPoke (s : State) (d : BitVec 256) (n o : Nat) (l : List Byte) : State :=
  ((List.range l.length).zip l).foldl (fun s x => wrMem s (frameOf (gtGet s d n ((o + x.1) / granule)) + (o + x.1) % granule) [x.2]) s

/-- A fall-back generation's owned arrays are rebuilt from the working copies: each master takes its working value, the moments
+0 (R328). -/
def rebuildEntry (s : State) (i : Nat) (e : BitVec 512) : State :=
  match edDesc s (ueStage e).toNat, edIn (stageOf s (ueStage e).toNat) .published with
  | some d, some n =>
    (List.range (updElems e)).foldl (fun s j =>
      let v := (loadElem s { UpdEng.reset with entry := i, elem := j } 1).1
      let put := fun (s : State) (k : Nat) (c : Nat) =>
        let a := arrayOf e k
        edPoke s d n (elemOff a j) (leBytes (fmtBits a.2 / 8) (BitVec.ofNat 32 c))
      put (put (put s 2 (encodeF fFP32 v)) 3 0) 4 0) s
  | _, _ => s

/-- The owned arrays of every update entry are rebuilt. -/
def rebuildOwned (s : State) : State :=
  match s.run.image.bind (·.upd) with
  | some u => ((List.range u.entries.length).zip u.entries).foldl (fun s x => rebuildEntry s x.1 x.2) s
  | none => s

/-- A BUDDY restore (R326, R328, R333, R334): the owned arrays from the generation, the working arrays from the replica; the
verification streams may run until the resume. -/
def restoreBuddy (s : State) (g : BuddyData) : State :=
  let s1 := modCkpt s fun k => { dropNewer k with older := none, nextBase := true, invalid := false }
  let s2 := putBytes (restoreCut s1 (buddyCut g)) g.working
  let s3 := if ghKind g.hdr = 2 then
      post (rebuildOwned s2) (ckptSrc s) (hub0Pm s) evCkptRestoreLossy (some (imgOwner s)) eOk []
    else putBytes s2 g.owned
  modRun s3 fun r => { r with verify := true }

/-- ckpt.restore_done (R333): the step, the source and the duration in us. -/
def restoreDone (s : State) (c : BitVec 40) (source us : Nat) : State :=
  post s (ckptSrc s) (hub0Pm s) evCkptRestoreDone (some (imgOwner s)) eOk [(64, c.toNat), (8, source), (32, us)]

/-- A frame fails its check twice (R332): the restore stops, and no valid state is held until another succeeds. What the state then
holds is not stated; it stands as it was (DESIGN CHOICE, LOG 29). -/
def restoreFails (s : State) : State :=
  modCkpt (post s (ckptSrc s) (hub0Pm s) evCkptRestoreFail (some (imgOwner s)) eInternal []) fun k => { k with invalid := true }

/-- A restore comes to its end: the state, the code, the duration in us. -/
def finishRestore (s : State) (buddy : Bool) (cut : BitVec 64) (g : Option BuddyData) (began : Nat) : State × Err × Nat :=
  let c : BitVec 40 := cut.setWidth 40
  let us := (s.ns - began) / 1000
  match buddy, g with
  | true, some d => if d.frameOk then (restoreDone (restoreBuddy s d) c 1 us, eOk, us) else (restoreFails s, eInternal, 0)
  | _, _ => match genOf s c with
    | some x => (restoreDone (modCkpt (restoreLocal s x) fun k => { k with invalid := false }) c 0 us, eOk, us)
    | none => (s, eRange, 0)

end Sys2Proof.Machine
end

