-- ==== Sys2Proof/Machine/Mailbag.lean ====
section
/-! DEFINITION. The mailbag commands (R344 to R356): one definition per command. A command is served when its mailbag's turn has
come. Two rows that share an opcode differ in their action bits: the one whose bits the descriptor does not carry acts on
nothing. -/

namespace Sys2Proof.Machine

/-- Bits [`n` - 1:0] of the body are zero. -/
def bodyZero (d : BitVec 504) (n : Nat) : Bool := (d.toNat % 2 ^ n) == 0

/-- The descriptor is of this row. -/
def ofRow (b : Bool) (s : State) (r : Res) : Res := if b then r else .next s

/-! ### MB_NOP, MB_COPY (R349) -/

/-- MB_NOP (R347). -/
def execMbNop (c : Fin 64) (d : BitVec 504) (s : State) : Res :=
  shortCmd s c d 0x01 (judge s c d 0x01 (bodyZero d 384) false anySched false none) fun s => (s, 0)

def cpDir (d : BitVec 504) : BitVec 2 := fld d 382 2
def cpSrc (d : BitVec 504) : Addr := fld d 328 48
def cpDst (d : BitVec 504) : Addr := fld d 280 48
def cpHost (d : BitVec 504) : BitVec 64 := fld d 216 64
def cpLen (d : BitVec 504) : Nat := (fld d 176 40).toNat

/-- The package ranges of an MB_COPY: (address, length, write). -/
def copyRanges (dir : BitVec 2) (src dst : Addr) (len : Nat) : List (Nat × Nat × Bool) :=
  (if dir = 0 then [] else [(src.toNat, len, false)]) ++ (if dir = 1 then [] else [(dst.toNat, len, true)])

/-- Those of a descriptor. -/
def cpRanges (d : BitVec 504) : List (Nat × Nat × Bool) := copyRanges (cpDir d) (cpSrc d) (cpDst d) (cpLen d)

/-- A copy meets a retired channel or poisoned memory (R398, R400). -/
def copyRetired (s : State) (r : List (Nat × Nat × Bool)) : Bool :=
  r.any fun x => touchesRetired s x.1 x.2.1 || touchesPoison s x.1 x.2.1 x.2.2

/-- The bytes, in 64-byte steps, before the first that a retired channel or poison stops. -/
def copyGood (s : State) (r : List (Nat × Nat × Bool)) : Nat :=
  match r with
  | [] => 0
  | x :: _ => 64 * ((List.range (x.2.1 / 64)).takeWhile fun i =>
      !r.any fun y => touchesRetired s (y.1 + 64 * i) 64 || (!y.2.2 && touchesPoison s (y.1 + 64 * i) 64 false)).length

/-- The checks of R349, in their order; its last takes in every access that R398 and R400 fail with E_RETIRED. -/
def copyErr (s : State) (c : Fin 64) (d : BitVec 504) : Option Err :=
  let r := cpRanges d
  let key := cfgKey (ctxOf s c.val).cfg
  firstErr [(cpDir d == 3 || cpLen d == 0, eRange),
    ((cpSrc d).toNat % 64 != 0 || (cpDst d).toNat % 64 != 0 || (cpHost d).toNat % 64 != 0 || cpLen d % 64 != 0, eAlign),
    (r.any (fun x => !addrOk s x.1 x.2.1) || (cpDir d != 2 && decide (2 ^ 64 < (cpHost d).toNat + cpLen d)), eRange),
    (r.any fun x => touchesCache s x.1 x.2.1, eMode),
    (r.any fun x => !permitted s key x.1 x.2.1 (!x.2.2) x.2.2, eKey),
    (copyRetired s r, eRetired)]

/-- The reserved fields of MB_COPY (R344, R349). -/
def copyRsvOk (d : BitVec 504) : Bool :=
  fld d 376 6 == 0 && bodyZero d 176 && (cpDir d != 0 || cpSrc d == 0) && (cpDir d != 1 || cpDst d == 0) && (cpDir d != 2 || cpHost d == 0)

/-- MB_COPY (R349). -/
def execMbCopy (c : Fin 64) (d : BitVec 504) (s : State) : Res :=
  let rs := (cpRanges d).map fun x => (x.1, x.2.1)
  longCmd s c d 0x02
    (judge s c d 0x02 (copyRsvOk d) false anySched (pkgLocked s || rangeLocked s rs) (copyErr s c d))
    (.ranges rs) (.copy (cpDir d) (cpSrc d) (cpDst d) (cpHost d) (cpLen d)) id

/-- The first `n` bytes of a copy are moved. -/
def copyBytes (s : State) (dir : BitVec 2) (src dst : Addr) (host : BitVec 64) (n : Nat) : State :=
  match dir.toNat with
  | 0 => pkgWrite s dst.toNat (memRead s.hostMem host.toNat n)
  | 1 => wrHost s host.toNat (pkgRead s src.toNat n)
  | _ => pkgWrite s dst.toNat (pkgRead s src.toNat n)

/-! ### Images and the schedule (R350, R351) -/

/-- MB_LOAD (R350): the alignment is checked here, the image when the package has read it. -/
def execMbLoad (c : Fin 64) (d : BitVec 504) (img again : Image) (s : State) : Res :=
  let len := (fld d 288 32).toNat
  longCmd s c d 0x03
    (judge s c d 0x03 (bodyZero d 288) true [.none] (pkgLocked s)
      (firstErr [((fld d 320 64).toNat % 4096 != 0 || len % 64 != 0, eAlign)]))
    .package (.load len img again) id

/-- MB_UNLOAD (R347). -/
def execMbUnload (c : Fin 64) (d : BitVec 504) (s : State) : Res :=
  shortCmd s c d 0x04 (judge s c d 0x04 (bodyZero d 384) true [.loaded, .stopped] (pkgLocked s) none)
    fun s => (removeImage s, 0)

def stBeat (d : BitVec 504) : BitVec 40 := fld d 344 40
def stStep (d : BitVec 504) : BitVec 40 := fld d 304 40

/-- MB_START (R351). -/
def execMbStart (c : Fin 64) (d : BitVec 504) (s : State) : Res :=
  shortCmd s c d 0x05
    (judge s c d 0x05 (stStep d == 0 && bodyZero d 304) true [.loaded] (pkgLocked s) (startErr s (stBeat d)))
    fun s => (startRun s (stBeat d), 0)

/-- MB_RESUME (R351). From Stopped it waits until the restore of a rollback has ended (R206). -/
def execMbResume (c : Fin 64) (d : BitVec 504) (s : State) : Res :=
  if s.sched = .stopped ∧ s.run.rolling.isSome then .next s
  else shortCmd s c d 0x06
    (judge s c d 0x06 (bodyZero d 304) true [.quiesced, .stopped] (pkgLocked s) (resumeErr s (stBeat d) (stStep d)))
    fun s => (resumeRun s (stBeat d) (stStep d), 0)

/-! ### Regions and guarantees (R352) -/

def rgHub (d : BitVec 504) : Nat := (fld d 382 2).toNat
def rgIndex (d : BitVec 504) : Nat := (fld d 372 10).toNat
def rgRemove (d : BitVec 504) : Bool := bit d 371
def rgEntry (d : BitVec 504) : BitVec 128 := fld d 0 128

/-- MB_REGION (R225, R352). -/
def execMbRegion (c : Fin 64) (d : BitVec 504) (s : State) : Res :=
  shortCmd s c d 0x07
    (judge s c d 0x07 (!rgRemove d && fld d 128 243 == 0 && rgRsv (rgEntry d)) true anySched (pkgLocked s)
      (regionErr s (rgHub d) (rgIndex d) (rgEntry d)))
    fun s => (modHub s (rgHub d) fun m => { m with regions := tput 0 m.regions (rgIndex d) (rgEntry d) }, 0)

/-- The reserved fields of MB_GUARANTEE. -/
def guarRsvOk (d : BitVec 504) : Bool := rgHub d == 0 && rgIndex d == 0 && fld d 128 243 == 0 && guRsv (rgEntry d)

/-- MB_GUARANTEE, an addition (R233, R234, R352, R370). -/
def execMbGuaranteeAdd (c : Fin 64) (d : BitVec 504) (s : State) : Res :=
  let g := rgEntry d
  ofRow (!rgRemove d) s (shortCmd s c d 0x08
    (judge s c d 0x08 (guarRsvOk d) true anySched (pkgLocked s)
      (firstErr [(badGuarantee s.run.flows g, eRange), (badClass s (umbels s) (imgOwner s) s.run.flows g, eGuarantee),
                 (notAdmitted s (allGuars s ++ [g]), eGuarantee)]))
    fun s => (addGuar s g, 0))

/-- MB_GUARANTEE, a removal of the guarantee of the entry's flow, hub and target (R352). -/
def execMbGuaranteeRemove (c : Fin 64) (d : BitVec 504) (s : State) : Res :=
  let g := rgEntry d
  ofRow (rgRemove d) s (shortCmd s c d 0x08
    (judge s c d 0x08 (guarRsvOk d) true anySched (pkgLocked s) (firstErr [(!(allGuars s).any (sameGuarantee g), eRange)]))
    fun s => (setRates (modHub s (guHub g).toNat fun m => { m with guars := m.guars.filter fun x => !sameGuarantee g x.ent })
      (guHub g).toNat, 0))

/-! ### MB_COLL (R299, R353) -/

/-- The checks of MB_COLL (R299, R353). An entry with a non-zero reserved bit is answered E_RANGE: R299 gives the conditions of R290
that concern one entry that code, where R4 and R290's last sentence name E_RESERVED; the model's choice (LOG 34). -/
def collCmdErr (s : State) (d : BitVec 504) (e : BitVec 512) (b : BitVec 40) : Option Err :=
  let h := (coHub e).toNat
  let host := (officeOf s h).colls.filter fun x => x.isHost && x.st = .armed
  firstErr [((fld d 320 64).toNat % 64 != 0, eAlign), (!bit (coId e) 31 || !beatLater b (beatNow s), eRange),
    (match collState s h (b, coId e) with
     | some .listed => true | some .armed => true | some .active => true | _ => false, eBusy),
    (collFormatBad e, eFormat), (!coRsv e || collEntryBad s e, eRange), (decide (8 ≤ host.length), eCapacity)]

/-- MB_COLL (R299, R353): the entry is what the host has put at `host_addr`, 64 bytes, little-endian (R3; LOG 6). -/
def execMbColl (c : Fin 64) (d : BitVec 504) (entry : BitVec 512) (startBeat : BitVec 40) (s : State) : Res :=
  shortCmd s c d 0x09
    (judge s c d 0x09 (bodyZero d 319) false [.loaded, .running, .quiesced] false (collCmdErr s d entry startBeat))
    fun s => (armColl (wrHost s (fld d 320 64 : BitVec 64).toNat (leBytes 64 entry)) (coHub entry).toNat entry startBeat (some (if bit d 319 then some c else none)), 0)

/-! ### MB_LINK (R265, R354) -/

def lkMask (d : BitVec 504) : BitVec 12 := fld d 372 12
def lkAction (d : BitVec 504) : BitVec 2 := fld d 370 2
def lkLanes (d : BitVec 504) : BitVec 2 := fld d 368 2
def lkRate (d : BitVec 504) : BitVec 2 := fld d 366 2

/-- The links named. -/
def lkLinks (m : BitVec 12) : List Nat := (List.range 12).filter fun l => m.getLsbD l

/-- The checks of R354, in their order. -/
def linkCmdErr (s : State) (d : BitVec 504) : Option Err :=
  let ls := lkLinks (lkMask d)
  firstErr [(lkMask d == 0 || lkRate d == 3, eRange), ((lkAction d == 1 || lkAction d == 3) && !s.place.set, eState),
    (lkAction d == 2 && ls.any fun l => !linkUp s l, eState),
    (lkAction d == 2 && ls.any fun l => decide (laneCount (linkOf s l).live < 8 / 2 ^ (lkLanes d).toNat), eCapacity)]

/-- A MB_LINK of one action. -/
def linkCmd (s : State) (c : Fin 64) (d : BitVec 504) (a : BitVec 2) (act : State → Nat → State) : Res :=
  ofRow (lkAction d == a) s (longCmd s c d 0x0A
    (judge s c d 0x0A (bodyZero d 366) true anySched (pkgLocked s || linksLocked s (lkMask d)) (linkCmdErr s d))
    (.links (lkMask d)) (.link a (lkMask d)) fun s => (lkLinks (lkMask d)).foldl act s)

/-- MB_LINK, take down, from any state (R263): the peer is told over the courier lane (R276). A link that is Down waits for its peer
no longer. -/
def execMbLinkDown (c : Fin 64) (d : BitVec 504) (s : State) : Res :=
  linkCmd s c d 0 fun s l =>
    if (linkOf s l).st = .down then modLink s l fun k => { k with waitPeer := false } else goDown (sendLinkCtl s l 2 0 0) l 8

/-- MB_LINK, retrain: a link that is up retrains, a link that is down trains again. -/
def execMbLinkRetrain (c : Fin 64) (d : BitVec 504) (s : State) : Res :=
  linkCmd s c d 1 fun s l =>
    if linkUp s l then startRetrain (sendLinkCtl s l 1 0 0) l
    else if (linkOf s l).st = .down then trainAgain s l (linkOf s l).downCause else s

/-- MB_LINK, set width and rate (R265). -/
def execMbLinkSetWidth (c : Fin 64) (d : BitVec 504) (s : State) : Res :=
  linkCmd s c d 2 fun s l => askWidth s l (lkLanes d) (lkRate d)

/-- MB_LINK, retrain the courier lanes only: a lane that is lost comes back, or is found at fault when the command ends. -/
def execMbLinkCourierRetrain (c : Fin 64) (d : BitVec 504) (s : State) : Res := linkCmd s c d 3 laneRetrained

/-! ### Checkpoints (R355) -/

/-- The two headers of the local store, the older first; a slot that holds none reads as zero (R329). -/
def headerBytes (s : State) : List Byte :=
  let b := fun (g : Option Gen) => leBytes 64 (match g with | some x => x.hdr | none => 0)
  b s.ckpt.older ++ b s.ckpt.newer

/-- The states in which an image is loaded. -/
def withImage : List Sched := [.loaded, .running, .quiesced, .stopped]

/-- MB_CKPT_HDR. -/
def execMbCkptHdr (c : Fin 64) (d : BitVec 504) (s : State) : Res :=
  let a := (fld d 320 64).toNat
  shortCmd s c d 0x0B
    (judge s c d 0x0B (bodyZero d 320) false withImage false (firstErr [((ckptRec s).isNone, eState), (a % 64 != 0, eAlign)]))
    fun s => (wrHost s a (headerBytes s), 0)

/-- MB_BUDDY_LOST. -/
def execMbBuddyLost (c : Fin 64) (d : BitVec 504) (s : State) : Res :=
  shortCmd s c d 0x0C
    (judge s c d 0x0C (bodyZero d 384) true withImage (pkgLocked s) (firstErr [((ckptRec s).isNone, eState)]))
    fun s => (modCkpt s fun k => { k with nextBase := true }, 0)

def rsStep (d : BitVec 504) : BitVec 40 := fld d 344 40
def rsSource (d : BitVec 504) : BitVec 2 := fld d 342 2
def rsReplica (d : BitVec 504) : BitVec 15 := fld d 327 15

/-- MB_RESTORE, LOCAL; a reserved source ends here with E_RANGE. -/
def execMbRestoreLocal (c : Fin 64) (d : BitVec 504) (s : State) : Res :=
  ofRow (rsSource d != 1) s (longCmd s c d 0x0D
    (judge s c d 0x0D (bodyZero d 327 && (rsSource d != 0 || rsReplica d == 0)) true [.loaded, .stopped] (pkgLocked s)
      (if rsSource d = 0 then localErr s (rsStep d) else some eRange))
    .package (.restore false ((rsStep d).setWidth 64) none) id)

/-- MB_RESTORE, BUDDY. -/
def execMbRestoreBuddy (c : Fin 64) (d : BitVec 504) (g : BuddyData) (s : State) : Res :=
  ofRow (rsSource d == 1) s (longCmd s c d 0x0D
    (judge s c d 0x0D (bodyZero d 327) true [.loaded, .stopped] (pkgLocked s) (buddyErr s (rsStep d) (rsReplica d) g))
    .package (.restore true ((rsStep d).setWidth 64) (some g)) id)

/-! ### Consignments and cores (R356) -/

/-- MB_CONSIGN_RESET. -/
def execMbConsignReset (c : Fin 64) (d : BitVec 504) (s : State) : Res :=
  let n := (fld d 364 20).toNat
  shortCmd s c d 0x0E
    (judge s c d 0x0E (bodyZero d 364) true withImage (pkgLocked s)
      (firstErr [(plKind (planOf s n) == 0, eRange), ((consOf s n).st != .returned, eState)]))
    fun s => (toIdle s n, 0)

def coCore (d : BitVec 504) : CoreId := fld d 367 17

/-- MB_CORE names no core of the usable shape (R12). -/
def coInvalid (s : State) (d : BitVec 504) : Bool :=
  !coreExists (coCore d) || !dieUsable s (dieOf (coCore d)) || isGuestDie s (dieOf (coCore d))

/-- MB_CORE, clear the fault (R51, R356, R403): the core stands idle with an empty start queue. -/
def execMbCoreClear (c : Fin 64) (d : BitVec 504) (s : State) : Res :=
  ofRow (!bit d 366) s (shortCmd s c d 0x0F
    (judge s c d 0x0F (bodyZero d 366) true withImage (pkgLocked s)
      (firstErr [(coInvalid s d, eRange), ((coreOf s (coCore d)).phase != .faulted, eState)]))
    fun s => (modCore s (coCore d) fun k =>
      { k with phase := .idle, hold := .none, loops := [], handler := none, stream := none, startQ := [] }, 0))

/-- MB_CORE, retire (R356, R403): as a lasting fault; the record's cause is free (LOG 11). -/
def execMbCoreRetire (c : Fin 64) (d : BitVec 504) (s : State) : Res :=
  ofRow (bit d 366) s (shortCmd s c d 0x0F
    (judge s c d 0x0F (bodyZero d 366) true withImage (pkgLocked s) (firstErr [(coInvalid s d, eRange)]))
    fun s => (if (coreOf s (coCore d)).phase = .retired then s
      else retireCore { s with free := s.free + 1 } (coCore d) (fld (Config.freeWord s.free) 0 8) eRetired, 0))

/-! ### MB_STATE (R356, R394, R452) -/

/-- The checks of MB_STATE. -/
def stateErr (s : State) (d : BitVec 504) : Option Err :=
  firstErr [(decide (2 ≤ (fld d 382 2).toNat), eRange), (s.dev = .haltedCoolant && !coolAgain s, eState)]

/-- MB_STATE to one target, in which the package is already (R356). -/
def stateThere (s : State) (c : Fin 64) (d : BitVec 504) : Res :=
  shortCmd s c d 0x10 (judge s c d 0x10 (bodyZero d 382) true [.none] (pkgLocked s) none) fun s => (s, 0)

/-- MB_STATE to Ready; a reserved target ends here with E_RANGE. -/
def execMbStateReady (c : Fin 64) (d : BitVec 504) (s : State) : Res :=
  ofRow (fld d 382 2 != 1) s (if s.dev = .ready ∧ fld d 382 2 = 0 then stateThere s c d
    else longCmd s c d 0x10 (judge s c d 0x10 (bodyZero d 382) true [.none] (pkgLocked s) (stateErr s d))
      .package (.toState false) beginReturn)

/-- MB_STATE to Dormant. -/
def execMbStateDormant (c : Fin 64) (d : BitVec 504) (s : State) : Res :=
  ofRow (fld d 382 2 == 1) s (if s.dev = .dormant then stateThere s c d
    else longCmd s c d 0x10 (judge s c d 0x10 (bodyZero d 382) true [.none] (pkgLocked s) (stateErr s d))
      .package (.toState true) id)

/-! ### The end of a long command (R345, R347) -/

/-- The codes with which a host access ends a command (R349). -/
def hostCodes : List Err := [eTimeout, eKey]

/-- Long command `i` leaves the list and completes. -/
def endLong (s : State) (i : Nat) (l : Long) (err : Err) (result : Nat) : State :=
  completeCmd (modPaths s fun p => { p with longs := p.longs.eraseIdx i }) l.ctx l.tag l.irq l.index l.op err (BitVec.ofNat 64 result)

/-- The named links that are up. -/
def upMask (s : State) (m : BitVec 12) : Nat := ((lkLinks m).filter fun l => linkUp s l).foldl (fun n l => n + 2 ^ l) 0

/-- Courier lanes that a retrain of them left lost are lasting faults (R278). -/
def courierEnds (s : State) (a : BitVec 2) (m : BitVec 12) : State :=
  if a = 3 then
    (lkLinks m).foldl (fun s l =>
      if (linkOf s l).courier || s.sh.retired.contains (courierChannel l) then s
      else recordRetired (modLink s l fun k => { k with lane := { k.lane with lost := true, retried := false } }) (courierSrc s l)
        (clock s (domCourier l)) (courierChannel l) eLinkDown) s
  else s

/-- LONG_COMMAND_COMPLETE (R345): long command `i` comes to its end. `err` is what a host access met, or E_INTERNAL
for a frame or directory of a restore that failed its check twice (R332), `moved` how many bytes a
failed copy had moved. A command whose rails went down in between ends with E_STATE. -/
def execLongCommandComplete (i : Nat) (err : Err) (moved : Nat) (ecc : EccAt) (s : State) : Res :=
  match s.paths.longs[i]? with
  | none => .next s
  | some l =>
    match l.cmd with
    | .copy dir src dst host len =>
      if lowPower s then .next (endLong s i l eState 0)
      else if anyWaits s ((copyRanges dir src dst len).map fun x => (x.1, x.2.1)) then .next s
      else if err = eOk then
        let s1 := metEcc s ecc ((copyRanges dir src dst len).map fun x => (x.1, x.2.1))
        if copyRetired s1 (copyRanges dir src dst len) then
          .next (endLong (copyBytes s1 dir src dst host (min moved (copyGood s1 (copyRanges dir src dst len)))) i l eRetired
            (min moved (copyGood s1 (copyRanges dir src dst len))))
        else .next (endLong (copyBytes s1 dir src dst host len) i l eOk len)
      else whenever (decide (moved ≤ len) && (err == eRetired || (dir != 2 && hostCodes.contains err))) s
        (endLong (copyBytes s dir src dst host moved) i l err moved)
    | .load len img again =>
      if lowPower s then .next (endLong s i l eState 0)
      else if err = eOk then
        match loadErr s img l.ctx len with
        | some e => .next (endLong s i l e 0)
        | none => let r := finishLoad s img again l.ctx
                  .next (endLong r.1 i l r.2 0)
      else whenever (hostCodes.contains err) s (endLong s i l err 0)
    | .link a m =>
      whenever ((lkLinks m).all fun k => linkUp s k || (linkOf s k).st = .down) s
        (endLong (courierEnds s a m) i l eOk (upMask s m))
    | .restore buddy cut g =>
      if lowPower s || s.run.image.isNone then .next (endLong s i l eState 0)
      else if err = eInternal then .next (endLong (restoreFails s) i l eInternal 0)
      else let r := finishRestore s buddy cut g l.began
           .next (endLong r.1 i l r.2.1 r.2.2)
    | .toState dormant =>
      if dormant then
        (if s.dev = .ready then .next (endLong (toLow s .dormant) i l eOk 0)
         else whenever (s.dev = .haltedCoolant) s (endLong { s with dev := .dormant } i l eOk 0))
      else if s.dev = .ready then .next (endLong s i l eOk 0)
      else whenever (s.start.stage = 0) s (endLong s i l eState 0)

/-- The bound of a long command in nanoseconds (R347, R452), where it has one. -/
def longBound (s : State) : LongCmd → Option Nat
  | .copy .. => none
  | .load len .. => some (2000000000 + len / 8)
  | .link .. => some 200000000
  | .restore .. => some 10000000000
  | .toState true => some 50000000
  | .toState false => some (1000000000 + 5250000 * (s.pwr.rails.filter fun r => r.2 = .retrying).length)

/-- CMD_TIMEOUT (R347): the long command of mailbag `c` has overrun its bound; what it has done stays done. -/
def execCmdTimeout (c : Fin 64) (s : State) : Res :=
  match s.paths.longs.findIdx? fun l => l.ctx = c with
  | some i => match s.paths.longs[i]? with
    | some l => match longBound s l.cmd with
      | some b => whenever (decide (l.began + b < s.ns)) s
          (post (endLong s i l eTimeout 0) (srcUnit s 0xAD 0 0) (cmdPm s) evHostCmdTimeout (some (BitVec.ofNat 6 c.val)) eTimeout
            [])
      | none => .next s
    | none => .next s
  | none => .next s

end Sys2Proof.Machine
end

