-- ==== Sys2Proof/Machine/MemUnit.lean ====
section
/-! DEFINITION. The commands of the memory units (R227 to R231, R235): the imbalance monitor, re-keys as they go, shortfalls. -/

namespace Sys2Proof.Machine

/-- The imbalance ratio of a window as FP32: the largest occupancy over the mean (R228). -/
def imbRatio (total largest units : Nat) : BitVec 32 :=
  if total = 0 then 0 else BitVec.ofNat 32 (convQ fFP32 .nearest false false false (largest * units) total 0).code

/-- The window is imbalanced (R227). `total` and `largest` are occupancies in 2^-16 requests. -/
def imbalanced (thresh : BitVec 8) (total largest units : Nat) : Bool :=
  decide (units * 65536 ≤ total) && decide (thresh.toNat * total ≤ largest * 16 * units)

/-- A window of a group counts (R228): at the 64th imbalanced one in a row a re-key is requested, and the run starts anew. -/
def countWindow (s : State) (h : Fin 4) (hbm bad : Bool) (ratio : BitVec 32) : State :=
  let m := hubOf s h.val
  let n := if bad then (if hbm then m.runHbm else m.runCache) + 1 else 0
  let full := decide (64 ≤ n)
  let s1 := modHub s h.val fun m => if hbm then { m with runHbm := if full then 0 else n, ratioHbm := ratio }
    else { m with runCache := if full then 0 else n, ratioCache := ratio }
  if full then modRun s1 fun r => { r with
    rekeys := r.rekeys.filter (fun q => !(q.hub == h && q.hbm == hbm)) ++ [{ hub := h, hbm := hbm, ratio := ratio }] }
  else s1

/-- The units of a group (R227): a hub's 256 pseudo-channels, or the 16 banks (R219) of each of its cache-mode slices. -/
def monUnits (s : State) (h : Nat) (g : MonGroup) : Nat :=
  if g == .hbm then 256 else 16 * ((List.range 8).filter fun i => !s.regs.llmMode.getLsbD (8 * h + i)).length

/-- IMBALANCE_WINDOW (R227, R228); a hub with no cache-mode slice has no cache group. -/
def execImbalanceWindow (h : Fin 4) (g : MonGroup) (total largest : Nat) (s : State) : Res :=
  let units := monUnits s h.val g
  whenever (s.dev = .ready && s.regs.imbEn && units != 0) s
    (countWindow s h (g == .hbm) (imbalanced s.regs.imbThresh total largest units) (imbRatio total largest units))

/-- LLM_FLUSH_DONE (R229): the hub's cache-mode slices hold nothing dirty, and its HBM accesses go on. -/
def execLlmFlushDone (h : Fin 4) (s : State) : Res :=
  whenever (hubOf s h.val).flushing s (modHub s h.val fun m => { m with flushing := false })

/-- The relocatable regions after the one being moved, in ascending base order. -/
def regionsAfter (h : HubMem) (i : Nat) : List Nat := ((relocatable h).dropWhile fun j => j != i).drop 1

/-- A chunk has been moved (R230): the pointer passes it; with the last chunk of a region its key index advances; with the
last region mem.rekey_done is posted. -/
def chunkDone (s : State) (h : Nat) (m : Migration) : State :=
  let hub := hubOf s h
  let e := tget 0 hub.regions m.index
  let moved := m.moved + 65536
  if m.chunk < (rgSize e).toNat then
    modHub s h fun x => { x with migr := some { m with chunk := m.chunk + 1, moved := moved } }
  else
    let s1 := modHub s h fun x => { x with regions := tput 0 x.regions m.index (putFld e 42 (rgHkey e + 1)) }
    match regionsAfter hub m.index with
    | j :: _ => modHub s1 h fun x => { x with migr := some { m with index := j, chunk := 0, moved := moved } }
    | [] => post (modHub s1 h fun x => { x with migr := none }) (srcUnit s 0xA0 h 0) (clock s (domHub h)) evMemRekeyDone none eOk
        [(64, moved), (32, (s.ns - m.sinceNs) / 1000)]

/-- MIGRATION_CHUNK_DONE (R230, R231): not during a shortfall, nor while the package is quiesced. -/
def execMigrationChunkDone (h : Fin 4) (s : State) : Res :=
  match (hubOf s h.val).migr with
  | some m => whenever (s.dev = .ready && s.sched != .quiesced && (hubOf s h.val).short.isNone) s (chunkDone s h.val m)
  | none => .next s

/-- SHORTFALL_PERIODIC (R235): a shortfall that lasts is posted every 1 s, with `ongoing` set. -/
def execShortfallPeriodic (h : Fin 4) (s : State) : Res :=
  match (hubOf s h.val).short with
  | some x => whenever (s.dev = .ready && decide (x.lastNs + 1000000000 ≤ s.ns)) s
      (modHub (postShort s h.val x true) h.val fun m => { m with short := some { x with lastNs := s.ns } })
  | none => .next s

end Sys2Proof.Machine
end

