-- ==== Sys2Proof/Machine/Power.lean ====
section
/-! DEFINITION. The commands of power and temperature (R236, R380 to R393, R440). -/

namespace Sys2Proof.Machine

/-! ### Input power (R380, R440) -/

/-- An alarm of the power controller, as its record. -/
def pwrRec (s : State) (code : BitVec 16) : Rec :=
  { pm := pwrPm s, source := pwrSrc s, code := code, cls := .alarm, ctx := 0, pkg := true, err := eInternal, count := 1,
    multi := false, body := 0, irq := false }

/-- Shordo sends an alarm on every courier lane, and every phase shuts (R380). -/
def inputLost (s : State) (code : BitVec 16) : State :=
  toOff ((List.range 12).foldl (fun s l => sendRecord s l (pwrRec s code)) s)

/-- INPUT_UNDERVOLT (R380). -/
def execInputUndervolt (s : State) : Res := whenever (s.dev != .off) s (inputLost s evPwrUndervolt)

/-- INPUT_OVERVOLT (R380). -/
def execInputOvervolt (s : State) : Res := whenever (s.dev != .off) s (inputLost s evPwrOvervolt)

/-- PWRGD_LOW (R440): as an input below 40 V. -/
def execPwrgdLow (s : State) : Res :=
  whenever s.pins.pwrgd s
    (let s1 := modPins s fun p => { p with pwrgd := false }
     if s.dev = .off then s1 else inputLost s1 evPwrUndervolt)

/-- BLADE_OVERCURRENT (R380, R450): every phase but the standby rails shuts. -/
def execBladeOvercurrent (s : State) : Res :=
  whenever (powered s || s.dev = .failed) s (post (toStandby s) (pwrSrc s) (pwrPm s) evPwrOvercurrent none eInternal [])

/-- BLADE_LOST (R380): the blade's source id names it (R407). -/
def execBladeLost (blade : Bool) (s : State) : Res :=
  whenever (powered s && !s.pwr.bladeLost) s
    (post (modPwr s fun p => { p with bladeLost := true }) (srcUnit s 0xE2 0 (1 + b2n blade)) (pwrPm s) evPwrBladeLost none
      eInternal [])

/-- RST_N_LOW (R440): the schedule is held, every rail group but standby ramps down, HBM is lost. -/
def execRstNLow (s : State) : Res :=
  whenever s.pins.rstN s
    (let s1 := modPins s fun p => { p with rstN := false }
     if s.dev = .off then s1 else modStart (toStandby (quiesceSched s1)) fun x => { x with shordo := .down })

/-! ### Caps and frequency (R385 to R388) -/

/-- CAP_PERIOD (R387): the input power in 10 W units and voltage in 0.25 V units; the ceiling is one that holds the means of
R387, which the spec leaves open (LOG 16). -/
def execCapPeriod (pIn vIn : Nat) (s : State) : Res :=
  let c := 16 + (Config.freeWord s.free).toNat % 45
  whenever (s.dev = .ready) s
    (account (modPwr { s with free := s.free + 1 } fun p => { p with
      pIn := BitVec.ofNat 16 pIn, vIn := BitVec.ofNat 8 vIn, capCeil := BitVec.ofNat 6 c }))

/-- The CURRENT ceiling after a period with blade means `i0`, `i1` in 0.1 A (R387). -/
def currentCeil (s : State) (i0 i1 : Nat) : Nat :=
  let c := s.pwr.curCeil.toNat
  if 2000 < max i0 i1 then max 16 (min c (targetF s) - 4)
  else if max i0 i1 ≤ 1800 then min 60 (c + 1) else c

/-- CURRENT_PERIOD (R387). -/
def execCurrentPeriod (i0 i1 : Nat) (s : State) : Res :=
  whenever (s.dev = .ready) s
    (account (modPwr s fun p => { p with iPb0 := BitVec.ofNat 16 i0, iPb1 := BitVec.ofNat 16 i1,
                                         curCeil := BitVec.ofNat 6 (currentCeil s i0 i1) }))

/-- The level the controller chooses (R386): the highest whose predicted power stays within the cap, else the lowest. -/
def chooseLevel (s : State) : Nat :=
  let lo := min (latFMin (latitude s)).toNat (upperF s)
  let fits := ((List.range (upperF s + 1 - lo)).map (· + lo)).filter fun f =>
    decide (Config.predictedPower s.free f + guestPower s ≤ effectiveCap s)
  fits.foldl max lo

/-- DVFS_PERIOD (R386, R45). -/
def execDvfsPeriod (s : State) : Res :=
  let f := chooseLevel s
  whenever (s.dev = .ready && dvfsOn s) s
    (let old := s.pwr.dvfs
     let s1 := modPwr { s with free := s.free + 1 } fun p => { p with dvfs := BitVec.ofNat 6 f }
     let s2 := if old = BitVec.ofNat 6 f then s1
       else post s1 (pwrSrc s) (pwrPm s) evAdaptDvfs none eOk [(8, 0), (8, old.toNat), (8, f)]
     account s2)

/-- VCL_SLEW_COMPLETE (R385): the rail has reached the higher point, and the cluster's clock switches. -/
def execVclSlewComplete (die : BitVec 5) (cl : BitVec 8) (s : State) : Res :=
  let k := domLogical s (die.toNat * 256 + cl.toNat)
  whenever (s.dev = .ready && decide (cl.toNat < 160) && decide (freqOf s k < wantOf s k)) s (account (setFreq s k (wantOf s k)))

/-- DROOP (R388): the cluster's clock is halved and its rate value doubled in the same cycle. -/
def execDroop (die : BitVec 5) (cl : BitVec 8) (s : State) : Res :=
  let k := domLogical s (die.toNat * 256 + cl.toNat)
  let c := ctrOf s k
  whenever (s.dev = .ready && decide (cl.toNat < 160) && !s.pwr.drooped.contains k) s
    (account (setCtr (modPwr s fun p => { p with drooped := p.drooped ++ [k] }) k
      { c with clk := BitVec.ofNat 7 (freqOf s k), rate := c.rate * 2 }))

/-- DROOP_RECOVERY (R388, R391): the clock returns to full; the record is at most one for each die in each 1 ms. -/
def execDroopRecovery (die : BitVec 5) (cl : BitVec 8) (s : State) : Res :=
  let k := domLogical s (die.toNat * 256 + cl.toNat)
  whenever (s.pwr.drooped.contains k) s
    (let quiet := droopRecent s (k / 256)
     let s1 := modPwr s fun p => { p with drooped := p.drooped.erase k }
     let s2 := setCtr s1 k (retime s.tb.beatPeriod.toNat (clkOf s1 k (freqOf s k)) (ctrOf s k))
     let s3 := if quiet || !s2.pwr.drooped.isEmpty then s2
       else modSh s2 fun x => { x with warnHits := tput [] x.warnHits (droopKey (k / 256)) [s.ns] }
     account s3 fun r => r == 4 && quiet)

/-! ### Temperatures (R236, R389) -/

/-- The key of a sensor: clusters by domain, hubs from 131072, Teasel tiles from 140000. -/
def sensorKey (s : State) : Sensor → Nat
  | .cluster d c => domLogical s (d.toNat * 256 + c.toNat)
  | .hub h => domOther + h.val
  | .teasel t i => 140000 + t.val * 2 + i.val

/-- The source id of a sensor's warnings (R407). -/
def sensorSrc (s : State) : Sensor → BitVec 32
  | .cluster d c => srcCore s (BitVec.ofNat 17 (d.toNat * 4096 + c.toNat * 16))
  | .hub h => srcUnit s 0xA0 h.val 0
  | .teasel t _ => if t.val < 36 then srcUnit s (0xB0 + t.val) 0 1 else srcUnit s 0xA0 (t.val - 36) 0

/-- The channel a sensor's warnings name (LOG 27): a cluster, or the core or hub group of a tile. -/
def sensorChannel (s : State) : Sensor → BitVec 32
  | .cluster d c => clusterChannel s d.toNat c.toNat
  | .hub h => channel 4 ((36 + h.val) * 2 ^ 18 + 3 * 2 ^ 10)
  | .teasel t _ => channel 4 (t.val * 2 ^ 18 + (if t.val < 36 then 2 else 3) * 2 ^ 10)

/-- The critical threshold of a sensor (R389). -/
def criticalAt : Sensor → Nat
  | .teasel .. => 125
  | _ => 112

/-- The level of a sensor after a reading (R389). -/
def nextLevel (old : Nat) (t : Nat) : Nat :=
  if 105 ≤ t then 2
  else match old with
    | 0 => if 100 ≤ t then 1 else 0
    | 1 => if t < 97 then 0 else 1
    | _ => if t < 102 then 1 else 2

/-- The ceiling a sensor sets after its level: level 2 sets 0.40 GHz, level 0 none; level 1 leaves it as it stands. -/
def levelCeil (new : Nat) (c : BitVec 6) : BitVec 6 := match new with | 0 => 60 | 1 => c | _ => 16

/-- SENSOR_READ (R389, R320): a junction or Teasel reading. -/
def execSensorRead (sn : Sensor) (t : Nat) (s : State) : Res :=
  let k := sensorKey s sn
  whenever (s.dev != .off) s
    (let new := nextLevel (tget 0 s.pwr.level k).toNat t
     let s1 := modPwr s fun p => { p with
       temps := tput 0 p.temps k t
       level := tput 0 p.level k (BitVec.ofNat 2 new)
       levelNs := if new = 1 then (if tget 0 p.levelNs k = 0 then tput 0 p.levelNs k (s.ns + 1) else p.levelNs) else tput 0 p.levelNs k 0
       tempCeil := tput 60 p.tempCeil k (levelCeil new (tget 60 p.tempCeil k))
       critNs := if criticalAt sn ≤ t then (if tget 0 p.critNs k = 0 then tput 0 p.critNs k (s.ns + 1) else p.critNs) else tput 0 p.critNs k 0 }
     let s2 := modPwr s1 fun p => { p with tDie := BitVec.ofNat 8 ((p.temps.map fun x => x.2).foldl max 0) }
     account (warmWarn s2 (sensorSrc s sn) (pwrPm s) (sensorChannel s sn) k 100 t))

/-- LEVEL1_STEP (R389): 100 us more at level 1 lower the ceiling by 100 MHz. -/
def execLevel1Step (sn : Sensor) (s : State) : Res :=
  let k := sensorKey s sn
  let since := tget 0 s.pwr.levelNs k
  whenever (s.dev = .ready && tget 0 s.pwr.level k == 1 && decide (0 < since) && decide (since - 1 + 100000 ≤ s.ns)) s
    (account (modPwr s fun p => { p with
      levelNs := tput 0 p.levelNs k (since + 100000)
      tempCeil := tput 60 p.tempCeil k (BitVec.ofNat 6 (max 16 (min (tget 60 p.tempCeil k).toNat (targetF s) - 4))) }))

/-- The throttle level of a stack after a report (R236). -/
def nextThrottle (old : Nat) (t : Nat) : Nat :=
  if 95 ≤ t then 2
  else match old with
    | 0 => if 85 ≤ t then 1 else 0
    | 1 => if t < 82 then 0 else 1
    | _ => if t < 92 then 1 else 2

/-- HBM_TEMP_REPORT (R236, R235, R320): the stack's level, its hub's rates, mem.hbm_throttle on a change. -/
def execHbmTempReport (st : Fin 16) (t : Nat) (s : State) : Res :=
  let h := st.val / 4
  let i := st.val % 4
  let src := srcUnit s 0xAA h i
  let pm := clock s (domHbm st.val)
  whenever (powered s) s
    (let old := (tget 0 (hubOf s h).throttle i).toNat
     let new := nextThrottle old t
     let s1 := modHub s h fun m => { m with temp := tput 0 m.temp i t, throttle := tput 0 m.throttle i (BitVec.ofNat 2 new) }
     let s2 := modPwr s1 fun p => { p with
       tHbm := BitVec.ofNat 8 ((s1.hubs.flatMap fun m => m.2.temp.map fun x => x.2).foldl max 0)
       critNs := if 100 ≤ t then (if tget 0 p.critNs (200000 + st.val) = 0 then tput 0 p.critNs (200000 + st.val) (s.ns + 1) else p.critNs)
                 else tput 0 p.critNs (200000 + st.val) 0 }
     let s3 := warmWarn s2 src pm (channel 0x0A (h * 2 ^ 22 + i * 64 * 2 ^ 14)) (200000 + st.val) 85 t
     if new = old then account s3
     else account (setRates (post s3 src pm evMemHbmThrottle none eOk [(8, st.val), (8, new), (8, t)]) h))

/-- A critical threshold has been held: 100 us on a die or Teasel sensor, 1 ms on a stack (R389). -/
def criticalHeld (s : State) (hbm : Bool) : Bool :=
  s.pwr.critNs.any fun x => if hbm then decide (200000 ≤ x.1) && decide (x.2 - 1 + 1000000 ≤ s.ns)
    else decide (x.1 < 200000) && decide (x.2 - 1 + 100000 ≤ s.ns)

/-- CRITICAL_TEMPERATURE (R389, R393). -/
def execCriticalTemperature (hbm : Bool) (s : State) : Res :=
  whenever (powered s && criticalHeld s hbm) s (beginHalt s (if hbm then .tempHbm else .tempDie))

/-! ### Coolant (R393) -/

/-- FLOW_OK_DEASSERT (R393, R438): after its filter. -/
def execFlowOkDeassert (s : State) : Res :=
  whenever (s.dev != .off && s.pwr.flowOk) s
    (let s1 := modPwr (modPins s fun p => { p with flowOk := false }) fun p => { p with
       flowOk := false, flowLostNs := some s.ns, flowSince := none }
     let s2 := if powered s then post s1 (pwrSrc s) (pwrPm s) evPwrFlowLost none eInternal [] else s1
     account s2)

/-- FLOW_OK_ASSERT (R393, R438): the 2 ms timer resets. -/
def execFlowOkAssert (s : State) : Res :=
  whenever (s.dev != .off && !s.pwr.flowOk) s
    (account (modPwr (modPins s fun p => { p with flowOk := true }) fun p => { p with
      flowOk := true, flowLostNs := none, flowSince := some s.ns }))

/-- COOLANT_CLEAR (R393): FLOW_OK has been asserted for 100 us, and COOLANT ends. -/
def execCoolantClear (s : State) : Res :=
  match tget none s.pwr.episodes 5, s.pwr.flowSince with
  | some e, some t =>
    whenever (s.pwr.flowOk && decide (t + 100000 ≤ s.ns)) s (account (endEpisode s 5 e false))
  | _, _ => .next s

/-- FLOW_LOSS_TIMEOUT (R393): FLOW_OK has stayed deasserted for 2 ms. -/
def execFlowLossTimeout (s : State) : Res :=
  whenever (match s.pwr.flowLostNs with | some t => decide (t + 2000000 ≤ s.ns) | none => false) s (beginHalt s .coolant)

/-- THERMAL_TRIP (R393, R394, R438): the trip input asserts, with no wait; its cause is reported as COOLANT (LOG 68). The input may
deassert again. -/
def execThermalTrip (asserted : Bool) (s : State) : Res :=
  whenever (s.dev != .off) s
    (let s1 := modPwr (modPins s fun p => { p with thermTripN := !asserted }) fun p => { p with trip := asserted }
     if asserted then beginHalt s1 .coolant else s1)

/-- HALT_COMPLETE (R393). -/
def execHaltComplete (s : State) : Res :=
  match s.pwr.halting with
  | some h => .next (halted s h.1)
  | none => .next s

/-- THROTTLE_ONGOING (R391): an episode that lasts more than 1 s is posted every 1 s. -/
def execThrottleOngoing (r : Fin 7) (s : State) : Res :=
  match tget none s.pwr.episodes r.val with
  | some e => whenever (decide (e.lastRec + 1000000000 ≤ s.ns)) s
      (modPwr (postThrottle s r.val e true) fun p => { p with
        episodes := tput none p.episodes r.val (some { e with lastRec := s.ns }) })
  | none => .next s

/-! ### Rails (R382 to R384) -/

/-- The group code of a rail (R405); VCL rails belong to the core group. -/
def railGroup : Rail → Nat
  | .standby => 0
  | .transit => 1
  | .core => 2
  | .hub => 3
  | .hbm => 4
  | .vcl _ => 2

/-- The key of a rail of a tile. -/
def railKey (tile : Nat) : Rail → Nat
  | .vcl c => tile * 1024 + 16 + c.toNat
  | r => tile * 1024 + railGroup r

/-- The channel of a rail group (R405). -/
def railChannel (tile : Nat) (r : Rail) : BitVec 32 := channel 4 (tile * 2 ^ 18 + railGroup r * 2 ^ 10)

/-- The source id of a tile's rail (R407). -/
def railSrc (s : State) (tile : Nat) : BitVec 32 :=
  if tile < 36 then srcUnit s (0xB0 + tile) 0 1 else srcUnit s 0xE2 0 0

/-- The logical cluster that physical cluster `c` of site `n` holds, if any, as its first core. -/
def clusterAt (s : State) (n : Nat) (c : Nat) : Option (Nat × Nat) :=
  match dieOnSite s n with
  | some d => ((List.range 160).find? fun j => physCluster s (BitVec.ofNat 17 (d * 4096 + j * 16)) == c).map fun j => (d, j)
  | none => none

/-- The rails a tile has (R381). -/
def railOf (tile : Nat) (r : Rail) : Bool :=
  match r with
  | .standby => true
  | .transit | .core => decide (tile < 36)
  | .vcl c => decide (tile < 36) && decide (c.toNat < 170)
  | .hub | .hbm => decide (36 ≤ tile)

/-- The key of a rail's group. -/
def groupKey (tile : Nat) (r : Rail) : Nat := tile * 1024 + railGroup r

/-- A rail is powered: its group is up, and itself neither retries nor is retired. The standby groups are up in every state but Off
(R381). -/
def railRuns (s : State) (tile : Nat) (r : Rail) : Bool :=
  railOf tile r && (match tget .off s.pwr.rails (railKey tile r) with | .retrying | .retired => false | _ => true) &&
    (match r with | .standby => s.dev != .off | _ => tget .off s.pwr.rails (groupKey tile r) == .on)

/-- The groups that ramp with a tile in stage 3 (R382). -/
def rampKeys (s : State) (tile : Nat) : List Nat :=
  if 36 ≤ tile then [tile * 1024 + 3, tile * 1024 + 4]
  else if s.sh.active.contains tile then [tile * 1024 + 1, tile * 1024 + 2] else [tile * 1024 + 1]

/-- Every group of a tile that is ramping shuts, or ramps again, unless it is retired (R383). -/
def rampTile (s : State) (tile : Nat) (on : RailSt) : State :=
  modPwr s fun p => { p with rails := (rampKeys s tile).foldl (fun t k => if tget .off t k = .retired then t else tput .off t k on) p.rails }

/-- A rail group is retired (R383): pwr.rail_retired in place of fault.retired; a hub tile, or a site's transit or standby
group, leaves the package Failed, and a site's core group its site. -/
def retireRail (s : State) (tile : Nat) (r : Rail) : State :=
  let s1 := modPwr s fun p => { p with rails := tput .off (tput .off p.rails (railKey tile r) .off) (groupKey tile r) .retired }
  let s2 := recordRetired (post s1 (railSrc s tile) (pwrPm s) evPwrRailRetired none eRetired []) (railSrc s tile) (pwrPm s)
    (railChannel tile r) eRetired
  if 36 ≤ tile then toFailed s2 1
  else if railGroup r ≠ 2 then toFailed s2 2
  else if s.dev = .ready then
    match dieOnSite s2 tile with
    | some d => retireSite s2 d 0x04 eRetired
    | none => modSite s2 tile fun x => { x with failed := true }
  else modSite s2 tile fun x => { x with failed := true }

/-- SOFT_START_OVERCURRENT (R383): the phase shuts, and every group of its tile that is ramping with it; it retries 5 ms later. -/
def execSoftStartOvercurrent (tile : Fin 40) (rail : Rail) (s : State) : Res :=
  whenever (s.start.stage == 3 && railRuns s tile.val rail) s
    (modPwr (rampTile s tile.val .off) fun p => { p with
      rails := tput .off p.rails (railKey tile.val rail) .retrying, retryNs := tput 0 p.retryNs (railKey tile.val rail) s.ns })

/-- The cores of a cluster stop with a core fault (R384). -/
def faultCluster (s : State) (d cl : Nat) : State :=
  (clusterCores d cl).foldl (fun s c => if (coreOf s c).phase = .retired then s else coreFault s c eInternal) s

/-- PHASE_OVERCURRENT (R384): in service a VCL phase shuts with core faults and retries; any other rail is retired at once. -/
def execPhaseOvercurrent (tile : Fin 40) (rail : Rail) (s : State) : Res :=
  whenever (railRuns s tile.val rail) s
    (match rail with
     | .vcl c =>
       let s1 := modPwr s fun p => { p with
         rails := tput .off p.rails (railKey tile.val rail) .retrying, retryNs := tput 0 p.retryNs (railKey tile.val rail) s.ns }
       match clusterAt s tile.val c.toNat with | some x => faultCluster s1 x.1 x.2 | none => s1
     | _ => retireRail s tile.val rail)

/-- A cluster's phase fails its retry in service (R384): the cluster is retired. One that holds no logical cluster, or whose site has no
spare map yet, is recorded. -/
def retireVcl (s : State) (tile : Nat) (c : BitVec 8) : State :=
  let s1 := modPwr s fun p => { p with rails := tput .off p.rails (railKey tile (.vcl c)) .retired }
  match if s.start.stage == 4 then none else clusterAt s tile c.toNat with
  | some x => retireCluster s1 x.1 x.2 0x04 eRetired
  | none => lastingFault s1 (railSrc s tile) (pwrPm s) (channel 2 (tile * 2 ^ 18 + c.toNat * 2 ^ 10)) 0x04 eRetired false

/-- RAIL_RETRY (R383, R384): 5 ms after it shut, a phase returns and the fault was transient, or its group or cluster is retired. In
soft-start the other groups of its tile ramp again with it. -/
def execRailRetry (tile : Fin 40) (rail : Rail) (ok : Bool) (s : State) : Res :=
  let k := railKey tile.val rail
  whenever (tget .off s.pwr.rails k == .retrying && decide (tget 0 s.pwr.retryNs k + 5000000 ≤ s.ns)) s
    (let s0 := modPwr s fun p => { p with retryNs := tput 0 p.retryNs k 0 }
     let s1 := if s.start.stage = 3 then rampTile s0 tile.val .on else s0
     if ok then
       let s2 := modPwr s1 fun p => { p with
         rails := tput .off p.rails k .on, railTransient := tput 0 p.railTransient k (tget 0 p.railTransient k + 1) }
       transientFault s2 (railSrc s tile.val) (pwrPm s) (railChannel tile.val rail) 0x04
     else match rail with
      | .vcl c => if s.start.stage = 3 then retireRail s1 tile.val rail else retireVcl s1 tile.val c
      | _ => retireRail s1 tile.val rail)

/-- CLUSTER_CLOCK_LOSS (R397, R398): a clock that relocks was a transient fault, one that does not retires the cluster. -/
def execClusterClockLoss (die : BitVec 5) (cl : BitVec 8) (relocked : Bool) (s : State) : Res :=
  let c : CoreId := BitVec.ofNat 17 (die.toNat * 4096 + cl.toNat * 16)
  whenever (s.dev = .ready && decide (cl.toNat < 160)) s
    (if relocked then
       transientFault s (srcCore s c) (coreClock s c) (clusterChannel s die.toNat cl.toNat) 0x07
     else retireCluster s die.toNat cl.toNat 0x07 eRetired)

end Sys2Proof.Machine
end

