-- ==== Sys2Proof/Machine/Regs.lean ====
section
/-! DEFINITION. Writes of the setup registers (R340, R341, R365 to R367, R373, R392, R414, R453 to R468) and the setup lock. -/

namespace Sys2Proof.Machine

/-! ### The setup lock (R456 to R459) -/

/-- A write at BAR0 offset `off` has met a locked field (R459). -/
def noteLocked (s : State) (port : Bool) (off : Nat) : State :=
  modRegs s fun r =>
    let x := { r with lockWrites := satInc r.lockWrites, lockHit := true }
    if r.lockHit then x else { x with firstOff := BitVec.ofNat 25 off, firstPort := port }

/-- The lock is judged before any other rule of a field: `bad` says that the write would change a locked field. -/
def judgeLock (s : State) (port : Bool) (off : Nat) (bad : Bool) : State := if s.regs.lock && bad then noteLocked s port off else s

/-- Writing 1 to `lock_hit`. -/
def clearLockHit (s : State) : State :=
  modRegs s fun r => { r with lockHit := false, lockWrites := 0, firstOff := 0, firstPort := false }

/-- Writing 1 to `lock` (R457). -/
def setLock (s : State) (port : Bool) : State :=
  if s.start.done then modRegs s fun r => { r with lock := true } else noteLocked s port 0x10030

/-- A write of HOST.LOCK: the clear applies first (R459). -/
def putLock (s : State) (port : Bool) (v : BitVec 64) : State :=
  let s1 := if bit v 1 then clearLockHit s else s
  if bit v 0 then setLock s1 port else s1

/-! ### Placement, timebase, memory modes (R217, R227, R305, R306, R465 to R467) -/

/-- Links are past the start of stage 8, or the package is past start-up. -/
def linksPowered (s : State) : Bool :=
  match s.dev with
  | .ready | .dormant | .haltedCoolant => true
  | .standby => decide (8 ≤ s.start.stage.toNat)
  | _ => false

/-- The placement that SYS.PLACE holds after an accepted write (R304, R305). -/
def placeFrom (v : BitVec 64) : Place :=
  let n := fun (i : Nat) => (fld v i 6).toNat
  { set := true, addr := BitVec.ofNat 15 (n 0 + (n 18 + 1) * (n 6 + (n 24 + 1) * n 12)), lenP := fld v 18 6, lenD := fld v 24 6
    lenS := fld v 30 6, p := fld v 0 6, d := fld v 6 6, s := fld v 12 6 }

/-- R306 rejects the write. -/
def placeBad (v : BitVec 64) : Bool :=
  let n := fun (i : Nat) => (fld v i 6).toNat
  n 18 == 0 || n 24 == 0 || n 30 == 0 || decide (32768 < (n 18 + 1) * (n 24 + 1) * (n 30 + 1)) ||
    decide (n 18 < n 0) || decide (n 24 < n 6) || decide (n 30 < n 12)

/-- The writable fields of SYS.PLACE as they stand. -/
def placeFields (s : State) : BitVec 36 := s.place.lenS ++ s.place.lenD ++ s.place.lenP ++ s.place.s ++ s.place.d ++ s.place.p

/-- An accepted placement: a change takes every link Down, and training starts again (R306, R464). -/
def acceptPlace (s : State) (v : BitVec 64) : State :=
  let p := placeFrom v
  if p = s.place then s
  else
    let s1 := { s with place := p }
    (List.range 12).foldl (fun s l => if linksPowered s then trainAgain s l 9 else modLink s l fun k => { k with downCause := 9 }) s1

/-- A write of SYS.PLACE (R306, R458, R459). -/
def putPlace (s : State) (port : Bool) (v : BitVec 64) : State :=
  if s.regs.lock then judgeLock s port 0x40000 (fld v 0 36 != placeFields s)
  else if placeBad v then s else acceptPlace s v

/-- A write of TB.CFG (R27, R466): `beat_period` from 8,000 to 65,000,000 while no image is loaded, `role` but 3. A change leaves
the timebase Unlocked, and Acquiring where the source of its role is valid; every rate value follows the beat period (R32). -/
def putTbCfg (s : State) (v : BitVec 64) : State :=
  let n := (fld v 32 26).toNat
  let period := if decide (8000 ≤ n) && decide (n ≤ 65000000) && s.sched = .none then fld v 32 26 else s.tb.beatPeriod
  let role := if fld v 0 2 = 3 then s.tb.role else fld v 0 2
  if period = s.tb.beatPeriod ∧ role = s.tb.role then s
  else
    let s1 := modTb s fun t => { t with beatPeriod := period, role := role, st := .unlocked, source := 0xF, probeT1 := none
                                        delays := [], ahead := 0, ppsDue := none }
    sourceReturns (if period = s.tb.beatPeriod then s1 else { s1 with clk := s1.clk.map fun c => retime period.toNat c.clk.toNat c })

/-- A write of TB.UPSTREAM (R467). A change of `upstream` in the follower role switches the source; where that lane is lost, the
alternate serves. -/
def putUpstream (s : State) (v : BitVec 32) : State :=
  let pick := fun (a : BitVec 4) (old : BitVec 4) => if 12 ≤ a.toNat then old else a
  let up := pick (fld v 0 4) s.tb.upstream
  let s1 := modTb s fun t => { t with upstream := up, altUpstream := pick (fld v 8 4) t.altUpstream }
  if up = s.tb.upstream ∨ s.tb.role ≠ 0 ∨ s.tb.st = .unlocked then s1
  else if (linkOf s1 up.toNat).courier then modTb s1 fun t => { t with source := up, probeT1 := none, delays := [] }
  else switchSource s1 up.toNat

/-- The mode of a slice changes: it starts empty (R217). -/
def changeSlice (old new : BitVec 32) (s : State) (i : Nat) : State :=
  if old.getLsbD i == new.getLsbD i then s else zeroMem s (0x010000000000 + i * 0x04000000) 0x04000000

/-- A write of HUB.LLM_MODE (R217, R458, R465). -/
def putLlmMode (s : State) (port : Bool) (v : BitVec 32) : State :=
  if s.regs.lock then judgeLock s port 0x50000 (v != s.regs.llmMode)
  else if s.dev = .ready ∧ s.sched = .none then
    modRegs ((List.range 32).foldl (changeSlice s.regs.llmMode v) s) fun r => { r with llmMode := v }
  else s

/-- A write of MEM.IMB_CFG (R227, R458). -/
def putImb (s : State) (port : Bool) (v : BitVec 32) : State :=
  if s.regs.lock then judgeLock s port 0x50008 (fld v 8 8 != s.regs.imbThresh || bit v 0 != s.regs.imbEn)
  else modRegs s fun r => { r with imbThresh := if (fld v 8 8).toNat < 0x11 then r.imbThresh else fld v 8 8, imbEn := bit v 0 }

/-! ### Contexts (R365 to R367, R373, R376, R379, R458) -/

/-- The locked fields of CTX.CFG: `valid`, `lc`, `pkg_ctl`, `key`. -/
def ctxLocked : BitVec 64 := (7 <<< 61) ||| (0xFFFF <<< 26)

/-- The schedule holds the bindings and the save registers (R367). -/
def bindingHeld (s : State) : Bool := s.sched = .running || s.sched = .quiesced || s.sched = .stopped

/-- What a write of CTX.CFG leaves in it: reserved bits stay zero, a reserved key is not taken, locked and held fields stay. -/
def ctxCfgNew (s : State) (old v : BitVec 64) : BitVec 64 :=
  let key := if 0xFF00 ≤ (cfgKey v).toNat then cfgKey old else cfgKey v
  let a := putFld v 26 key
  let b := if s.regs.lock then (a &&& ~~~ctxLocked) ||| (old &&& ctxLocked) else a
  let c := if bindingHeld s then putFld (putBit b 58 (cfgBound old)) 42 (cfgUmbel old) else b
  putFld c 0 (0 : BitVec 26)

/-- A context that becomes valid starts with its counters at zero. -/
def ctxBegins (old new : BitVec 64) (x : Ctx) : Ctx :=
  if !cfgValid old && cfgValid new then
    { x with cfg := new, waitTotal := 0, waitCount := 0, preemptCount := 0, preemptLost := 0, waitHist := [] }
  else { x with cfg := new }

/-- A write of CTX.CFG. -/
def putCtxCfg (s : State) (port : Bool) (c : Nat) (v : BitVec 64) : State :=
  let old := (ctxOf s c).cfg
  let s1 := judgeLock s port (0x20000 + c * 0x100) (v &&& ctxLocked != old &&& ctxLocked)
  modCtx s1 c (ctxBegins old (ctxCfgNew s old v))

/-- A write of a save register. -/
def putSave (s : State) (c : Nat) (f : Ctx → Ctx) : State := if bindingHeld s then s else modCtx s c f

/-! ### Registers by offset (R339, R340, R454, R460) -/

/-- The context, or doorbell page, and the offset within it. -/
def ctxAt (off : Nat) : Option (Nat × Nat) :=
  if 0x20000 ≤ off ∧ off < 0x24000 then some ((off - 0x20000) / 0x100, off % 0x100) else none

def pageAt (off : Nat) : Option (Fin 64 × Nat) :=
  if 0x01000000 ≤ off ∧ off < 0x01040000 then some (Fin.ofNat 64 ((off - 0x01000000) / 0x1000), off % 0x1000) else none

/-- The register at an offset that is a multiple of 8 is 64 bits wide and can be written. -/
def wide (off : Nat) : Bool :=
  [0x10000, 0x10020, 0x10028, 0x10030, 0x40000, 0x40010, 0x60000, 0x70000, 0x00800000].contains off ||
    (match ctxAt off with | some x => decide (x.2 < 0x20) | none => false) ||
    (match pageAt off with | some x => x.2 == 0 || x.2 == 0x18 | none => false)

/-- A BAR0 access that is dropped (R340). -/
def barBad (s : State) : State := modRegs s fun r => { r with bar0Bad := r.bar0Bad + 1 }

/-- What a write with byte mask `m` makes of the value `old`. -/
def masked (old v m : BitVec 64) : BitVec 64 := (old &&& ~~~m) ||| (v &&& m)

/-- HOST.URGENT (R358). -/
def putUrgent (s : State) (v : BitVec 64) : State :=
  match (fld v 0 4).toNat with
  | 1 => urgentWrite s false (fld v 6 2)
  | 2 => urgentWrite s true (fld v 6 2)
  | _ => modRegs s fun r => { r with urgBad := r.urgBad + 1 }

/-- HOST.BAR2_CTL as it stands. -/
def bar2Ctl (s : State) : BitVec 64 := s.regs.bar2Key ++ (0 : BitVec 47) ++ BitVec.ofBool s.regs.bar2En

/-- A write of HOST.BAR2_CTL (R341, R458). -/
def putBar2Ctl (s : State) (port : Bool) (v : BitVec 64) : State :=
  let s1 := judgeLock s port 0x10028 (bit v 0 != s.regs.bar2En)
  modRegs s1 fun r => { r with bar2Key := fld v 48 16, bar2En := if r.lock then r.bar2En else bit v 0 }

/-- TEL.CFG as it stands (R414), and a write of it. -/
def telCfg (s : State) : BitVec 64 :=
  let r := s.regs
  (0 : BitVec 48) ++ r.traceShift ++ (0 : BitVec 8) ++ BitVec.ofBool r.fwdTraces ++ BitVec.ofBool r.fwdLogs ++ BitVec.ofBool r.fwdAlarms ++
    BitVec.ofBool r.traceEn

def putTelCfg (s : State) (v : BitVec 64) : State :=
  modRegs s fun r => { r with traceShift := fld v 12 4, fwdTraces := bit v 3, fwdLogs := bit v 2, fwdAlarms := bit v 1, traceEn := bit v 0 }

/-- A write of LINK.CFG (R458, R463). -/
def putLinkCfg (s : State) (port : Bool) (v : BitVec 64) : State :=
  if s.regs.lock then judgeLock s port 0x40010 (fld v 0 12 != s.regs.gcmEn) else modRegs s fun r => { r with gcmEn := fld v 0 12 }

/-- A write of SEC.STATUS reaches `peer_min_svn` alone (R433, R458). -/
def putSec (s : State) (port : Bool) (v : BitVec 64) : State :=
  if s.regs.lock then judgeLock s port 0x70000 (fld v 40 8 != s.sec.peerMinSvn)
  else { s with sec := { s.sec with peerMinSvn := fld v 40 8 } }

/-- A write under byte mask `m` of a 64-bit register of a context. -/
def putCtx (s : State) (port : Bool) (c o : Nat) (v m : BitVec 64) : State :=
  let x := ctxOf s c
  match o with
  | 0x00 => putCtxCfg s port c (masked x.cfg v m)
  | 0x08 => putSave s c fun x => { x with saveBase := masked x.saveBase v m &&& 0x0000FFFFFFFF0000 }
  | 0x10 => putSave s c fun x => { x with saveCtl := masked x.saveCtl v m &&& 0xFFFFFFFF0000FFFF }
  | _ => modCtx s c fun x => { x with flags := x.flags &&& ~~~(fld (v &&& m) 0 8) }

/-- A write of a ring's base (R342, R343). -/
def putBase (s : State) (c : Fin 64) (ev : Bool) (v m : BitVec 64) : State :=
  modDoor s c.val fun d =>
    if ev then (if d.evEn then d else { d with evBase := masked d.evBase v m })
    else if d.mbEn then d else { d with mbBase := masked d.mbBase v m }

/-- A write under byte mask `m` of the 64-bit register at `off`. SYS.PLACE and HOST.URGENT take whole writes only (R305, R358). -/
def put64 (s : State) (port : Bool) (off : Nat) (v m : BitVec 64) : State :=
  let whole := m == BitVec.allOnes 64
  match off with
  | 0x10000 => if whole then putUrgent s v else barBad s
  | 0x10020 => modRegs s fun r => { r with bar2Base := fld (masked (r.bar2Base.setWidth 64 <<< 16) v m) 16 32 }
  | 0x10028 => putBar2Ctl s port (masked (bar2Ctl s) v m)
  | 0x10030 => putLock s port (v &&& m)
  | 0x40000 => if whole then putPlace s port v else s
  | 0x40010 => putLinkCfg s port (masked (s.regs.gcmEn.setWidth 64) v m)
  | 0x60000 => putTbCfg s (masked ((0 : BitVec 6) ++ s.tb.beatPeriod ++ (0 : BitVec 30) ++ s.tb.role) v m)
  | 0x70000 => putSec s port (masked (s.sec.peerMinSvn.setWidth 64 <<< 40) v m)
  | 0x00800000 => putTelCfg s (masked (telCfg s) v m)
  | _ => match ctxAt off, pageAt off with
    | some x, _ => putCtx s port x.1 x.2 v m
    | _, some x => putBase s x.1 (x.2 == 0x18) v m
    | _, _ => s

/-- The cap (R392). -/
def putCap (s : State) (v : BitVec 11) : State :=
  if 600 ≤ v.toNat ∧ v.toNat ≤ 1400 then account (modPwr s fun p => { p with cap := v }) else s

/-- The target frequency (R392). -/
def putFreq (s : State) (v : BitVec 6) : State :=
  if 16 ≤ v.toNat ∧ v.toNat ≤ 60 then account (modPwr s fun p => { p with fSet := v }) else s

/-- The external ceiling (R392, R430). R392 says nothing of 61 to 63: they leave the field unchanged too, as 1 to 15 do (DESIGN
CHOICE, LOG 16). -/
def putExt (s : State) (v : BitVec 6) : State :=
  if v = 0 ∨ (16 ≤ v.toNat ∧ v.toNat ≤ 60) then account (modPwr s fun p => { p with extLimit := v }) else s

/-- A write of the 32-bit register at `off`. -/
def put32 (s : State) (port : Bool) (off : Nat) (v : BitVec 32) : State :=
  match off with
  | 0x30000 => putCap s (fld v 0 11)
  | 0x30004 => putFreq s (fld v 0 6)
  | 0x30008 => putExt s (fld v 0 6)
  | 0x50000 => putLlmMode s port v
  | 0x50008 => putImb s port v
  | 0x60008 => putUpstream s v
  | _ => match pageAt off with
    | some (c, 0x008) => modDoor s c.val fun d => mbCtl (ctxValid s c.val) d v
    | some (c, 0x00C) => if tailOk (doorOf s c.val) v then modDoor s c.val fun d => { d with mbTail := v } else doorbellBad s c 0x00C port v
    | some (c, 0x020) => modDoor s c.val fun d => evCtl (ctxValid s c.val) d v
    | some (c, 0x024) => if headOk (doorOf s c.val) v then modDoor s c.val fun d => { d with evHead := v } else doorbellBad s c 0x024 port v
    | _ => s

/-- A BAR0 write of `size` bytes at `off` (R340, R454). -/
def barWrite (s : State) (port : Bool) (off size : Nat) (v : BitVec 64) : State :=
  if (size != 4 && size != 8) || off % size != 0 then barBad s
  else if size = 8 then
    if wide off then put64 s port off v (BitVec.allOnes 64)
    else put32 (put32 s port off (fld v 0 32)) port (off + 4) (fld v 32 32)
  else if wide (off / 8 * 8) then
    let sh := off % 8 * 8
    put64 s port (off / 8 * 8) ((fld v 0 32).setWidth 64 <<< sh) ((0xFFFFFFFF : BitVec 64) <<< sh)
  else put32 s port off (fld v 0 32)

/-! ### The commands -/

/-- SETUP_LOCK (R457): 1 is written to `lock`. -/
def execSetupLock (port : Bool) (s : State) : Res := whenever (fnReady s port) s (putLock s port 1)

/-- LOCK_HIT_CLEAR (R459): 1 is written to `lock_hit`. -/
def execLockHitClear (s : State) : Res := whenever (bar0Up s) s (putLock s false 2)

/-- SYS_PLACE_WRITE (R306). -/
def execSysPlaceWrite (port : Bool) (v : BitVec 64) (s : State) : Res := whenever (fnReady s port) s (putPlace s port v)

/-- TB_CFG_WRITE (R466). -/
def execTbCfgWrite (v : BitVec 64) (s : State) : Res := whenever (bar0Up s) s (putTbCfg s v)

/-- TB_UPSTREAM_WRITE (R467). -/
def execTbUpstreamWrite (v : BitVec 32) (s : State) : Res := whenever (bar0Up s) s (putUpstream s v)

/-- LLM_MODE_WRITE (R217). -/
def execLlmModeWrite (port : Bool) (v : BitVec 32) (s : State) : Res := whenever (fnReady s port) s (putLlmMode s port v)

/-- CTX_CFG_WRITE (R366, R367). -/
def execCtxCfgWrite (port : Bool) (c : Fin 64) (v : BitVec 64) (s : State) : Res :=
  whenever (fnReady s port) s (putCtxCfg s port c.val v)

/-- HI_STICKY_CLEAR (R155): 1 is written to `hi_sticky` of a queue's watermark status word. -/
def execHiStickyClear (q : BitVec 12) (s : State) : Res := whenever (s.dev = .ready) s (clearHi s q.toNat)

/-- LO_STICKY_CLEAR (R155). -/
def execLoStickyClear (q : BitVec 12) (s : State) : Res := whenever (s.dev = .ready) s (clearLo s q.toNat)

/-- WM_STICKY_CLEAR (R184). -/
def execWmStickyClear (r : BitVec 14) (s : State) : Res := whenever (s.dev = .ready) s (clearWm s r.toNat)

/-- REGISTER_WRITE (R340, R455): any BAR0 write. -/
def execRegisterWrite (port : Bool) (off : BitVec 25) (size : Nat) (v : BitVec 64) (s : State) : Res :=
  whenever (fnReady s port) s (barWrite s port off.toNat size v)

end Sys2Proof.Machine
end

