-- ==== Sys2Proof/Machine/Startup.lean ====
section
/-! DEFINITION. Start-up (R212, R243 to R247, R382, R404 to R406, R417 to R423, R428, R440 to R453): one command per stage. The command of
a stage ends the stage before it and begins its own; HOST_STAGE ends start-up. -/

namespace Sys2Proof.Machine

/-- Shordo's source id (R407). -/
def shordoSrc (s : State) : BitVec 32 := srcUnit s 0xE1 0 0

/-- Shordo runs its firmware, or the boot ROM's recovery. -/
def shordoRuns (s : State) : Bool := s.dev != .off && (s.start.shordo = .up || s.start.shordo = .fresh)

/-! ### Stage 1 and the resets (R438, R440, R442) -/

/-- POWER_GOOD: stage 1. AUTO_ON is sampled; the input pins are read anew (LOG 5). -/
def execPowerGood (autoOn : Bool) (s : State) : Res :=
  whenever (s.dev = .off) s
    (let s1 := modPins s fun p => { p with pwrgd := true, autoOn := autoOn, sysclk := true, thermTripN := true }
     let s2 := modPwr s1 fun p => { p with flowOk := s.pins.flowOk, flowSince := if s.pins.flowOk then some s.ns else none, trip := false }
     modStart (modSh { s2 with dev := .standby } fun h => { h with standbyNs := s.ns }) fun x => { x with autoOn := autoOn, shordo := if s.pins.rstN then .boot else .down })

/-- RST_N_HIGH (R438, R440): AUTO_ON is sampled, and the package starts at stage 2. -/
def execRstNHigh (autoOn : Bool) (s : State) : Res :=
  whenever (!s.pins.rstN) s
    (let s1 := modPins s fun p => { p with rstN := true, autoOn := if s.dev = .off then p.autoOn else autoOn }
     if s.dev = .off then s1 else modStart s1 fun x => { x with autoOn := autoOn, shordo := .boot })

/-! ### Stage 2 (R417 to R422, R433, R449, R453) -/

/-- What fuses and flash hold at the first boot that the model sees. -/
def firstRead (b : BootRead) (h : Shordo) : Shordo :=
  if h.known then h
  else { h with known := true, serial := b.serial, svnFused := b.svnFused, revoked := b.revoked, debugLock := b.debugLock, factory := b.factory
                fwA := some b.slotA, fwB := some b.slotB, repair := b.repair, placeRec := b.place, keys := b.keys, peerRevoked := b.peerRevoked.take 256 }

/-- The ROM accepts a slot (R418, R421). -/
def slotGood (h : Shordo) (f : FwSlot) : Bool :=
  f.accepted && !h.revoked.getLsbD f.keySlot.toNat && decide (h.svnFused.toNat ≤ f.svn.toNat)

/-- The slot that boots (R419): whether it is slot B, and what it holds. -/
def bootSlot (h : Shordo) : Option (Bool × FwSlot) :=
  match h.fwA.filter (slotGood h), h.fwB.filter (slotGood h) with
  | some a, some b => if a.version.toNat < b.version.toNat then some (true, b) else some (false, a)
  | some a, none => some (false, a)
  | none, some b => some (true, b)
  | none, none => none

/-- SEC.STATUS as stage 2 writes it (R433). -/
def bootSec (h : Shordo) : Sec :=
  match bootSlot h with
  | some x => { Sec.reset with svnFused := h.svnFused, svnFw := x.2.svn, keySlot := x.2.keySlot, revoked := h.revoked, slot := x.1, fwVersion := x.2.version }
  | none => { Sec.reset with svnFused := h.svnFused, revoked := h.revoked, boot := 1 }

/-- Every register takes its reset value (R453); what the pins and the input bring stands. -/
def bootRegs (s : State) : State :=
  { s with
    regs := { Regs.reset with serial := s.sh.serial }, place := Place.reset, caps := Caps.reset, tb := Timebase.reset
    ctxs := [(0, Ctx.reset0)], doors := [], sec := bootSec s.sh
    paths := { s.paths with longs := [], lastCtx := 0, shordoLog := [], pldmQ := [] }
    pwr := { Pwr.reset with flowOk := s.pwr.flowOk, flowSince := s.pwr.flowSince, flowLostNs := s.pwr.flowLostNs, trip := s.pwr.trip
                            bladeLost := s.pwr.bladeLost, rails := s.pwr.rails, railTransient := s.pwr.railTransient } }

/-- What Shordo does after stage 2: a start-up follows when AUTO_ON was high, or STATE asked for it (R431, R441). -/
def afterBoot (s : State) : ShordoSt :=
  if (bootSlot s.sh).isSome && (s.start.shordo = .bootAsked || s.start.autoOn) then .fresh else .up

/-- SHORDO_BOOT: stage 2. -/
def execShordoBoot (b : BootRead) (s : State) : Res :=
  whenever (s.dev = .standby && (s.start.shordo = .boot || s.start.shordo = .bootAsked)) s
    (let h := firstRead b s.sh
     let s1 : State := { s with sh := { h with
       repair := dropBad b.crcBad 0 h.repair, placeRec := dropBad b.crcBad 2 h.placeRec, keys := dropBad b.crcBad 4 h.keys, recovery := (bootSlot h).isNone, fwNew := false, hubFwOk := false, aliasDebug := s.sec.debug
       digest := ((bootSlot h).map fun x => x.2.digest).getD 0, spdm := [], spdmUntil := 0, updAgent := none, challenge := none, smbus := false } }
     let s2 := bootRegs s1
     let s3 : State := { s2 with start := { Start.reset with
       failCause := s.start.failCause, failStage := s.start.failStage, autoOn := s.start.autoOn, shordo := afterBoot s1 } }
     if (newest s1.sh.repair).isSome then s3 else post s3 (shordoSrc s3) (pwrPm s3) evRepairWriteFail none eInternal [])

/-! ### Stage 3 (R382, R441) -/

/-- RAIL_RAMP: stage 3 begins after a stage 2 that asked for it, once its conditions hold. -/
def execRailRamp (s : State) : Res :=
  whenever (s.dev = .standby && s.start.shordo = .fresh && s.start.stage == 0 && startReady s) s (beginStage3 s false)

/-- SYSCLK_LOST (R450). -/
def execSysclkLost (s : State) : Res :=
  let s1 := modPins s fun p => { p with sysclk := false }
  .next (if s.start.stage = 3 then toFailed s1 5 else s1)

/-- A rail group that stage 3 could not ramp leaves the package Failed (R383, R450). -/
def rampFailed (s : State) : Option (BitVec 8) :=
  let dead := (s.pwr.rails.filter fun x => x.2 = .retired).map Prod.fst
  if dead.any fun k => decide (36 ≤ k / 1024) then some 1
  else if dead.any fun k => decide (k % 1024 < 2) then some 2 else none

/-! ### Stage 4 (R243 to R247, R444) -/

/-- The first field of a capability block that leaves its site rejected (R246), as its place in R245. -/
def blockBad (b : BitVec 256) : Option Nat :=
  let vendor := fld b 240 16
  let kind := fld b 232 8
  let ver := fld b 224 8
  let rate := fld b 216 4
  ([(kind == 1 && vendor != 0x0C41, 0), (kind != 1 && kind != 2, 1),
    ((ver != 0x10 && ver != 0x11 && ver != 0x12) || (kind == 1 && ver != 0x12), 2), (fld b 220 4 != 4, 3),
    (decide (2 < rate.toNat) || (ver == 0x12 && rate != 2), 4), (kind == 2 && ver != 0x12 && !bit b 215, 5),
    (decide (400 < (fld b 192 16).toNat), 10)].find? fun x => x.1).map Prod.snd

/-- The mode of an accepted block (R246). -/
def blockMode (b : BitVec 256) : SiteMode :=
  if fld b 232 8 = 1 then .yarrow else if fld b 224 8 = 0x12 then .guest16 else .guestCompat

/-- A direction of a role map holds a command, a data and a response group (R247). -/
def dirGood (w : BitVec 16) : Bool :=
  let g := (List.range 8).map fun i => fld w (2 * i) 2
  g.contains 0 && g.contains 1 && g.contains 2

/-- The role map that the hub grants (R247). -/
def grantRoles (b : BitVec 256) : BitVec 128 :=
  if (List.range 8).all fun i => dirGood (fld b (16 * i) 16) then fld b 0 128 else 0x55585558555855585558555855585558

/-- A port after training: its wires' spares as the repair record has them. The record names no direction: of two wires of a group, the
first stands for the way down and the second for the way up (DESIGN CHOICE, LOG 88). -/
def trainPort (s : State) (b p : Nat) (live : Bool) : State :=
  let ws := s.sh.retired.filter fun c => chKind c == 6 && chSite c == hdiSiteField b && fld c 16 2 == BitVec.ofNat 2 p
  modHdi s (b * 4 + p) fun h => { h with
    live := live, retraining := false, up := HdiWay.reset, down := HdiWay.reset
    spares := ws.foldl (fun t c =>
      let g := wireGroup (fld c 6 10)
      let k := if tget 0 t g = 0 then g else 16 + g
      tput 0 t k (tget 0 t k + 1)) [] }

/-- A port that fails training is retired (R242, R243). -/
def portFails (s : State) (b p : Nat) : State :=
  recordRetired (post s (hdiSrc s b p) (clock s (hdiDom b)) evHdiPortRetired none eRetired []) (hdiSrc s b p) (clock s (hdiDom b)) (portChannel b p)
    eRetired

/-- The ports of a bundle train: a failing wire takes a spare, and a port that needs a second one in a group, or that fails outright, is
retired (R242). -/
def trainBundle (bad : List (Nat × Nat)) (wires : List (Nat × Nat × Bool × BitVec 10)) (s : State) (b : Nat) : State :=
  let s0 := modFlow (modFlow s b true fun _ => HdiFlow.reset) b false fun _ => HdiFlow.reset
  (List.range 4).foldl (fun s p =>
    if s.sh.retired.contains (portChannel b p) then trainPort s b p false
    else
      let s1 := trainPort s b p true
      let ws := ((wires.filter fun w => w.1 == b && w.2.1 == p).map fun w => w.2.2).dedup
      if bad.contains (b, p) || !sparesEnough (hdiOf s1 (b * 4 + p)) ws then trainPort (portFails s b p) b p false
      else spareWires s1 b p ws) s0

/-- A site's core group ramps down and its ports are dark (R443). -/
def darkSite (s : State) (n : Nat) : State :=
  let s2 := modPwr s fun p => { p with rails :=
    if (tget .off p.rails (n * 1024 + 2)) = .retired then p.rails else tput .off p.rails (n * 1024 + 2) .off }
  (List.range 4).foldl (fun s p => trainPort s n p false) s2

/-- A site that stays empty in this start-up. -/
def emptySite (s : State) (n : Nat) : State :=
  darkSite (modSite s n fun x => { x with mode := .empty, block := 0, roles := 0, rate := 0 }) n

/-- A site's ports have trained: one with no live port is retired as a die site (R243). -/
def siteTrained (s : State) (n : Nat) : State :=
  if bundleLive s n then s
  else lastingFault (modSite s n fun x => { x with failed := true }) (srcUnit s (0xB0 + n) 0 0) (clock s (domFabric n)) (channel 3 (n * 2 ^ 18))
    0x02 eRetired false

/-- The rate of an accepted die's lanes, in Gb/s (R247): 16 in native mode; 8 for version 1.0, the lower of 12 and `max_rate` for 1.1. -/
def laneRate (b : BitVec 256) : Nat :=
  if fld b 224 8 = (0x12 : BitVec 8) then 16
  else if fld b 224 8 = (0x10 : BitVec 8) then 8
  else if fld b 216 4 = (0 : BitVec 4) then 8 else 12

/-- A site takes its capability block (R245 to R247): the hub reads that of each of its sites, over a sideband that standby power feeds. The
ports of a site that is in use train. -/
def takeBlock (blocks : List CapBlock) (bad : List (Nat × Nat)) (wires : List (Nat × Nat × Bool × BitVec 10)) (s : State) (n : Nat) : State :=
  let pm := clock s (domFabric n)
  match blocks.find? fun b => b.site == n && b.crcOk with
  | none => emptySite s n
  | some b => match blockBad b.block with
    | some f => emptySite (post s (srcUnit s (0xB0 + n) 0 0) pm evHdiReject none eInternal [(8, n), (8, f)]) n
    | none =>
      let m := blockMode b.block
      let s1 := modSite s n fun x => { x with
        mode := m, block := b.block, roles := if m = .guestCompat then grantRoles b.block else 0, rate := laneRate b.block }
      let s2 := if m = .yarrow then s1 else post s1 (srcUnit s (0xB0 + n) 0 0) pm evHdiGuest none eOk [(256, b.block.toNat)]
      if !s.sh.active.contains n || (siteOf s n).failed then darkSite s2 n else siteTrained (trainBundle bad wires s2 n) n

/-- HDI_STAGE: stage 4. `hubFwOk`: the hub firmware was verified and accepted; `badPorts`: bundle and port of each that fails training; `badWires`: the
failing wires of the others, by direction. -/
def execHdiStage (hubFwOk : Bool) (blocks : List CapBlock) (badPorts : List (Nat × Nat))
    (badWires : List (Nat × Nat × Bool × BitVec 10)) (s : State) : Res :=
  whenever (s.start.stage == 3 && !(s.pwr.rails.any fun x => x.2 = .retrying)) s
    (match rampFailed s with
     | some c => toFailed s c
     | none =>
       let s1 := modSh (enterStage s 4) fun h => { h with hubFwOk := hubFwOk }
       if hubFwOk then
         let s2 := ((List.range 4).map (· + 36)).foldl (trainBundle badPorts badWires) s1
         match ((List.range 4).map (· + 36)).find? fun b => !bundleLive s2 b with
         | some b => toFailed (post s2 (hdiSrc s b 0) (clock s (hdiDom b)) evHdiHubSplit none eRetired []) 4
         | none => (List.range 36).foldl (takeBlock blocks badPorts badWires) s2
       else toFailed { s1 with sec := { s1.sec with boot := 2 } } 3)

/-! ### Stages 5 to 7 (R212, R302, R406, R445) -/

/-- SPARE_MAP_STAGE: stage 5. -/
def execSpareMapStage (s : State) : Res := whenever (s.start.stage == 4) s (buildSpareMap (enterStage s 5))

/-- The channel of lane `l` of a pseudo-channel (R405). -/
def hbmLaneChannel (h : BitVec 2) (p : BitVec 8) (l : BitVec 6) : BitVec 32 := channel 9 (h.toNat * 2 ^ 22 + p.toNat * 2 ^ 14 + l.toNat * 2 ^ 8)

/-- The spare lanes that `l` takes at a pseudo-channel, beside those it has taken (R212): 2 for its data lanes, 0 to 33 with the
spares; 1 for the command and address lanes of its channel, 34 and up (DESIGN CHOICE, LOG 8: the spec numbers no lane). -/
def hbmShort (s : State) (l : List (BitVec 2 × BitVec 8 × BitVec 6)) (h : BitVec 2) (p : BitVec 8) : Bool :=
  let gone := (s.sh.retired.filter fun c => chKind c == 9).map fun c => ((fld c 22 2 : BitVec 2), (fld c 14 8 : BitVec 8), (fld c 8 6 : BitVec 6))
  let all := (gone ++ l).dedup
  let data := all.filter fun x => x.1 == h && x.2.1 == p && decide (x.2.2.toNat < 34)
  let cmd := all.filter fun x => x.1 == h && x.2.1.toNat / 2 == p.toNat / 2 && decide (34 ≤ x.2.2.toNat)
  decide (2 < data.length) || decide (1 < cmd.length)

/-- A training's source and clock: the stack's controller. -/
def hbmSrc (s : State) (h : BitVec 2) (p : BitVec 8) : BitVec 32 := srcUnit s 0xAA h.toNat (p.toNat / 64)
def hbmPm (s : State) (h : BitVec 2) (p : BitVec 8) : Pm := clock s (domHbm (4 * h.toNat + p.toNat / 64))

/-- A lane is replaced by a spare, and recorded (R212, R404). -/
def hbmReplace (s : State) (x : BitVec 2 × BitVec 8 × BitVec 6) : State :=
  if s.sh.retired.contains (hbmLaneChannel x.1 x.2.1 x.2.2) then s
  else lastingFault s (hbmSrc s x.1 x.2.1) (hbmPm s x.1 x.2.1) (hbmLaneChannel x.1 x.2.1 x.2.2) 0x05 eRetired true

/-- A pseudo-channel that needs more spares than it has is trained again (R212): with the lanes that fail then it is in service, or
it is retired. -/
def hbmRetry (again : List (BitVec 2 × BitVec 8 × BitVec 6)) (s : State) (x : BitVec 2 × BitVec 8) : State :=
  if hbmShort s again x.1 x.2 then
    if (hubOf s x.1.toNat).pcDead.contains x.2 then s else retirePc s x.1.toNat x.2 eRetired
  else
    (again.filter fun y => y.1 == x.1 && y.2.1 == x.2).foldl hbmReplace
      (transientFault s (hbmSrc s x.1 x.2) (hbmPm s x.1 x.2) (channel 0x0A (x.1.toNat * 2 ^ 22 + x.2.toNat * 2 ^ 14)) 0x05)

/-- HBM_TRAINING: stage 6 (R212). `lanes` fall below the training limit; `again` do so when training is retried. -/
def execHbmTraining (lanes again : List (BitVec 2 × BitVec 8 × BitVec 6)) (s : State) : Res :=
  whenever (s.start.stage == 5) s
    (let s1 := enterStage s 6
     let short := ((lanes.map fun x => (x.1, x.2.1)).dedup).filter fun x => hbmShort s1 lanes x.1 x.2
     let s2 := (lanes.filter fun x => !short.contains (x.1, x.2.1)).foldl hbmReplace s1
     short.foldl (hbmRetry again) s2)

/-- The source of a physical core's faults: the logical core it holds, or its site (R407). -/
def physSrc (s : State) (n c k : Nat) : BitVec 32 :=
  match (List.range 32).find? fun d => siteOfDie s d == n with
  | some d => match (List.range 160).find? fun j => tget j s.sh.spareCl (d * 256 + j) == c with
    | some j => match (List.range 16).find? fun i => tget i s.sh.spareCore (d * 4096 + j * 16 + i) == k with
      | some i => srcCore s (BitVec.ofNat 17 (d * 4096 + j * 16 + i))
      | none => srcUnit s (0xB0 + n) 0 0
    | none => srcUnit s (0xB0 + n) 0 0
  | none => srcUnit s (0xB0 + n) 0 0

/-- The channel of physical core `k` of physical cluster `c` of site `n` (R405). -/
def physChannel (x : Nat × Nat × Nat) : BitVec 32 := channel 1 (x.1 * 2 ^ 18 + x.2.1 * 2 ^ 10 + x.2.2 * 2 ^ 5)

/-- A core fails its self-test twice (R445): a second one in a cluster retires the cluster, and a cluster too many the site (R15). -/
def coreFails (s : State) (x : Nat × Nat × Nat) : State :=
  let n := x.1
  let others := (coresGone s.sh.retired n).any fun y => y.1 == x.2.1
  let src := physSrc s n x.2.1 x.2.2
  let pm := clock s (domFabric n)
  if s.sh.retired.contains (physChannel x) then s
  else
    let s1 := lastingFault s src pm (physChannel x) 0x06 eRetired (!others && x.2.2 != 16)
    if !others || s.sh.retired.contains (channel 2 (n * 2 ^ 18 + x.2.1 * 2 ^ 10)) then s1
    else
      let s2 := lastingFault s1 src pm (channel 2 (n * 2 ^ 18 + x.2.1 * 2 ^ 10)) 0x06 eRetired (!sparesShort s1.sh.retired n)
      if sparesShort s2.sh.retired n then
        lastingFault (modSite s2 n fun y => { y with failed := true }) (srcUnit s (0xB0 + n) 0 0) pm (channel 3 (n * 2 ^ 18)) 0x06 eRetired false
      else s2

/-- An adder lane fails (R302, R405): unit 0 of its hub is the sorting office. -/
def adderFails (s : State) (x : Fin 4 × Nat × Nat) : State :=
  let ch := channel 0x0C (x.1.val * 2 ^ 22 + x.2.1 * 2 ^ 16 + x.2.2 * 2 ^ 11)
  let src := if x.2.1 = 0 then srcUnit s 0xA6 x.1.val 0 else srcUnit s 0xAA x.1.val (x.2.1 - 1)
  let pm := clock s (domHub x.1.val)
  if s.sh.retired.contains ch then s
  else recordRetired (post s src pm evCollLaneRetired none eRetired []) src pm ch eRetired

/-- A core that runs the self-test stream of the booted firmware, whose words are Shordo's (R117, R445). -/
def testCore : Core :=
  { Core.reset with phase := .running, stream := some { umbel := 0, owner := 0, audit := false, mode := .selfTest, step := 0 } }

/-- The cores of the logical dies that serve (R12). -/
def servingCores (s : State) : List Nat :=
  ((List.range 32).filter fun d => siteFor s d != 255 && (siteOf s (siteFor s d)).mode == .yarrow).flatMap fun d =>
    (List.range 2560).map fun i => d * 4096 + i

/-- Each hub starts the self-test streams on the cores of its quadrant (R445); they end with stage 7. -/
def startTests (s : State) : State :=
  { s with cores := (servingCores s).foldl (fun t c => if (tget Core.reset t c).phase = .retired then t else tput Core.reset t c testCore) s.cores }

/-- The spare clusters of active sites are powered for the test, and down again once they pass, but for those in use (R445). -/
def testDomain (s : State) (d : Nat) : Bool := decide (160 ≤ d % 256) && s.sh.active.contains (d / 256)
def spareInUse (s : State) (d : Nat) : Bool := s.sh.spareCl.any fun e => domLogical s e.1 == d
def powerTests (s : State) : State :=
  { s with clk := { s.clk with cl := tmap s.clk.clDef (fun d c => if testDomain s d then powerUp s.tb.beatPeriod.toNat 100 c else c) s.clk.cl } }
def restTests (s : State) : State :=
  { s with clk := { s.clk with cl := (spareDomains s.sh.active).foldl (fun t d =>
      if testDomain s d && !spareInUse s d then tput s.clk.clDef t d Ctr.reset else t) s.clk.cl } }

/-- SELF_TEST: stage 7. `transient` and `lasting` name cores by site, physical cluster and physical core; `adders` names adder lanes that
fail by hub, unit and lane. -/
def execSelfTest (transient lasting : List (Nat × Nat × Nat)) (adders : List (Fin 4 × Nat × Nat)) (s : State) : Res :=
  whenever (s.start.stage == 6) s
    (let s1 := transient.foldl (fun s x => transientFault s (physSrc s x.1 x.2.1 x.2.2) (clock s (domFabric x.1)) (physChannel x) 0x06) (enterStage s 7)
     startTests (powerTests (buildSpareMap (adders.foldl adderFails (lasting.foldl coreFails s1)))))

/-! ### Stages 8 to 10 (R307, R446, R447, R421, R449, R462) -/

/-- SYS.PLACE is written from the placement record, unless the host has set it (R446, R307). -/
def placeAtStart (s : State) : State :=
  if s.place.set then s
  else match inCopy s.sh.placeRec with
    | some p => if placeBad (p.setWidth 64) then post s (shordoSrc s) (pwrPm s) evSysUnplaced none eInternal []
                else { s with place := placeFrom (p.setWidth 64) }
    | none => post s (shordoSrc s) (pwrPm s) evSysUnplaced none eInternal []

/-- A link waits for its peer, to which it announces itself (R446), one that had failed before too (R264); with no placement every
link stays Down (R307). -/
def linkWaits (s : State) (l : Nat) : State :=
  if s.place.set then sendLinkCtl (modLink s l fun k => { k with waitPeer := true, authHeld := false }) l 4 0 0 else s

/-- LINK_STAGE: stage 8. On a return the links come back to the width they held (R279, R452). -/
def execLinkStage (s : State) : Res :=
  whenever (s.start.stage == 7) s
    (let s1 := enterStage (restTests { s with cores := retiredOnly s.cores }) 8
     if s.start.retMode then (List.range 12).foldl wakeLink s1 else (List.range 12).foldl linkWaits (placeAtStart s1))

/-- A link has ended stage 8 (R446): Up, Down through failure, or 150 ms without its peer. -/
def linkSettled (s : State) (l : Nat) : Bool :=
  match (linkOf s l).st with
  | .training => false
  | .down => !(linkOf s l).waitPeer || decide (s.start.stageNs + 150000000 ≤ s.ns)
  | _ => true

/-- TIMEBASE_STAGE: stage 9. -/
def execTimebaseStage (s : State) : Res :=
  whenever (s.start.stage == 8 && !s.start.retMode && (List.range 12).all (linkSettled s)) s (enterStage s 9)

/-- A logical die is present, and of a mode that `f` accepts. -/
def dieIs (s : State) (f : SiteMode → Bool) (d : Nat) : Bool := siteFor s d != 255 && f (siteOf s (siteFor s d)).mode

/-- The live ports of a bundle, as a mask; zero for a site that does not serve (R462). -/
def portMask (s : State) (b : Nat) : BitVec 4 :=
  if b < 36 && !siteServes s b then 0
  else (List.range 4).foldl (fun m p => if portLive s b p then m ||| BitVec.ofNat 4 (2 ^ p) else m) 0

/-- A mask of the numbers below `n` that satisfy `f`. -/
def maskOf (w n : Nat) (f : Nat → Bool) : BitVec w := (List.range n).foldl (fun m i => if f i then m ||| BitVec.ofNat w (2 ^ i) else m) 0

/-- The capability registers (R214, R462). -/
def finalCaps (s : State) : Caps :=
  let n := fun (f : SiteMode → Bool) => ((List.range 32).filter (dieIs s f)).length
  { cores := BitVec.ofNat 17 (2560 * n (· == .yarrow)), dies := BitVec.ofNat 6 (n fun _ => true), guests := BitVec.ofNat 6 (n (· != .yarrow))
    hbmLive := maskOf 4 4 fun q => (hubOf s q).pcDead.isEmpty
    llmLive := maskOf 32 32 fun i => !s.sh.retired.contains (channel 0x0B (i * 2 ^ 19))
    dieMap := (List.range 32).foldl (fun t d => tput 0 t d (BitVec.ofNat 8 (siteFor s d))) []
    guest := maskOf 32 32 (dieIs s (· != .yarrow))
    hdi := (List.range 40).foldl (fun t b => tput 0 t b (portMask s b)) [] }

/-- Start-up has reached Ready. -/
def reachReady (s : State) : State :=
  let s1 : State := { s with dev := .ready, sched := .none, caps := finalCaps s }
  let s2 := modSh s1 fun h => { h with svnFused := if h.svnFused.toNat < s.sec.svnFw.toNat then s.sec.svnFw else h.svnFused }
  account (modStart s2 fun x => { x with
    done := true, stage := 0, elapsedMs := elapsed s, failCause := 0, failStage := 0, retMode := false })

/-- HOST_STAGE: stage 10, once the timebase is Locked or 5 s have passed (R447); a return has no stage 9. -/
def execHostStage (s : State) : Res :=
  whenever ((s.start.stage == 9 && (s.tb.st = .locked || decide (s.start.stageNs + 5000000000 ≤ s.ns))) || (s.start.stage == 8 && s.start.retMode)) s
    (reachReady s)

/-! ### The repair record and the management bus (R404, R406, R428) -/

/-- The entry with the earliestEntry postmark. -/
def earliestEntry : List (BitVec 128) → Option (BitVec 128)
  | [] => none
  | e :: t => match earliestEntry t with
    | some f => if pmLt (fld f 0 64) (fld e 0 64) then some f else some e
    | none => some e

/-- An entry is written into the older copy (R404, R406). -/
def writeRepair (s : State) (e : BitVec 128) : State :=
  let s1 := modSh s fun h => { h with repairQ := h.repairQ.erase e }
  let all := repairs s.sh
  let kept := all.filter fun x => !rrCleared x
  if kept.any fun x => rrChannel x == rrChannel e then s1
  else if all.length < 4094 then modSh s1 fun h => { h with repair := writeCopy h.repair (all ++ [e]) }
  else if kept.length < 4094 then modSh s1 fun h => { h with repair := writeCopy h.repair (kept ++ [e]) }
  else post (modSh s1 fun h => { h with unrec := h.unrec ++ [rrChannel e] }) (shordoSrc s) (pwrPm s) evRepairFull none eCapacity []

/-- REPAIR_RECORD_WRITE (R404). -/
def execRepairRecordWrite (s : State) : Res :=
  match earliestEntry s.sh.repairQ with
  | some e => whenever (shordoRuns s) s (writeRepair s e)
  | none => .next s

/-- SMBUS_FALLBACK (R428): 1 s of Standby has passed with no I3C broadcast. -/
def execSmbusFallback (s : State) : Res :=
  whenever (shordoRuns s && !s.sh.smbus && decide (s.sh.standbyNs + 1000000000 ≤ s.ns)) s (modSh s fun h => { h with smbus := true })

end Sys2Proof.Machine
end

