-- ==== Sys2Proof/Machine/Mgmt.lean ====
section
/-! DEFINITION. Management (R425 to R432): Caeralti's commands, SPDM, the firmware update, the test access port. An answer names its
request by its code. -/

namespace Sys2Proof.Machine

/-- Shordo's firmware serves management commands (R420). -/
def mgmtUp (s : State) : Bool := shordoRuns s && !s.sh.recovery

/-- A command of R430 is answered with the code of its first failing check, or acts. -/
def mgmt (s : State) (code : Nat) (why : Option Err) (value : Nat) (t : State) : Res :=
  whenever (mgmtUp s) s
    (match why with
     | some e => send s (.answer code e 0)
     | none => send t (.answer code eOk value))

/-- The schedule is Running or Quiesced: the package is Running (R7). -/
def inRun (s : State) : Bool := s.sched = .running || s.sched = .quiesced

/-! ### Caeralti's commands (R430) -/

/-- PLACE_READ: bit 36 of the answer says that a record exists. -/
def execPlaceRead (s : State) : Res := mgmt s 0x01 none (match inCopy s.sh.placeRec with | some p => 2 ^ 36 + p.toNat | none => 0) s

/-- PLACE_WRITE (R306, R307). -/
def execPlaceWrite (place : BitVec 36) (s : State) : Res :=
  mgmt s 0x02 (firstErr [(placeBad (place.setWidth 64), eRange), (inRun s, eState)]) 0 
    (modSh s fun h => { h with placeRec := writeCopy h.placeRec place })

/-- REPAIR_READ. -/
def execRepairRead (i : Nat) (s : State) : Res :=
  match (repairs s.sh)[i]? with
  | some e => mgmt s 0x03 none e.toNat s
  | none => mgmt s 0x03 (some eRange) 0 s

/-- REPAIR_CLEAR. -/
def execRepairClear (i : Nat) (s : State) : Res :=
  match (repairs s.sh)[i]? with
  | some e => mgmt s 0x04 (if rrCleared e then some eState else none) 0
      (modSh s fun h => { h with repair := writeCopy h.repair ((repairs h).set i (putBit e 80 true)) })
  | none => mgmt s 0x04 (some eRange) 0 s

/-- EXT_LIMIT (R392). -/
def execExtLimit (v : BitVec 8) (s : State) : Res :=
  mgmt s 0x05 (if (1 ≤ v.toNat && v.toNat ≤ 15) || 60 < v.toNat then some eRange else none) 0 (putExt s (fld v 0 6))

/-- Some root key slot that is not revoked signed the message (R423, R432, LOG 9). -/
def rootSigned (s : State) (msg sig : Nat) : Bool :=
  (List.range 4).any fun i => !s.sh.revoked.getLsbD i && Config.signed i msg sig

/-- KEYSTORE_WRITE (R423). -/
def execKeystoreWrite (key : Nat) (revoked : Bool) (sig : Nat) (s : State) : Res :=
  mgmt s 0x06 (firstErr [(!rootSigned s (2 * key + b2n revoked) sig, eKey),
      (!revoked && !(keyStore s.sh).contains key && decide (16 ≤ (keyStore s.sh).length), eCapacity)]) 0
    (modSh s fun h =>
      let k := keyStore h
      { h with keys := writeCopy h.keys (if revoked then k.filter (· != key) else if k.contains key then k else k ++ [key]) })

/-- Start-up or a halt is in progress, stage 2 included. -/
def stateBusy (s : State) : Bool := starting s || s.pwr.halting.isSome

/-- STATE to Ready: a start-up from Standby, which begins at stage 2 when new firmware waits (R431) and waits for SYSCLK and the trip input
(R441), or a return to Ready. -/
def goReady (s : State) : State :=
  match s.dev with
  | .standby => if s.sh.fwNew then modStart s fun x => { x with shordo := .bootAsked }
    else if startReady s then beginStage3 s false else modStart s fun x => { x with shordo := .fresh }
  | .dormant | .haltedCoolant => beginReturn s
  | _ => s

/-- STATE_READY (R394, R430, R441, R451). -/
def execStateReady (s : State) : Res :=
  let t := goReady s
  mgmt s 0x07 (firstErr [(stateBusy s, eBusy), (s.dev = .haltedCoolant && !coolAgain s, eState), (s.dev = .standby && !flowHeld s, eState),
      (s.dev = .failed, eState)]) 0 t

/-- STATE_STANDBY (R430, R451, R452): during start-up it acts as RST_N does, but Shordo goes on. -/
def execStateStandby (s : State) : Res :=
  mgmt s 0x07 (if s.pwr.halting.isSome then some eBusy else none) 0 (modStart (toStandby (quiesceSched s)) fun x => { x with shordo := .up })

/-- Why a debug unlock fails (R432). -/
def unlockErr (s : State) : Option Err := firstErr [(s.sh.debugLock, eLocked), (inRun s, eState)]

/-- DEBUG_UNLOCK (R432): a challenge is answered. -/
def execDebugUnlock (s : State) : Res :=
  let n := Config.nonce s.free
  mgmt s 0x08 (unlockErr s) n (modSh { s with free := s.free + 1 } fun h => { h with challenge := some n })

/-- DEBUG_UNLOCK_RESPONSE (R432). -/
def execDebugUnlockResponse (slot : BitVec 2) (sig : Nat) (s : State) : Res :=
  match s.sh.challenge with
  | some n => mgmt s 0x08 (firstErr [((unlockErr s).isSome, (unlockErr s).getD eOk),
        (s.sh.revoked.getLsbD slot.toNat || !Config.signed slot.toNat n sig, eKey)]) 0
      { s with sec := { s.sec with debug := true }, sh := { s.sh with challenge := none } }
  | none => mgmt s 0x08 (some eState) 0 s

/-! ### SPDM (R425, R426) -/

/-- The number of a transport. -/
def transportNo : Transport → Nat
  | .doe0 => 0
  | .doe1 => 1
  | .i3c => 2
  | .smbus => 3
  | .vdm0 => 4
  | .vdm1 => 5

/-- The transport reaches Shordo (R428, R336). -/
def transportUp (s : State) : Transport → Bool
  | .doe0 | .vdm0 => fnReady s false
  | .doe1 | .vdm1 => fnReady s true
  | .i3c => !s.sh.smbus
  | .smbus => s.sh.smbus

/-- The negotiation state of a transport. -/
def spdmAt (s : State) (t : Transport) : SpdmStage := tget 0 s.sh.spdm (transportNo t)

/-- A negotiation takes a new state. -/
def spdmSet (s : State) (t : Transport) (n : SpdmStage) : State := modSh s fun h => { h with spdm := tput 0 h.spdm (transportNo t) n }

/-- A request is answered: `why` the error, else what the answer holds. One is served at a time (R426): another that arrives within the time
that it takes, at most the 50 ms of R425 and else left open, gets the error Busy (LOG 15). -/
def spdm (s : State) (t : Transport) (req : Nat) (why : Option Err) (value : Nat) (u : State) : Res :=
  whenever (mgmtUp s && transportUp s t) s
    (if s.ns < s.sh.spdmUntil then send s (.answer req eBusy 0)
     else match why with
     | some e => send s (.answer req e 0)
     | none => send (modSh { u with free := s.free + 1 } fun h => { h with
         spdmUntil := s.ns + (Config.freeWord s.free).toNat % 50000001 }) (.answer req eOk value))

/-- A request that needs negotiation `n` first. -/
def needs (s : State) (t : Transport) (n : SpdmStage) : Bool × Err := (decide (spdmAt s t < n), eState)

/-- GET_VERSION: negotiation starts anew. -/
def execGetVersion (t : Transport) (s : State) : Res := spdm s t 0x84 none (Config.spdmAnswer 0x84 0 0) (spdmSet s t 1)

/-- GET_CAPABILITIES. -/
def execGetCapabilities (t : Transport) (s : State) : Res :=
  spdm s t 0xE1 (firstErr [needs s t 1]) (Config.spdmAnswer 0xE1 0 0) (spdmSet s t (max 2 (spdmAt s t)))

/-- NEGOTIATE_ALGORITHMS: P-384 and SHA-384 are the only ones. -/
def execNegotiateAlgorithms (t : Transport) (p384 sha384 : Bool) (s : State) : Res :=
  spdm s t 0xE3 (firstErr [needs s t 2, (!p384 || !sha384, eRange)]) (Config.spdmAnswer 0xE3 0 0) (spdmSet s t 3)

/-- What the Alias certificate and key depend on (R424): the booted manifest, the fused version, the debug state at boot. -/
def aliasOf (s : State) : Nat := ((s.sh.digest * 256 + s.sec.svnFused.toNat) * 2 + b2n s.sh.aliasDebug) * 2 ^ 64 + s.sh.serial.toNat

/-- GET_DIGESTS. -/
def execGetDigests (t : Transport) (s : State) : Res := spdm s t 0x81 (firstErr [needs s t 3]) (Config.spdmAnswer 0x81 0 (aliasOf s)) s

/-- GET_CERTIFICATE: slot 0 alone is provisioned. -/
def execGetCertificate (t : Transport) (slot : Nat) (s : State) : Res :=
  spdm s t 0x82 (firstErr [needs s t 3, (slot != 0, eRange)]) (Config.spdmAnswer 0x82 0 (aliasOf s)) s

/-- The measurement blocks (R426). -/
def measure (s : State) (i : Nat) : Nat :=
  match i with
  | 1 => Config.spdmAnswer 1 0 0
  | 2 => s.sh.digest
  | 3 => (s.sh.svnFused ++ s.sh.revoked ++ BitVec.ofBool s.sh.debugLock).toNat
  | 4 => b2n s.sec.debug
  | _ => if s.sched = .none then 0 else s.sh.meas5

/-- Every measurement, as one number that the answer is made from. -/
def measures (s : State) : List Nat := (List.range 5).map fun i => measure s (i + 1)

/-- CHALLENGE: signed with the Alias key. -/
def execChallenge (t : Transport) (slot nonce : Nat) (s : State) : Res :=
  spdm s t 0x83 (firstErr [needs s t 3, (slot != 0, eRange)])
    (Config.spdmAnswer 0x83 nonce ((measures s).foldl (fun a m => Config.spdmAnswer 0 a m) (aliasOf s))) s

/-- GET_MEASUREMENTS: index 0 asks how many there are, 0xFF for all (DSP0274, LOG 15); an unsigned answer is the block itself. -/
def execGetMeasurements (t : Transport) (index nonce : Nat) (signed : Bool) (s : State) : Res :=
  let v := if index = 0 then 5 else if index = 255 then (measures s).foldl (fun a m => Config.spdmAnswer 0 a m) 0 else measure s index
  spdm s t 0xE0 (firstErr [needs s t 3, (decide (5 < index) && index != 255, eRange)])
    (if signed then Config.spdmAnswer 0xE0 nonce (Config.spdmAnswer 0 (aliasOf s) v) else v) s

/-! ### Firmware update (R431) -/

/-- The PLDM completion ALREADY_IN_UPDATE_MODE (LOG 15). -/
def alreadyUpdating : Nat := 0x81

/-- The slot that did not boot takes the package: verified, it waits for the next boot; else it is erased. -/
def installFw (s : State) (pkg : FwSlot) : State :=
  let good := slotGood s.sh pkg
  let f := if good then some pkg else none
  modSh s fun h => if s.sec.slot && !s.sh.recovery then { h with fwA := f, fwNew := good, updAgent := none }
    else { h with fwB := f, fwNew := good, updAgent := none }

/-- FIRMWARE_UPDATE (R431): an agent's first command begins the update, its second ends it; another agent is turned away. Value 1
of the answer reports a package that failed verification. -/
def execFirmwareUpdate (agent : Nat) (pkg : FwSlot) (s : State) : Res :=
  whenever (shordoRuns s) s
    (match s.sh.updAgent with
     | none => send (modSh s fun h => { h with updAgent := some agent }) (.answer 0x267 eOk 0)
     | some a => if a = agent then send (installFw s pkg) (.answer 0x267 eOk (b2n (!slotGood s.sh pkg)))
                 else send s (.answer 0x267 eOk alreadyUpdating))

/-! ### Sensors and events (R7, R429, R437) -/

/-- The number of the package's state, in the order of R7. -/
def devCode (s : State) : Nat :=
  match s.dev with
  | .off => 0
  | .standby => 1
  | .dormant => 2
  | .ready => if inRun s then 4 else 3
  | .haltedCoolant => 5
  | .failed => 6

/-- What PLDM sensor `id` reads (R429), in the units of PWR.STATUS and PWR.BLADE: 1 to 6 as last updated; 7, the device state with the cause
and stage of a failed start-up (R449), 8 and 9 as they stand. -/
def pldmSensor (s : State) (id : Nat) : Nat :=
  match id with
  | 7 => devCode s * 4096 + (s.start.failCause ++ s.start.failStage).toNat
  | 8 => ((List.range 7).map fun r => if (tget none s.pwr.episodes r).isSome then 2 ^ r else 0).sum
  | 9 => b2n s.pwr.flowOk * 2 + b2n s.pwr.trip
  | n => tget 0 s.sh.sensors n

/-- The threshold level of temperature sensor 5 or 6 after a reading: 1 and 2 of R389 or R236, 3 at their critical temperature. -/
def pldmLevel (id old t : Nat) : Nat :=
  if id = 5 then (if 112 ≤ t then 3 else nextLevel (min old 2) t) else if 100 ≤ t then 3 else nextThrottle (min old 2) t

/-- A temperature sensor takes the reading `t`: a threshold that it crosses is an event of the queue of 64. In a full queue it takes the place of
the last one that waits (DESIGN CHOICE, LOG 15). -/
def updateTemp (id t : Nat) (s : State) : State :=
  let old := tget 0 s.sh.sensorLvl id
  let new := pldmLevel id old t
  let s1 := modSh s fun h => { h with sensors := tput 0 h.sensors id t, sensorLvl := tput 0 h.sensorLvl id new }
  if new = old then s1
  else modPaths s1 fun p =>
    let waits := p.pldmQ.filter fun m => match m with | .sensor .. => true | .alarm _ => false
    let q := if p.pldmQ.length < 64 then p.pldmQ else match waits.getLast? with | some m => p.pldmQ.erase m | none => p.pldmQ
    if q.length < 64 then { p with pldmQ := q ++ [.sensor id new t] } else p

/-- The sensors of power are updated every 1 ms, those of temperature every 10 ms. -/
def updateSensors (s : State) : State :=
  let s1 := if s.dev = .off ∨ s.ns % 1000000 ≠ 0 then s
    else modSh s fun h => { h with
      sensors := tput 0 (tput 0 (tput 0 (tput 0 h.sensors 1 s.pwr.pIn.toNat) 2 s.pwr.vIn.toNat) 3 s.pwr.iPb0.toNat) 4 s.pwr.iPb1.toNat }
  if s.dev = .off ∨ s.ns % 10000000 ≠ 0 then s1 else updateTemp 6 s.pwr.tHbm.toNat (updateTemp 5 s.pwr.tDie.toNat s1)

/-- The management controller may take the front message of the queue (R428); when it does is open. -/
def takeEvent (s : State) : State :=
  match s.paths.pldmQ with
  | m :: rest =>
    let s1 := { s with free := s.free + 1 }
    if shordoRuns s && (Config.freeWord s.free).getLsbD 0 then
      send (modPaths s1 fun p => { p with pldmQ := rest }) (match m with
        | .alarm r => .pldm (some r) 0 0 0
        | .sensor id level value => .pldm none id level value)
    else s1
  | [] => s

/-- MGMT_ALERT_N (R437): low while a PLDM event is queued. -/
def mgmtAlertN (s : State) : Bool := s.paths.pldmQ.isEmpty

/-- TB_PPS_OUT (R437): a pulse at every beat edge, of 1 us or half a beat, whichever is shorter. -/
def tbPpsOut (s : State) : Bool :=
  let o := (fld s.tb.now 0 24 : BitVec 24).toNat
  s.dev != .off && s.tb.hasCount && tbRuns s && decide (o < 2 ^ 23) && decide (o * s.tb.beatPeriod.toNat < 1000 * 2 ^ 24)

/-- A nanosecond in which no command comes (LOG 1): time passes, Shordo updates its sensors, and a message of its queue may be taken. -/
def idle (s : State) : State := takeEvent (updateSensors (tickNs s))

/-! ### The test access port (R432) -/

/-- The TAP takes an instruction. -/
def setTap (s : State) (i : Tap) : State := modSh s fun h => { h with tap := i }

/-- EXTEST, CLAMP and HIGHZ act in Standby and Failed; in any other state the TAP selects BYPASS. -/
def testTap (s : State) (i : Tap) : Res :=
  whenever (s.dev != .off) s (setTap s (if s.dev = .standby ∨ s.dev = .failed then i else .bypass))

/-- The answer's name of the TAP. -/
def tapReq : Nat := 1149

/-- The IDCODE. -/
def tapId : Nat := 0x1543654B

/-- BYPASS. -/
def execBypass (s : State) : Res := whenever (s.dev != .off) s (setTap s .bypass)

/-- IDCODE. -/
def execIdcode (s : State) : Res := whenever (s.dev != .off) s (send (setTap s .idcode) (.answer tapReq eOk tapId))

/-- SAMPLE_PRELOAD. -/
def execSamplePreload (s : State) : Res := whenever (s.dev != .off) s (setTap s .sample)

/-- EXTEST. -/
def execExtest (s : State) : Res := testTap s .extest

/-- CLAMP. -/
def execClamp (s : State) : Res := testTap s .clamp

/-- HIGHZ. -/
def execHighz (s : State) : Res := testTap s .highz

end Sys2Proof.Machine
end

