-- ==== Sys2Proof/Machine/Preempt.lean ====
section
/-! DEFINITION. The events of preemption (R371 to R378). -/

namespace Sys2Proof.Machine

/-- The eviction of umbel `u`. -/
def evictOf (s : State) (u : BitVec 16) : Option Evict := s.evicts.find? fun v => v.umbel == u

/-- PREEMPT_SAVE (R372): once every evicted core has drained, each writes its save block. -/
def execPreemptSave (u : BitVec 16) (s : State) : Res :=
  match evictOf s u with
  | none => .next s
  | some v =>
    whenever (v.phase = .draining && (umCores (umbelOf s u.toNat)).all (drained s)) s
      (modEvict s u fun _ => saveCores s v)

/-- HAND_OVER (R372): the cores stand idle, ctx.preempt is posted, and the LC start that waited is taken. -/
def execHandOver (u : BitVec 16) (s : State) : Res :=
  match evictOf s u with
  | none => .next s
  | some v =>
    if v.phase = .saved then
      let n := (umCount (umbelOf s u.toNat)).toNat
      let s1 := modEvict (leaveIdle s v) u fun v => { v with phase := .handedOver, starts := [] }
      let s2 := post s1 (evictSrc s v) (evictPm s v) evCtxPreempt (some v.owner) eOk
        [(16, v.umbel.toNat), (8, v.owner.toNat), (16, v.by_.toNat), (8, v.byOwner.toNat), (64, v.drainNs),
         (64, n * blockSize s v.owner), (64, v.at_.toNat)]
      .next (v.starts.foldl (fun s e =>
        if startFree s e then handStart s e (umCores (umbelOf s e.stream.umbel.toNat)) else s) s2)
    else .next s

/-- UMBEL_RESTORE (R374): every core of the umbel has halted with nothing waiting; the restore begins. -/
def execUmbelRestore (u : BitVec 16) (s : State) : Res :=
  match evictOf s u with
  | none => .next s
  | some v =>
    whenever (v.phase = .handedOver && readyToRestore s v) s (modEvict s u fun v => { v with phase := .restoring })

/-- CTX_RESUME (R374, R378): the blocks are read back, the BE stream resumes, and the preemption is counted; an LC start
that fired meanwhile evicts the umbel again. -/
def execCtxResume (u : BitVec 16) (s : State) : Res :=
  match evictOf s u with
  | none => .next s
  | some v =>
    if v.phase = .restoring then
      let lost := s.ns - v.atNs
      let s1 := { s with evicts := s.evicts.filter fun x => x.umbel != u }
      let s2 := (umCores (umbelOf s u.toNat)).foldl (fun s c => restoreCore s v c) s1
      let s3 := { s2 with mem := v.bytes.foldl (fun m x => tput 0 m x.1 x.2) s2.mem }
      let s4 := modCtx s3 v.owner.toNat fun c => { c with preemptCount := c.preemptCount + 1,
                                                          preemptLost := c.preemptLost + BitVec.ofNat 64 lost }
      let s5 := post s4 (evictSrc s v) (evictPm s v) evCtxResume (some v.owner) eOk [(16, u.toNat), (64, lost)]
      .next (beginEvict s5 u v.again)
    else .next s

end Sys2Proof.Machine
end

