-- ==== Sys2Proof/Machine/Receipt.lean ====
section
/-! DEFINITION. The receipt units' own events (R179, R182). -/

namespace Sys2Proof.Machine

/-- The first element that `p` picks, and the list without it. -/
def takeFirst {α : Type} (p : α → Bool) : List α → Option (α × List α)
  | [] => none
  | x :: t => if p x then some (x, t) else (takeFirst p t).map fun r => (r.1, x :: r.2)

/-- Up to `n` elements that `p` picks, and the list without them. -/
def takeUpTo {α : Type} (p : α → Bool) : Nat → List α → List α × List α
  | 0, l => ([], l)
  | _, [] => ([], [])
  | n + 1, x :: t =>
    if p x then let r := takeUpTo p n t; (x :: r.1, r.2) else let r := takeUpTo p (n + 1) t; (r.1, x :: r.2)

/-- RECEIPT_ADD_APPLIED (R179): the oldest `n` adds on their way to receipt `r`, or as many as there are, reach its unit in one hub
cycle and are applied once, as their sum. While a rollback's restore is awaited or runs, they are discarded (R476). -/
def execReceiptAddApplied (r : BitVec 14) (n : Nat) (s : State) : Res :=
  let x := takeUpTo (fun a => a.1 == r) n s.rcpt.adds
  let s1 := modRcpt s fun y => { y with adds := x.2 }
  .next (if s.run.rolling.isSome || x.1.isEmpty then s1 else applyAdds s1 r (x.1.map fun a => a.2))

/-- COUNT_UPDATE (R182): the oldest count that receipt `r`'s unit has sent to subscriber `sub` becomes its copy. A unit's counts are
applied in the order sent, so nothing happens while that count is another receipt's. A guest die's counts arrive there on CTL (R248). -/
def execCountUpdate (sub : Fin 36) (r : BitVec 14) (s : State) : Res :=
  match takeFirst (fun a => a.1 == sub && a.2.1.toNat / 4096 == r.toNat / 4096) s.rcpt.sends with
  | none => .next s
  | some (a, rest) =>
    whenever (a.2.1 == r) s
      (let t := modRcpt s fun x => { x with sends := rest, copy := tput 0 x.copy (sub.val * 16384 + r.toNat) a.2.2 }
       if sub.val < 32 && isGuestDie s sub.val then send t (.guestCount (BitVec.ofNat 5 sub.val) r a.2.2) else t)

end Sys2Proof.Machine
end

