-- ==== Sys2Proof/Machine/Records.lean ====
section
/-! DEFINITION. Records released and delivered, and the interrupts of the rings (R47, R362, R363). -/

namespace Sys2Proof.Machine

/-- RECORD_RELEASE (R47, R361, R362): the first record in architectural order is released when its settling window has
passed. -/
def execRecordRelease (s : State) : Res :=
  match firstRec s.paths.posted with
  | some r => whenever (settled s r) s (releaseRec s r)
  | none => .next s

/-- RECORD_DELIVERY (R362): a held record of ring `c` is written into a slot that is free. -/
def execRecordDelivery (c : Fin 64) (s : State) : Res :=
  whenever ((doorOf s c.val).evEn && decide (0 < ringFree (doorOf s c.val))) s (deliverHeld s c)

/-- INTERRUPT_GAP_EXPIRY (R363): a delivery inside the gap is signalled when the gap ends. -/
def execInterruptGapExpiry (c : Fin 64) (s : State) : Res :=
  let d := doorOf s c.val
  whenever (d.irqWait && d.irqEn && (match d.lastIrq with | some t => decide (t + d.irqGap.toNat * 1000 ≤ s.ns) | none => true)) s
    (send (modDoor s c.val fun d => { d with lastIrq := some s.ns, irqWait := false }) (.irq d.evPort c.val))

end Sys2Proof.Machine
end

