-- ==== Sys2Proof/Machine/Release.lean ====
section
/-! DEFINITION. The release units (R36 to R42): one command per action, each firing the next entry of an umbel's table. -/

namespace Sys2Proof.Machine

/-- Releases fire in umbel `u`'s table (R31, R34, R42, R206): the schedule runs, no rollback awaits its restore, the
timebase is Locked or in Holdover, and the unit's clock domain is powered and its counter loaded. -/
def releasesOn (s : State) (u : Nat) : Bool :=
  s.sched = .running && s.run.rolling.isNone && (s.tb.st = .locked || s.tb.st = .holdover) &&
    umUsed (umbelOf s u) && domReady s (relDom s (umbelOf s u))

/-- Entry `r`, the next of umbel `u`, is due (R40): its postmark and its receipt are reached. -/
def relDue (s : State) (u : Nat) (r : BitVec 256) : Bool :=
  pmReached (clock s (relDom s (umbelOf s u))) (relPm s u r) && relMet s u r

/-- The table moves past the entry that fires. -/
def relNext (n : Nat) (x : Rel) : Rel :=
  if x.idx + 1 < n then { x with idx := x.idx + 1, stalled := x.stalled - 1 }
  else { x with idx := 0, step := x.step + 1, stalled := x.stalled - 1 }

/-- The slip of a firing at `now` (R41). -/
def relSlip (ticks : Nat) (x : Rel) : Rel :=
  if ticks = 0 then x
  else { x with slipCount := satInc x.slipCount, slipTicks := satAdd x.slipTicks ticks,
                slipMax := if x.slipMax.toNat < ticks then BitVec.ofNat 24 (min ticks (2 ^ 24 - 1)) else x.slipMax }

/-- What every firing does beside its action: the table moves on, the slip is counted and reported, the trace source
counts (R41, R414). -/
def relFired (s : State) (u : Nat) (r : BitVec 256) : State :=
  let e := umbelOf s u
  let now := clock s (relDom s e)
  let pm := relPm s u r
  let ticks := pmTicks pm now
  let s1 := modRel s u fun x => relSlip ticks (relNext (umRelCount e).toNat x)
  let own := some (ownerOf s (BitVec.ofNat 16 u))
  let s2 := if (latSlipTicks (latitude s)).toNat < ticks then
      post s1 (relSrc s e) now evSchedSlip own eOk [(64, pm.toNat), (16, u)]
    else s1
  trace s2 (relSrc s e) now evTraceRelease own [(32, (relOf s u).idx), (16, u)]

/-- The next entry of umbel `u` fires when it carries action `act`, is due, and `also` holds; `f` is its action, with the
entry, its step and its scheduled postmark. -/
def fireNext (s : State) (u : BitVec 16) (act : BitVec 8) (also : BitVec 256 → Bool)
    (f : State → BitVec 256 → BitVec 40 → Pm → State) : Res :=
  match nextRel s u.toNat with
  | none => .next s
  | some r =>
    whenever (releasesOn s u.toNat && relAction r == act && relDue s u.toNat r && also r) s
      (f (relFired s u.toNat r) r (relOf s u.toNat).step (relPm s u.toNat r))

/-- A verification stream starts between a BUDDY restore and the resume (R117, R334): the stream of the entry at which the umbel's
table stands, which it does not leave. R334 names no command that starts one; a STREAM_START is the one that starts streams
(DEDUCED, LOG 83). -/
def verifyStart (u : BitVec 16) (s : State) : Res :=
  match nextRel s u.toNat with
  | none => .next s
  | some r =>
    whenever (umUsed (umbelOf s u.toNat) && domReady s (relDom s (umbelOf s u.toNat)) && relAction r == 1) s
      (fireStart s (fld (relObject r) 0 16) (fld (relArg r) 0 11) (relOf s u.toNat).step (clock s (relDom s (umbelOf s u.toNat))))

/-- STREAM_START (R38, R51, R371): every core of the umbel `object` is handed the start address. -/
def execStreamStart (u : BitVec 16) (s : State) : Res :=
  if s.run.verify ∧ s.sched = .stopped then verifyStart u s
  else fireNext s u 1 (fun _ => true) fun t r k _ =>
    fireStart t (fld (relObject r) 0 16) (fld (relArg r) 0 11) k (clock s (relDom s (umbelOf s u.toNat)))

/-- CONSIGN (R38, R146): the consignment `object` is booked, or its firing is remembered or lost. -/
def execConsign (u : BitVec 16) (s : State) : Res :=
  fireNext s u 2 (fun _ => true) fun t r k _ =>
    fireCons t (fld (relObject r) 0 20).toNat (clock s (relDom s (umbelOf s u.toNat))) u k

/-- The image's entry for collective `id`. -/
def collEntry (s : State) (id : BitVec 32) : Option (BitVec 512) :=
  match s.run.image with | some im => im.colls.find? fun e => coId e == id | none => none

/-- COLL_START (R38, R297, R321): the collective `object` is armed at its station hub. -/
def execCollStart (u : BitVec 16) (s : State) : Res :=
  fireNext s u 3 (fun _ => true) fun t r _ pm =>
    match collEntry t (relObject r) with
    | some e => armColl (warnWrite t e) (coHub e).toNat e (pmBeat pm) none
    | none => t

/-- The outbox of the first core of umbel `object` has a free entry, or the release faults before it needs one (R165). -/
def envRoom (s : State) (r : BitVec 256) : Bool :=
  let c := umFirst (umbelOf s (relObject r).toNat)
  (freeEntry (portOf s c)).isSome || (tget none (portOf s c).slots (fld (relArg r) 0 4).toNat).isNone

/-- ENV_RELEASE (R38, R164, R165): slot `argument` of the first core of umbel `object` is sent. -/
def execEnvRelease (u : BitVec 16) (s : State) : Res :=
  fireNext s u 4 (envRoom s) fun t r _ _ =>
    let c := umFirst (umbelOf t (relObject r).toNat)
    match tget none (portOf t c).slots (fld (relArg r) 0 4).toNat with
    | none => coreFault t c eState
    | some a =>
      match sendFault t c a.toNat with
      | some e => coreFault t c e
      | none => match freeEntry (portOf t c) with | some i => sendEnv t c i a | none => t

/-- RECEIPT_ADD (R38, R179): `argument` is added to receipt `object`. -/
def execReceiptAdd (u : BitVec 16) (s : State) : Res :=
  fireNext s u 5 (fun _ => true) fun t r _ _ =>
    addReceipt t (fld (relObject r) 0 14) (fld (relArg r) 0 32) (relSrc s (umbelOf s u.toNat))

/-- COMMIT (R38, R202, R207): the round of the step it commits opens, and the member votes when it is ready. -/
def execCommit (u : BitVec 16) (s : State) : Res :=
  fireNext s u 6 (fun _ => true) fun t _ k pm => fireCommit t pm k

/-- CKPT_CUT (R38, R321, R324): a cut that is due is taken, every earlier step having settled. -/
def execCkptCut (u : BitVec 16) (s : State) : Res :=
  fireNext s u 7 (fun _ => decide ((relOf s u.toNat).step.toNat ≤ s.run.settled.toNat)) fun t _ k _ => fireCut t k

/-- STEP_END (R38, R39, R208): the step boundary, once the step that must settle before it has settled. -/
def execStepEnd (u : BitVec 16) (s : State) : Res :=
  fireNext s u 8 (fun _ => boundaryDue s (relOf s u.toNat).step) fun t _ k _ => boundary t k

/-- The postmark of the entry `n` places after the next one of umbel `u`, over the ends of its steps (R37, R40). -/
def laterPm (s : State) (u n : Nat) : Option Pm :=
  let l := relEntries s u
  let x := relOf s u
  l[(x.idx + n) % l.length]?.map fun r => stepBase s (x.step + BitVec.ofNat 40 ((x.idx + n) / l.length)) + relOffset r

/-- SCHED_STALL (R41): an entry of the umbel has waited `stall_beats` beats past its postmark, on its own conditions or on the
entries before it; the alarm is posted once for it, and it goes on waiting. Entries post in their table order. -/
def execSchedStall (u : BitVec 16) (s : State) : Res :=
  match laterPm s u.toNat (relOf s u.toNat).stalled with
  | none => .next s
  | some pm =>
    let b := (latStallBeats (latitude s)).toNat
    let e := umbelOf s u.toNat
    let now := clock s (relDom s e)
    whenever (releasesOn s u.toNat && b != 0 && pmReached now (pm + BitVec.ofNat 64 (b * 2 ^ 24))) s
      (post (modRel s u.toNat fun x => { x with stalled := x.stalled + 1 }) (relSrc s e) now evSchedStall (some (ownerOf s u)) eOk [])

end Sys2Proof.Machine
end

