-- ==== Sys2Proof/Machine/Timebase.lean ====
section
/-! DEFINITION. The commands of the timebase and its courier lanes (R28 to R33, R276 to R278). A frame that fails its CRC is discarded
(R275). -/

namespace Sys2Proof.Machine

/-- TIMING (R28, R278): a lane that is lost delivers none until it is retrained. -/
def execTiming (l : Fin 12) (crcOk : Bool) (root : BitVec 15) (period : BitVec 26) (pm : Pm) (s : State) : Res :=
  whenever (laneUp s && crcOk && !(linkOf s l.val).lane.lost) s (timingArrives s l.val root period pm)

/-- TIMING_FRAME_SEND (R28): every 2 us the root sends a timing frame on each lane. -/
def execTimingFrameSend (s : State) : Res :=
  whenever (powered s && tbRoot s && (match s.tb.sentNs with | some t => decide (t + 2000 ≤ s.ns) | none => true)) s
    (sendTiming (modTb s fun t => { t with sentNs := some s.ns }) s.place.addr s.tb.beatPeriod s.tb.now)

/-- PROBE_SEND (R29): each millisecond a follower probes its upstream. -/
def execProbeSend (s : State) : Res :=
  whenever (powered s && s.tb.role == 0 && s.tb.source != 0xF &&
      (match s.tb.probeNs with | some t => decide (t + 1000000 ≤ s.ns) | none => true)) s
    (queueFrame (modTb s fun t => { t with probeT1 := some (clock s (domCourier s.tb.source.toNat)), probeNs := some s.ns })
      s.tb.source.toNat (0x02, (clock s (domCourier s.tb.source.toNat)).setWidth 224))

/-- PROBE (R29): answered with its arrival and the reply's own time. -/
def execProbe (l : Fin 12) (crcOk : Bool) (t1 : Pm) (s : State) : Res :=
  let t := clock s (domCourier l.val)
  whenever (laneUp s && crcOk) s (queueFrame s l.val (0x03, (0 : BitVec 32) ++ t1 ++ t ++ t))

/-- PROBE_REPLY (R29): the follower's one-way delay. -/
def execProbeReply (l : Fin 12) (crcOk : Bool) (t1 t2 t3 : Pm) (s : State) : Res :=
  whenever (laneUp s && crcOk && s.tb.role == 0 && s.tb.source == BitVec.ofNat 4 l.val && s.tb.probeT1 == some t1) s
    (takeDelay s (probeDelay s t1 t2 t3 (clock s (domCourier l.val))))

/-- STOP (R277, R359). -/
def execStop (l : Fin 12) (crcOk : Bool) (origin : BitVec 15) (count : BitVec 16) (pm : Pm) (scope : BitVec 2) (s : State) : Res :=
  whenever (laneUp s && crcOk) s (stopArrives s l.val true origin count pm scope.toNat)

/-- QUIESCE (R277, R359). -/
def execQuiesce (l : Fin 12) (crcOk : Bool) (origin : BitVec 15) (count : BitVec 16) (pm : Pm) (scope : BitVec 2) (s : State) : Res :=
  whenever (laneUp s && crcOk) s (stopArrives s l.val false origin count pm scope.toNat)

/-- A record of another package: the timing root delivers it to Shordo and the rings, and every other package forwards it
(R412, R413). -/
def foreignRec (s : State) (r : Rec) : State :=
  if tbRoot s then toShordo (toRings s r) r
  else match r.cls with
    | .alarm => forwardAlarm s r
    | _ => forwardOther s r

/-- A frame of a record arrives on lane `l` (R411): with the third part the record is whole, and `f` takes it. -/
def recordFrame (s : State) (l : Nat) (ctype : BitVec 8) (body : BitVec 224) (f : State → Rec → State) : State :=
  let x := takePart (linkOf s l).lane ctype body
  let s1 := modLink s l fun k => { k with lane := x.1 }
  match x.2 with
  | some b => f s1 (recFrom b)
  | none => s1

/-- ALARM (R276, R411, R413): part 3 acknowledges an alarm that this lane sent; a whole record is acknowledged to the lane it came on,
then forwarded or delivered. -/
def execAlarm (l : Fin 12) (crcOk : Bool) (body : BitVec 224) (s : State) : Res :=
  whenever (laneUp s && crcOk) s
    (if (fld body 0 2 : BitVec 2) = 3 then alarmAcked s l.val (fld body 17 15) (fld body 2 15)
     else recordFrame s l.val 0x20 body fun s r =>
       if r.cls = .alarm then foreignRec (queueFrame s l.val (ackFrame (fld body 17 15) (fld body 2 15))) r else s)

/-- LOG (R411, R412). -/
def execLog (l : Fin 12) (crcOk : Bool) (body : BitVec 224) (s : State) : Res :=
  whenever (laneUp s && crcOk) s (recordFrame s l.val 0x40 body fun s r => if r.cls = .log then foreignRec s r else s)

/-- TRACE (R411, R412). -/
def execTrace (l : Fin 12) (crcOk : Bool) (body : BitVec 224) (s : State) : Res :=
  whenever (laneUp s && crcOk) s (recordFrame s l.val 0x41 body fun s r => if r.cls = .trace then foreignRec s r else s)

/-- COURIER_LOST (R278, R31): 8 us without a good timing frame; a follower whose time came by the lane switches its source. -/
def execCourierLost (l : Fin 12) (s : State) : Res :=
  let k := linkOf s l.val
  whenever (k.courier && decide (k.lastTiming + 8000 ≤ s.ns)) s
    (let pm := clock s (domCourier l.val)
     let s1 := post (modLink s l.val fun k => { k with courier := false, lane := { k.lane with lost := true } }) (courierSrc s l.val) pm evLinkCourierDown none eLinkDown []
     if s.tb.role = 0 ∧ s.tb.source = BitVec.ofNat 4 l.val then switchSource s1 l.val else s1)

/-- CORRECTION_PULSE (R33): a tick whose number is a multiple of M has come since the last pulse. -/
def execCorrectionPulse (s : State) : Res :=
  whenever (s.tb.hasCount && (pmLt s.tb.lastPulse (pulsePm s) || s.tb.lastPulse == 0)) s (pulse s)

/-- TB_LOCK (R31, R27). -/
def execTbLock (s : State) : Res := whenever (canLock s) s (lock s)

/-- TB_IN_LOSS (R31): TB_IN fails at the root. -/
def execTbInLoss (s : State) : Res :=
  whenever s.tb.tbInOk s
    (let s1 := modTb s fun t => { t with tbInOk := false }
     if s.tb.role = 2 then loseSource s1 else s1)

/-- TB_IN_RETURN (R31): TB_IN becomes valid; a root that takes it as its source acquires it. -/
def execTbInReturn (s : State) : Res :=
  whenever (!s.tb.tbInOk) s
    (let s1 := modTb s fun t => { t with tbInOk := true }
     if s.tb.role = 2 then sourceReturns s1 else s1)

/-- HOLDOVER_EXPIRY (R31): the Holdover has outlasted the image's `holdover_beats`; the package quiesces at the next step
boundary. -/
def execHoldoverExpiry (s : State) : Res :=
  whenever (s.tb.st = .holdover && !s.tb.lost && imageRuns s &&
      decide ((latHoldover (latitude s)).toNat * 2 ^ 24 < (s.tb.now - s.tb.holdSince).toNat)) s
    (post (modTb s fun t => { t with lost := true }) (tbSrc s) s.tb.now evTbLost none eTimeout [])

end Sys2Proof.Machine
end

