-- ==== Sys2Proof/Machine/Update.lean ====
section
/-! DEFINITION. The update engines' commands (R188 to R194): an entry's start and end, and one command per opcode. -/

namespace Sys2Proof.Machine

/-- UPDATE_ENTRY_START (R188): the hub's next entry starts when its receipt has reached its target. -/
def execUpdateEntryStart (h : Fin 4) (s : State) : Res :=
  let u := updOf s h.val
  match (hubEntries s h.val)[updDone s u]? with
  | some (i, e) =>
    whenever (schedRuns s && !u.busy &&
        rcReached (copyOf s (32 + h.val) (ueGo e)) (rcTarget s (ueGo e) (ueGoTarget e) s.run.step)) s
      (let u0 : UpdEng := { u with busy := true, step := s.run.step, exp := s.commit.forceExp, done := updDone s u, entry := i, ended := false, wbuf := [],
                                   faulted := if u.step = s.run.step then u.faulted else [] }
       modUpd s h.val fun _ => atBlock s u0 0)
  | none => .next s

/-- UPDATE_ENTRY_DONE (R188): the last write of the entry has been made. -/
def execUpdateEntryDone (h : Fin 4) (s : State) : Res :=
  let u := updOf s h.val
  whenever (schedRuns s && u.busy && u.ended) s
    (addReceipt (modUpd s h.val fun u => { u with busy := false, done := u.done + 1 }) (ueDone (updEntry s u.entry)) 1
      (updSrc s h.val))

/-- END (R190). -/
def execUpEnd (h : Fin 4) (s : State) : Res := upStep s h 0x00 fun u _ => modUpd s h.val fun _ => afterEnd s u

/-- LD (R190, R193, R195, R196): array 0 is the gradient, whose access may fail and whose non-finite values count.
`ecc` is what the codes met (R213). -/
def execUpLd (h : Fin 4) (ecc : EccAt) (s0 : State) : Res :=
  upMem s0 h 0x01 ecc fun s u w =>
    let e := updEntry s u.entry
    let i := (fld (uiImm w) 0 3).toNat
    if i = 0 then
      let a := (ueGrad e).toNat + 4 * u.elem
      match accessFault s (ctxKey s (imgOwner s)) a 4 true false with
      | some err => updFault s h.val err
      | none =>
        let v := read32 (updFtz s) (leWord 32 (pkgRead s a 4))
        let s1 := if v.1.isFin then s else setOvf (countGradNf s (ueStage e).toNat u.step) u.step
        upPut s1 h u w [] (BitVec.ofNat 32 (codeOf fFP32 v.1)) v.2
    else if noArray i then upPut { s with free := s.free + 1 } h u w [] (fld (Config.freeWord s.free) 0 32) 0
    else match elemFault s u i false with
      | some err => updFault s h.val err
      | none =>
        let v := loadElem s u i
        let r := round32 (updFtz s) v.1
        upPut s h u w [] (BitVec.ofNat 32 r.code) (v.2 ||| r.fl)

/-- The rounding that a ST asks for (R96, R190). -/
def stRandom (s : State) (u : UpdEng) (w : BitVec 32) : Option (BitVec 32) :=
  if bit (uiImm w) 4 then some (updRandom s u (fld (uiImm w) 5 2).toNat) else none

/-- ST to an E4M3 working array (R191): the value waits until the same word has stored every element of its block of 32, which is
then written whole with its scale. -/
def stBlock (s : State) (h : Fin 4) (u : UpdEng) (w : BitVec 32) (v : BitVec 32) : State :=
  let e := updEntry s u.entry
  let buf := tput (0, none) u.wbuf (u.pcw * 32 + u.elem % 32) (v, stRandom s u w)
  let u1 := { u with wbuf := buf, pcw := u.pcw + 1 }
  if u.elem % 32 ≠ 31 then modUpd s h.val fun _ => u1
  else
    let ftz := updFtz s
    let x := (tgets (0, none) buf (u.pcw * 32) 32).map fun y =>
      (read32 ftz y.1, match y.2 with | some n => RMode.random n | none => RMode.nearest)
    let r := convBlock ftz (x.map fun y => (y.1.1, y.2))
    let cs := List.zipWith (fun (y : (Val × BitVec 8) × RMode) c => fromRead y.1.2 c) x r.2.1
    let s1 := modUpd s h.val fun _ => { u1 with wbuf := buf.filter fun y => y.1 / 32 != u.pcw }
    let t := updWrite s1 h.val [(elemOff (arrayOf e 1) (u.elem - 31), cs.map fun c => BitVec.ofNat 8 c.code),
                                (scaleOff e u.elem, [r.1])]
    if t.2 then setFlags (countEff t.1 (ueStage e).toNat u.step (convsEff 4 cs)) (imgOwner s)
      (x.foldl (fun a y => a ||| y.1.2) (r.2.2 ||| (convsEff 4 cs).fl))
    else t.1

/-- ST (R190, R191, R193); `ecc` is what the codes met (R213). -/
def execUpSt (h : Fin 4) (ecc : EccAt) (s0 : State) : Res :=
  upMem s0 h 0x02 ecc fun s u w =>
    let e := updEntry s u.entry
    let i := (fld (uiImm w) 0 3).toNat
    let a := arrayOf e i
    let s0 := if readsFree u [uiA w] then { s with free := s.free + 2 } else s
    if noArray i then modUpd s0 h.val fun _ => { u with pcw := u.pcw + 1 }
    else match elemFault s0 u i true with
      | some err => updFault s0 h.val err
      | none =>
        if i = 1 ∧ a.2 = 4 then stBlock s0 h u w (updOperand s u (uiA w))
        else
          let v := updVal s u (uiA w)
          let r := fromRead v.2
            (convElem a.2 (match stRandom s u w with | some n => .random n | none => .nearest) (bit (uiImm w) 3) (updFtz s) v.1)
          let s1 := modUpd s0 h.val fun _ => { u with pcw := u.pcw + 1 }
          let t := updWrite s1 h.val [(elemOff a u.elem, natBytes (fmtBits a.2 / 8) r.code)]
          if t.2 then setFlags (countEff t.1 (ueStage e).toNat u.step (r.eff a.2)) (imgOwner s) (v.2 ||| r.fl) else t.1

/-- ADD (R190). -/
def execUpAdd (h : Fin 4) (s : State) : Res := upBin s h 0x03 fun z a b => round32 z (addVal a b)

/-- SUB (R190). -/
def execUpSub (h : Fin 4) (s : State) : Res := upBin s h 0x04 fun z a b => round32 z (addVal a b.neg)

/-- MUL (R190). -/
def execUpMul (h : Fin 4) (s : State) : Res := upBin s h 0x05 fun z a b => round32 z (mulVal a b)

/-- FMA (R190): one rounding. -/
def execUpFma (h : Fin 4) (s : State) : Res :=
  upStep s h 0x06 fun u w =>
    let a := updVal s u (uiA w)
    let b := updVal s u (uiB w)
    let c := updVal s u (uiC w)
    let r := round32 (updFtz s) (addVal (mulVal a.1 b.1) c.1)
    upPut s h u w [uiA w, uiB w, uiC w] (BitVec.ofNat 32 r.code) (a.2 ||| b.2 ||| c.2 ||| r.fl)

/-- DIV (R190, R191). -/
def execUpDiv (h : Fin 4) (s : State) : Res := upBin s h 0x07 divVal

/-- SQRT (R190, R191). -/
def execUpSqrt (h : Fin 4) (s : State) : Res := upUn s h 0x08 sqrtVal

/-- MAX (R190). -/
def execUpMax (h : Fin 4) (s : State) : Res := upBin s h 0x09 fun z a b => round32 z (maxVal a b)

/-- MIN (R190). -/
def execUpMin (h : Fin 4) (s : State) : Res := upBin s h 0x0A fun z a b => round32 z (minVal a b)

/-- ABS (R190). -/
def execUpAbs (h : Fin 4) (s : State) : Res := upUn s h 0x0B fun z a => round32 z a.abs

/-- POWS (R190, R191). -/
def execUpPows (h : Fin 4) (s : State) : Res :=
  upStep s h 0x0C fun u w =>
    let a := updVal s u (uiA w)
    let r := pows (updFtz s) a.1 (u.step.toNat + 1)
    upPut s h u w [uiA w] (BitVec.ofNat 32 (codeOf fFP32 r.1)) (a.2 ||| r.2)

/-- RAND (R190, R194). -/
def execUpRand (h : Fin 4) (s : State) : Res :=
  upStep s h 0x0D fun u w =>
    let r := round32 (updFtz s) (.fin false (updRandom s u (fld (uiImm w) 0 2).toNat).toNat (-32))
    upPut s h u w [] (BitVec.ofNat 32 r.code) r.fl

/-- BSUM (R190, R192). -/
def execUpBsum (h : Fin 4) (s : State) : Res := upBlk s h 0x0E true

/-- BMAX (R190, R192). -/
def execUpBmax (h : Fin 4) (s : State) : Res := upBlk s h 0x0F false

/-- BAR (R190, R192). -/
def execUpBar (h : Fin 4) (s : State) : Res := upStep s h 0x10 fun u _ =>
  let r := afterBar s u
  modUpd (setFlags s (imgOwner s) r.2) h.val fun _ => r.1

end Sys2Proof.Machine
end

