-- ==== Sys2Proof/Machine/Vxe.lean ====
section
/-! DEFINITION. The vector and matrix-vector engine (R68 to R70, R111). The spec gives VLDX, MV.ST and the vector
instructions no word layout: their commands carry their operands (LOG 6). A VXE instruction completes as it issues
(LOG 7). -/

namespace Sys2Proof.Machine

/-! ### x-buffer -/

/-- Elements in `n` bytes of a format: packed Q4X groups of 44 bytes hold 64 (R86), and a row padded to whole spans holds as many
whole groups as fit in it (DEDUCED from R68, LOG 87). -/
def elemsIn (f n : Nat) : Nat := if f = 9 then 64 * (n / 44) else n * 8 / fmtBits f

/-- x-scale bytes per 128 B of a format (R68). -/
def xscPer (f : Nat) : Nat := if fmtClass f = 4 then 8 else 4

/-- VLDX (R68): `len` + 1 bytes into the x-buffer at `xOff` * 128, and the block scales under `mxs`. -/
def execVldx (c : CoreId) (fmt : BitVec 4) (mxs : Bool) (src : BitVec 17) (len : BitVec 14) (sAddr : BitVec 17)
    (xOff : BitVec 7) (s : State) : Res :=
  issue s c [] fun k =>
    let f := fmt.toNat
    let n := len.toNat + 1
    let nb := (elemsIn f n + 31) / 32
    let xs := xOff.toNat * xscPer f
    if fmtClass f == 0 || (mxs && [0, 6, 7, 9].contains f) then coreFault (setCore s c k) c eFormat
    else if spSize < src.toNat + n || 16384 < xOff.toNat * 128 + n ||
        (mxs && (spSize < sAddr.toNat + nb || 1024 < xs + nb)) then coreFault (setCore s c k) c eRange
    else
      let k1 := { k with xbuf := tputs 0 k.xbuf (xOff.toNat * 128) (spRead s c src.toNat n) }
      done s c (if mxs then { k1 with xsc := tputs 0 k1.xsc xs (spRead s c sAddr.toNat nb) } else k1)

/-! ### MV -/

/-- The values of a packed Q4X row of `g` groups (R86, R87), each with its flags, and the flags of the headers. -/
def q4Row (ftz : Bool) (g : Nat) (l : List Byte) : List (Val × BitVec 8) × BitVec 8 :=
  (List.range g).foldl (fun (x : List (Val × BitVec 8) × BitVec 8) i =>
    let b := (l.drop (44 * i)).take 44
    let h := q4Hdr ftz (b.take 12)
    (x.1 ++ q4Codes h 0 ((List.range 64).map (codeAt 9 (b.drop 12))), x.2 ||| h.fl)) ([], 0)

/-- The values of `n` elements of a row as they are read, each with its own flags; with one scale byte for each 32 under `mxs`. The
second part holds every flag. -/
def mvRow (f : Nat) (mxs ftz : Bool) (n : Nat) (l sc : List Byte) : List (Val × BitVec 8) × BitVec 8 :=
  if f = 9 then let r := q4Row ftz (n / 64) l; (r.1, r.2 ||| flagsOf r.1)
  else
    let vs := (List.range n).map fun i => readElem f mxs ftz (codeAt f l i)
    if mxs then
      ((List.range n).map (fun i => let v := vs.getD i (.nan, 0); (scaled (sc.getD (i / 32) 0) v.1, v.2)),
        flagsOf vs ||| (if (sc.take ((n + 31) / 32)).any (· == 0xFF) then fMxNan else 0))
    else (vs, flagsOf vs)

/-- A list cut into runs of `k`, `n` of them. -/
def runsOf {α : Type} (k : Nat) : Nat → List α → List (List α)
  | 0, _ => []
  | n + 1, l => l.take k :: runsOf k n (l.drop k)

/-- The y-buffer while an MV runs. -/
structure MvSt where
  ents : List (BitVec 64)
  rep  : Nat
  ovf  : Bool
  eff  : Eff
  deriving DecidableEq, Repr

/-- One row's K-groups added into its entry in ascending order; with `last` an overflowing step saturates (R109). -/
def mvChain (m : AccMode) (rep : Nat) (last : Bool) : BitVec 64 → List (List Val) → Eff → Bool × BitVec 64 × Eff
  | e, [], f => (false, e, f)
  | e, p :: t, f =>
    let r := addGroup m rep e p
    let f1 := f.and ⟨r.fl, if r.wrapped then [m.ifmt] else [], []⟩
    if r.big then
      if last then
        let q := mvChain m rep last r.cap t (f1.and ⟨0, [if m.int then m.ifmt else 8], []⟩)
        (true, q.2)
      else (true, e, f1)
    else mvChain m rep last r.ent t f1

/-- Row `i` (R111): an overflow scales every entry and recomputes the row, at most until 3 repeats. -/
def mvRowStep (m : AccMode) (i : Nat) (groups : List (List Val)) : Nat → MvSt → MvSt
  | 0, st =>
    let r := mvChain m st.rep true (st.ents.getD i 0) groups Eff.none
    { st with ents := st.ents.set i r.2.1, ovf := st.ovf || r.1, eff := st.eff.and r.2.2 }
  | n + 1, st =>
    let r := mvChain m st.rep false (st.ents.getD i 0) groups Eff.none
    if r.1 then
      let sc := st.ents.map (rescaleEnt m)
      mvRowStep m i groups n { st with ents := sc.map Prod.fst, rep := st.rep + 1,
                                       eff := st.eff.and (Eff.flags (sc.foldl (fun a x => a ||| x.2) r.2.2.fl)) }
    else { st with ents := st.ents.set i r.2.1, eff := st.eff.and r.2.2 }

/-- The first fault of an MV (R55, R59, R66, R68, R106). The y-buffer's tag has the layout of R66, and an MV that adds into
entries of another kind, or of the other arithmetic, faults as an MMA does that adds into such a set (DEDUCED from R68 and R69,
LOG 87). -/
def mvFault (k : Core) (w : W56) : Option Err :=
  let fw := (mvFmtW w).toNat
  let fx := (mvFmtX w).toNat
  let rows := (mvRows w).toNat + 1
  let span := ((mvSpans w).toNat + 1) * 128
  let n := elemsIn fw span
  let kind := tagKind k.ytag
  let want : BitVec 2 := if intValued fw (mvMxs w) then 2 else 1
  if !mvRsv w then some eReserved
  else if pairFault fw fx (mvMxs w) false || (!mvZero w && kind != 0 && kind != want) then some eFormat
  else if spSize < (mvWTile w).toNat * 128 + rows * span ||
      16384 < (mvXOff w).toNat * 128 + (if fx = 9 then n / 64 * 44 else fmtBytes fx n) ||
      (mvMxs w && spSize < (mvSAddr w).toNat * 16 + rows * (n / 32)) then some eRange
  else if !mvZero w && kind != 0 && tagAudit k.ytag != auditOf k then some eMode
  else none

/-- MV (R68, R69, R111): y[i] += W[i] . x, K-group by K-group in ascending order. Its word has no `sat` bit, so integer
accumulation wraps, as an MMA's with `sat` = 0 (DEDUCED, LOG 87). -/
def execMv (c : CoreId) (w : W56) (s : State) : Res :=
  issue s c [] fun k =>
    match mvFault k w with
    | some e => coreFault (setCore s c k) c e
    | none =>
      let fw := (mvFmtW w).toNat
      let fx := (mvFmtX w).toNat
      let ftz := coreFtz s c
      let rows := (mvRows w).toNat + 1
      let span := ((mvSpans w).toNat + 1) * 128
      let n := elemsIn fw span
      let m : AccMode := ⟨intValued fw (mvMxs w), false, auditOf k, ftz, fw⟩
      let x := mvRow fx (mvMxs w) ftz n
        (tgets 0 k.xbuf ((mvXOff w).toNat * 128) (if fx = 9 then n / 64 * 44 else fmtBytes fx n))
        (tgets 0 k.xsc ((mvXOff w).toNat * xscPer fx) (n / 32))
      let old := if mvZero w then 0 else k.ytag
      let rep := (tagRepeats old).toNat
      let st0 : MvSt := ⟨if mvZero w then List.replicate rows 0 else tgets 0 k.ybuf 0 rows, rep, false,
        Eff.flags x.2⟩
      let st := (List.range rows).foldl (fun st i =>
        let r := mvRow fw (mvMxs w) ftz n (spRead s c ((mvWTile w).toNat * 128 + i * span) span)
          (spRead s c ((mvSAddr w).toNat * 16 + i * (n / 32)) (n / 32))
        mvRowStep m i (runsOf (kDepth fw) (n / kDepth fw) (products (r.1.map Prod.fst) (x.1.map Prod.fst))) (3 - st.rep)
          { st with eff := st.eff.and (Eff.flags r.2) }) st0
      let tag := mkTag (if m.int then 2 else 1) st.rep (st.ovf || tagOvf old) m.audit
      let s1 := coreEff (done s c { k with ybuf := tputs 0 k.ybuf 0 st.ents, ytag := tag }) c st.eff
      if st.ovf && !tagOvf old then
        post { s1 with free := s1.free + 1 } (srcCore s c) (coreClock s c) evMxaAccOvf (some (coreCtx s c))
          eAccOvf [(16, k.pc.toNat), (8, eAccOvf.toNat), (8, (Config.freeWord s1.free).toNat)]
      else s1

/-- Codes written to a row that may end inside a storage unit: the unit's other elements keep their codes (R82). -/
def padCodes (f : Nat) (old : List Byte) (l : List Nat) : List Nat :=
  let u := if f = 3 then 16 else if fmtBits f = 4 then 2 else 1
  l ++ ((List.range ((l.length + u - 1) / u * u)).drop l.length).map (codeAt f old)

/-- MV.ST (R68, R107): y entries 0 to `rows` converted and written densely from `dst`. -/
def execMvSt (c : CoreId) (fmt : BitVec 4) (sat : Bool) (rows : BitVec 8) (dst : BitVec 17) (s : State) : Res :=
  issue s c [] fun k =>
    let f := fmt.toNat
    let n := rows.toNat + 1
    let u := if f = 3 then 16 else if fmtBits f = 4 then 2 else 1
    let bytes := fmtBytes f ((n + u - 1) / u * u)
    if 9 ≤ f then coreFault (setCore s c k) c eFormat
    else if spSize < dst.toNat + bytes then coreFault (setCore s c k) c eRange
    else
      let ftz := coreFtz s c
      let vs := (tgets 0 k.ybuf 0 n).map fun e =>
        if tagKind k.ytag == 2 then (Val.ofInt (fld e 32 32).toInt 0, (0 : BitVec 8))
        else let v := entryValue ftz (fld e 32 32) (fld e 0 32); (v.val, v.fl)
      let cs := vs.map fun v => convElem f .nearest sat ftz v.1
      coreEff (done (spWrite s c dst.toNat
          (storeCodes f (padCodes f (spRead s c dst.toNat bytes) (cs.map (·.code))))) c k) c
        ((Eff.flags (vs.foldl (fun a v => a ||| v.2) 0)).and (convsEff f cs))

/-! ### Vector registers (R70) -/

/-- The 16 lanes of a vector register. -/
def vreg (k : Core) (v : BitVec 5) : List (BitVec 32) := tgets 0 k.v (16 * v.toNat) 16

/-- Write a vector register. -/
def setVreg (k : Core) (v : BitVec 5) (l : List (BitVec 32)) : Core := { k with v := tputs 0 k.v (16 * v.toNat) l }

/-- VLD: 64 bytes of scratchpad into a vector register; the address must be 64 B-aligned (R70). -/
def execVld (c : CoreId) (vd : BitVec 5) (addr : BitVec 17) (s : State) : Res :=
  issue s c [] fun k =>
    if addr.toNat % 64 ≠ 0 then coreFault (setCore s c k) c eAlign
    else done s c (setVreg k vd ((List.range 16).map fun i => leWord 32 (spRead s c (addr.toNat + 4 * i) 4)))

/-- VST: a vector register to 64 bytes of scratchpad (R70). -/
def execVst (c : CoreId) (vs : BitVec 5) (addr : BitVec 17) (s : State) : Res :=
  issue s c [] fun k =>
    if addr.toNat % 64 ≠ 0 then coreFault (setCore s c k) c eAlign
    else done (spWrite s c addr.toNat ((vreg k vs).flatMap (leBytes 4))) c k

/-- A lane-wise FP32 operation (R70): operands read under `ftz`, the exact result rounded once. -/
def lanes (c : CoreId) (vd : BitVec 5) (srcs : List (BitVec 5)) (f : List Val → Val) (s : State) : Res :=
  issue s c [] fun k =>
    let ftz := coreFtz s c
    let rs := (List.range 16).map fun i =>
      let xs := srcs.map fun v => read32 ftz ((vreg k v).getD i 0)
      let r := round32 ftz (f (xs.map Prod.fst))
      (BitVec.ofNat 32 r.code, xs.foldl (fun a x => a ||| x.2) r.fl)
    coreEff (done s c (setVreg k vd (rs.map Prod.fst))) c (Eff.flags (rs.foldl (fun a r => a ||| r.2) 0))

/-- VFMA: `va` * `vb` + `vc`, rounded once (R70). -/
def execVfma (c : CoreId) (vd va vb vc : BitVec 5) (s : State) : Res :=
  lanes c vd [va, vb, vc] (fun l => addVal (mulVal (l.getD 0 .nan) (l.getD 1 .nan)) (l.getD 2 .nan)) s
/-- VADD (R70). -/
def execVadd (c : CoreId) (vd va vb : BitVec 5) (s : State) : Res :=
  lanes c vd [va, vb] (fun l => addVal (l.getD 0 .nan) (l.getD 1 .nan)) s
/-- VMUL (R70). -/
def execVmul (c : CoreId) (vd va vb : BitVec 5) (s : State) : Res :=
  lanes c vd [va, vb] (fun l => mulVal (l.getD 0 .nan) (l.getD 1 .nan)) s
/-- VMAX (R70); +0 counts above -0 (LOG 24). -/
def execVmax (c : CoreId) (vd va vb : BitVec 5) (s : State) : Res :=
  lanes c vd [va, vb] (fun l => maxVal (l.getD 0 .nan) (l.getD 1 .nan)) s
/-- VMIN (R70); -0 counts below +0 (LOG 24). -/
def execVmin (c : CoreId) (vd va vb : BitVec 5) (s : State) : Res :=
  lanes c vd [va, vb] (fun l => minVal (l.getD 0 .nan) (l.getD 1 .nan)) s

/-! ### VCVT -/

/-- Elements one VCVT converts: 16; a packed Q4X group of 64 (R89); whole blocks of 32 under MX scaling (R90). -/
def cvtCount (sf : Nat) (smx dmx : Bool) : Nat := if sf = 9 then 64 else if smx || dmx then 32 else 16

/-- The format conditions of VCVT: codes (R77, R89), MX scaling where a format allows it (R76), FP32 in registers. -/
def cvtFormatBad (sf df : Nat) (smx dmx : Bool) (src dst : VOp) : Bool :=
  decide (9 < sf) || decide (9 ≤ df) || (smx && !([1, 2, 3, 4, 5].contains sf)) || (dmx && !([1, 2, 3, 4, 5].contains df)) ||
    (match src with | .reg _ => sf != 8 | .sp _ => false) || (match dst with | .reg _ => df != 8 | .sp _ => false)

/-- Bytes of an operand in scratchpad. -/
def cvtBytes (f n : Nat) : Nat := if f = 9 then 44 else fmtBytes f n

/-- The source values of a VCVT with their flags. One of 32 or 64 elements takes a register operand's elements from consecutive
vector registers, v0 after v31 (DESIGN CHOICE, LOG 87). -/
def cvtRead (s : State) (c : CoreId) (k : Core) (ftz : Bool) (sf n : Nat) (smx : Bool) (src : VOp) (sSc : BitVec 17) :
    List (Val × BitVec 8) × BitVec 8 :=
  match src with
  | .reg v => let r := ((List.range (n / 16)).flatMap fun i => vreg k (v + BitVec.ofNat 5 i)).map (read32 ftz)
    (r, flagsOf r)
  | .sp a => mvRow sf smx ftz n (spRead s c a.toNat (cvtBytes sf n)) (spRead s c sSc.toNat (n / 32))

/-- VCVT (R70, R90 to R96): stochastic rounding faults with E_MODE; MX destinations convert in blocks of 32 (R85). -/
def execVcvt (c : CoreId) (sf df : BitVec 4) (smx dmx sat sr : Bool) (src : VOp) (sSc : BitVec 17) (dst : VOp)
    (dSc : BitVec 17) (s : State) : Res :=
  issue s c [] fun k =>
    let f := sf.toNat
    let g := df.toNat
    let n := cvtCount f smx dmx
    let past := fun (o : VOp) (b : Nat) => match o with | .sp a => decide (spSize < a.toNat + b) | .reg _ => false
    if cvtFormatBad f g smx dmx src dst then coreFault (setCore s c k) c eFormat
    else if past src (cvtBytes f n) || past dst (fmtBytes g n) || (smx && past (.sp sSc) (n / 32)) ||
        (dmx && past (.sp dSc) (n / 32)) then coreFault (setCore s c k) c eRange
    else if sr then coreFault (setCore s c k) c eMode
    else
      let ftz := coreFtz s c
      let x := cvtRead s c k ftz f n smx src sSc
      let vs := x.1.map Prod.fst
      let blocks := (runsOf 32 (n / 32) vs).map (convMx g ftz)
      let cs := List.zipWith (fun (v : Val × BitVec 8) k => fromRead v.2 k) x.1
        (if dmx then blocks.flatMap (fun b => b.2.1) else vs.map (convElem g .nearest sat ftz))
      let fl := if dmx then blocks.foldl (fun a b => a ||| b.2.2) x.2 else x.2
      let codes := cs.map (·.code)
      let s1 := match dst with
        | .sp a => done (spWrite s c a.toNat (storeCodes g codes)) c k
        | .reg v => done s c ((List.range (n / 16)).foldl (fun k i =>
            setVreg k (v + BitVec.ofNat 5 i) (((codes.drop (16 * i)).take 16).map (BitVec.ofNat 32))) k)
      let s2 := if dmx then spWrite s1 c dSc.toNat (blocks.map Prod.fst) else s1
      coreEff s2 c ((Eff.flags fl).and (convsEff g cs))

end Sys2Proof.Machine
end

