-- ==== Sys2Proof/Machine/Dispatch.lean ====
section
/-! DEFINITION. The dispatch: one arm per command, one meaning each. -/

namespace Sys2Proof.Machine

/-- The effect of a command on everything but the queue. -/
def exec (i : Instr) (s : State) : Host.Outcome State Fault Refusal :=
  match i with
  | .add c w => Sys2Proof.Machine.execAdd c w s
  | .sub c w => Sys2Proof.Machine.execSub c w s
  | .and c w => Sys2Proof.Machine.execAnd c w s
  | .or c w => Sys2Proof.Machine.execOr c w s
  | .xor c w => Sys2Proof.Machine.execXor c w s
  | .shl c w => Sys2Proof.Machine.execShl c w s
  | .shr c w => Sys2Proof.Machine.execShr c w s
  | .sar c w => Sys2Proof.Machine.execSar c w s
  | .mul c w => Sys2Proof.Machine.execMul c w s
  | .addi c w => Sys2Proof.Machine.execAddi c w s
  | .li c w => Sys2Proof.Machine.execLi c w s
  | .lih c w => Sys2Proof.Machine.execLih c w s
  | .cmpEq c w => Sys2Proof.Machine.execCmpEq c w s
  | .cmpLt c w => Sys2Proof.Machine.execCmpLt c w s
  | .cmpLtu c w => Sys2Proof.Machine.execCmpLtu c w s
  | .beqz c w => Sys2Proof.Machine.execBeqz c w s
  | .bnez c w => Sys2Proof.Machine.execBnez c w s
  | .jmp c w => Sys2Proof.Machine.execJmp c w s
  | .jr c w => Sys2Proof.Machine.execJr c w s
  | .loop c w => Sys2Proof.Machine.execLoop c w s
  | .ldS c w => Sys2Proof.Machine.execLdS c w s
  | .stS c w => Sys2Proof.Machine.execStS c w s
  | .pmNow c w => Sys2Proof.Machine.execPmNow c w s
  | .pmStep c w => Sys2Proof.Machine.execPmStep c w s
  | .nop c w => Sys2Proof.Machine.execNop c w s
  | .halt c w => Sys2Proof.Machine.execHalt c w s
  | .fence c w => Sys2Proof.Machine.execFence c w s
  | .waitPm c w => Sys2Proof.Machine.execWaitPm c w s
  | .waitRcpt c w => Sys2Proof.Machine.execWaitRcpt c w s
  | .send c w => Sys2Proof.Machine.execSend c w s
  | .arm c w => Sys2Proof.Machine.execArm c w s
  | .rcptAdd c w => Sys2Proof.Machine.execRcptAdd c w s
  | .rcptRead c w => Sys2Proof.Machine.execRcptRead c w s
  | .hmask c w => Sys2Proof.Machine.execHmask c w s
  | .hret c w => Sys2Proof.Machine.execHret c w s
  | .mma c w => Sys2Proof.Machine.execMma c w s
  | .mmaAccumulate c => Sys2Proof.Machine.execMmaAccumulate c s
  | .accSwap c w => Sys2Proof.Machine.execAccSwap c w s
  | .swap c => Sys2Proof.Machine.execSwap c s
  | .accDrain c w => Sys2Proof.Machine.execAccDrain c w s
  | .drainStart c => Sys2Proof.Machine.execDrainStart c s
  | .drainDone c => Sys2Proof.Machine.execDrainDone c s
  | .vldx c fmt mxs src len sAddr xOff => Sys2Proof.Machine.execVldx c fmt mxs src len sAddr xOff s
  | .mv c w => Sys2Proof.Machine.execMv c w s
  | .mvSt c fmt sat rows dst => Sys2Proof.Machine.execMvSt c fmt sat rows dst s
  | .vld c vd addr => Sys2Proof.Machine.execVld c vd addr s
  | .vst c vs addr => Sys2Proof.Machine.execVst c vs addr s
  | .vfma c vd va vb vc => Sys2Proof.Machine.execVfma c vd va vb vc s
  | .vadd c vd va vb => Sys2Proof.Machine.execVadd c vd va vb s
  | .vmul c vd va vb => Sys2Proof.Machine.execVmul c vd va vb s
  | .vmax c vd va vb => Sys2Proof.Machine.execVmax c vd va vb s
  | .vmin c vd va vb => Sys2Proof.Machine.execVmin c vd va vb s
  | .vcvt c sf df smx dmx sat sr src sSc dst dSc => Sys2Proof.Machine.execVcvt c sf df smx dmx sat sr src sSc dst dSc s
  | .xferIn c w => Sys2Proof.Machine.execXferIn c w s
  | .xferOut c w => Sys2Proof.Machine.execXferOut c w s
  | .xferComplete c ecc atMem => Sys2Proof.Machine.execXferComplete c ecc atMem s
  | .memorySideOperation h reach bad ecc => Sys2Proof.Machine.execMemorySideOperation h reach bad ecc s
  | .streamStart u => Sys2Proof.Machine.execStreamStart u s
  | .consign u => Sys2Proof.Machine.execConsign u s
  | .collStart u => Sys2Proof.Machine.execCollStart u s
  | .envRelease u => Sys2Proof.Machine.execEnvRelease u s
  | .receiptAdd u => Sys2Proof.Machine.execReceiptAdd u s
  | .commit u => Sys2Proof.Machine.execCommit u s
  | .ckptCut u => Sys2Proof.Machine.execCkptCut u s
  | .stepEnd u => Sys2Proof.Machine.execStepEnd u s
  | .schedStall u => Sys2Proof.Machine.execSchedStall u s
  | .preemptSave u => Sys2Proof.Machine.execPreemptSave u s
  | .handOver u => Sys2Proof.Machine.execHandOver u s
  | .umbelRestore u => Sys2Proof.Machine.execUmbelRestore u s
  | .ctxResume u => Sys2Proof.Machine.execCtxResume u s
  | .envelopeArrival n0 => Sys2Proof.Machine.execEnvelopeArrival n0 s
  | .acknowledgementArrival n0 => Sys2Proof.Machine.execAcknowledgementArrival n0 s
  | .deadLetterArrival n0 => Sys2Proof.Machine.execDeadLetterArrival n0 s
  | .envelopeRetry c e => Sys2Proof.Machine.execEnvelopeRetry c e s
  | .dispatch c => Sys2Proof.Machine.execDispatch c s
  | .guestAnswerTimeout n0 => Sys2Proof.Machine.execGuestAnswerTimeout n0 s
  | .guestRequest die r => Sys2Proof.Machine.execGuestRequest die r s
  | .receiptAddApplied r n => Sys2Proof.Machine.execReceiptAddApplied r n s
  | .countUpdate sub r => Sys2Proof.Machine.execCountUpdate sub r s
  | .consignStart n ecc => Sys2Proof.Machine.execConsignStart n ecc s
  | .consignDelivered n ecc => Sys2Proof.Machine.execConsignDelivered n ecc s
  | .consignReturned n cause bytes => Sys2Proof.Machine.execConsignReturned n cause bytes s
  | .remotePostAck n => Sys2Proof.Machine.execRemotePostAck n s
  | .updateEntryStart h => Sys2Proof.Machine.execUpdateEntryStart h s
  | .updateEntryDone h => Sys2Proof.Machine.execUpdateEntryDone h s
  | .upEnd h => Sys2Proof.Machine.execUpEnd h s
  | .upLd h ecc => Sys2Proof.Machine.execUpLd h ecc s
  | .upSt h ecc => Sys2Proof.Machine.execUpSt h ecc s
  | .upAdd h => Sys2Proof.Machine.execUpAdd h s
  | .upSub h => Sys2Proof.Machine.execUpSub h s
  | .upMul h => Sys2Proof.Machine.execUpMul h s
  | .upFma h => Sys2Proof.Machine.execUpFma h s
  | .upDiv h => Sys2Proof.Machine.execUpDiv h s
  | .upSqrt h => Sys2Proof.Machine.execUpSqrt h s
  | .upMax h => Sys2Proof.Machine.execUpMax h s
  | .upMin h => Sys2Proof.Machine.execUpMin h s
  | .upAbs h => Sys2Proof.Machine.execUpAbs h s
  | .upPows h => Sys2Proof.Machine.execUpPows h s
  | .upRand h => Sys2Proof.Machine.execUpRand h s
  | .upBsum h => Sys2Proof.Machine.execUpBsum h s
  | .upBmax h => Sys2Proof.Machine.execUpBmax h s
  | .upBar h => Sys2Proof.Machine.execUpBar h s
  | .memberReady => Sys2Proof.Machine.execMemberReady s
  | .voteWindowExpiry => Sys2Proof.Machine.execVoteWindowExpiry s
  | .confirmDeadline => Sys2Proof.Machine.execConfirmDeadline s
  | .doubtDeadline => Sys2Proof.Machine.execDoubtDeadline s
  | .commitVote h p => Sys2Proof.Machine.execCommitVote h p s
  | .commitConfirm h p => Sys2Proof.Machine.execCommitConfirm h p s
  | .commitAbort h p => Sys2Proof.Machine.execCommitAbort h p s
  | .commitQuery h p => Sys2Proof.Machine.execCommitQuery h p s
  | .commitQueryAnswer h p => Sys2Proof.Machine.execCommitQueryAnswer h p s
  | .rollbackRestore => Sys2Proof.Machine.execRollbackRestore s
  | .generationSealed => Sys2Proof.Machine.execGenerationSealed s
  | .collectiveStarts h met => Sys2Proof.Machine.execCollectiveStarts h met s
  | .piece h p met => Sys2Proof.Machine.execPiece h p met s
  | .collAbort h p => Sys2Proof.Machine.execCollAbort h p s
  | .collTimeout h id => Sys2Proof.Machine.execCollTimeout h id s
  | .hdiFrameReceived b p up crcOk units => Sys2Proof.Machine.execHdiFrameReceived b p up crcOk units s
  | .hdiRetrainDone b p badWires clockBad => Sys2Proof.Machine.execHdiRetrainDone b p badWires clockBad s
  | .flitReceived l f => Sys2Proof.Machine.execFlitReceived l f s
  | .ackTimeout l => Sys2Proof.Machine.execAckTimeout l s
  | .retrainDone l lanesOk rate gcmPeer => Sys2Proof.Machine.execRetrainDone l lanesOk rate gcmPeer s
  | .retrainTimeout l => Sys2Proof.Machine.execRetrainTimeout l s
  | .trainingStart l => Sys2Proof.Machine.execTrainingStart l s
  | .trainingDone l r => Sys2Proof.Machine.execTrainingDone l r s
  | .trainingTimeout l => Sys2Proof.Machine.execTrainingTimeout l s
  | .widthChangeDone l ok => Sys2Proof.Machine.execWidthChangeDone l ok s
  | .writePacket h p => Sys2Proof.Machine.execWritePacket h p s
  | .envelopePacket h p => Sys2Proof.Machine.execEnvelopePacket h p s
  | .rcptAddPacket h p => Sys2Proof.Machine.execRcptAddPacket h p s
  | .e2eAck h p => Sys2Proof.Machine.execE2eAck h p s
  | .rsp h p => Sys2Proof.Machine.execRsp h p s
  | .packetTransit l cls p => Sys2Proof.Machine.execPacketTransit l cls p s
  | .busyResendTimer h n0 => Sys2Proof.Machine.execBusyResendTimer h n0 s
  | .requestTimeout h n0 => Sys2Proof.Machine.execRequestTimeout h n0 s
  | .e2eAckTimer h n0 => Sys2Proof.Machine.execE2eAckTimer h n0 s
  | .streamWindowIdle h n0 => Sys2Proof.Machine.execStreamWindowIdle h n0 s
  | .timing l crcOk root period pm => Sys2Proof.Machine.execTiming l crcOk root period pm s
  | .timingFrameSend => Sys2Proof.Machine.execTimingFrameSend s
  | .probeSend => Sys2Proof.Machine.execProbeSend s
  | .probe l crcOk t1 => Sys2Proof.Machine.execProbe l crcOk t1 s
  | .probeReply l crcOk t1 t2 t3 => Sys2Proof.Machine.execProbeReply l crcOk t1 t2 t3 s
  | .stop l crcOk origin count pm scope => Sys2Proof.Machine.execStop l crcOk origin count pm scope s
  | .quiesce l crcOk origin count pm scope => Sys2Proof.Machine.execQuiesce l crcOk origin count pm scope s
  | .linkCtl l crcOk kind lanes rate => Sys2Proof.Machine.execLinkCtl l crcOk kind lanes rate s
  | .alarm l crcOk body => Sys2Proof.Machine.execAlarm l crcOk body s
  | .log l crcOk body => Sys2Proof.Machine.execLog l crcOk body s
  | .trace l crcOk body => Sys2Proof.Machine.execTrace l crcOk body s
  | .courierLost l => Sys2Proof.Machine.execCourierLost l s
  | .correctionPulse => Sys2Proof.Machine.execCorrectionPulse s
  | .tbLock => Sys2Proof.Machine.execTbLock s
  | .tbInLoss => Sys2Proof.Machine.execTbInLoss s
  | .holdoverExpiry => Sys2Proof.Machine.execHoldoverExpiry s
  | .recordRelease => Sys2Proof.Machine.execRecordRelease s
  | .recordDelivery c => Sys2Proof.Machine.execRecordDelivery c s
  | .interruptGapExpiry c => Sys2Proof.Machine.execInterruptGapExpiry c s
  | .mbDoorbell c port v readFault => Sys2Proof.Machine.execMbDoorbell c port v readFault s
  | .evHeadWrite c port v => Sys2Proof.Machine.execEvHeadWrite c port v s
  | .mbCtlWrite c v => Sys2Proof.Machine.execMbCtlWrite c v s
  | .evCtlWrite c v => Sys2Proof.Machine.execEvCtlWrite c v s
  | .mbNop c d => Sys2Proof.Machine.execMbNop c d s
  | .mbCopy c d => Sys2Proof.Machine.execMbCopy c d s
  | .mbLoad c d img again => Sys2Proof.Machine.execMbLoad c d img again s
  | .mbUnload c d => Sys2Proof.Machine.execMbUnload c d s
  | .mbStart c d => Sys2Proof.Machine.execMbStart c d s
  | .mbResume c d => Sys2Proof.Machine.execMbResume c d s
  | .mbRegion c d => Sys2Proof.Machine.execMbRegion c d s
  | .mbGuaranteeAdd c d => Sys2Proof.Machine.execMbGuaranteeAdd c d s
  | .mbGuaranteeRemove c d => Sys2Proof.Machine.execMbGuaranteeRemove c d s
  | .mbColl c d entry startBeat => Sys2Proof.Machine.execMbColl c d entry startBeat s
  | .mbLinkDown c d => Sys2Proof.Machine.execMbLinkDown c d s
  | .mbLinkRetrain c d => Sys2Proof.Machine.execMbLinkRetrain c d s
  | .mbLinkSetWidth c d => Sys2Proof.Machine.execMbLinkSetWidth c d s
  | .mbLinkCourierRetrain c d => Sys2Proof.Machine.execMbLinkCourierRetrain c d s
  | .mbCkptHdr c d => Sys2Proof.Machine.execMbCkptHdr c d s
  | .mbBuddyLost c d => Sys2Proof.Machine.execMbBuddyLost c d s
  | .mbRestoreLocal c d => Sys2Proof.Machine.execMbRestoreLocal c d s
  | .mbRestoreBuddy c d g => Sys2Proof.Machine.execMbRestoreBuddy c d g s
  | .mbConsignReset c d => Sys2Proof.Machine.execMbConsignReset c d s
  | .mbCoreClear c d => Sys2Proof.Machine.execMbCoreClear c d s
  | .mbCoreRetire c d => Sys2Proof.Machine.execMbCoreRetire c d s
  | .mbStateReady c d => Sys2Proof.Machine.execMbStateReady c d s
  | .mbStateDormant c d => Sys2Proof.Machine.execMbStateDormant c d s
  | .longCommandComplete n0 err moved ecc => Sys2Proof.Machine.execLongCommandComplete n0 err moved ecc s
  | .cmdTimeout c => Sys2Proof.Machine.execCmdTimeout c s
  | .urgentQuiesce scope => Sys2Proof.Machine.execUrgentQuiesce scope s
  | .urgentStop scope => Sys2Proof.Machine.execUrgentStop scope s
  | .bar2Access isWrite off len data ecc => Sys2Proof.Machine.execBar2Access isWrite off len data ecc s
  | .setupLock port => Sys2Proof.Machine.execSetupLock port s
  | .lockHitClear => Sys2Proof.Machine.execLockHitClear s
  | .sysPlaceWrite port v => Sys2Proof.Machine.execSysPlaceWrite port v s
  | .tbCfgWrite v => Sys2Proof.Machine.execTbCfgWrite v s
  | .tbUpstreamWrite v => Sys2Proof.Machine.execTbUpstreamWrite v s
  | .llmModeWrite port v => Sys2Proof.Machine.execLlmModeWrite port v s
  | .ctxCfgWrite port c v => Sys2Proof.Machine.execCtxCfgWrite port c v s
  | .hiStickyClear q => Sys2Proof.Machine.execHiStickyClear q s
  | .loStickyClear q => Sys2Proof.Machine.execLoStickyClear q s
  | .wmStickyClear r => Sys2Proof.Machine.execWmStickyClear r s
  | .registerWrite port off size v => Sys2Proof.Machine.execRegisterWrite port off size v s
  | .pcieReset port perst => Sys2Proof.Machine.execPcieReset port perst s
  | .inputUndervolt => Sys2Proof.Machine.execInputUndervolt s
  | .inputOvervolt => Sys2Proof.Machine.execInputOvervolt s
  | .bladeOvercurrent => Sys2Proof.Machine.execBladeOvercurrent s
  | .bladeLost blade => Sys2Proof.Machine.execBladeLost blade s
  | .capPeriod pIn vIn => Sys2Proof.Machine.execCapPeriod pIn vIn s
  | .currentPeriod i0 i1 => Sys2Proof.Machine.execCurrentPeriod i0 i1 s
  | .dvfsPeriod => Sys2Proof.Machine.execDvfsPeriod s
  | .droop die cl => Sys2Proof.Machine.execDroop die cl s
  | .droopRecovery die cl => Sys2Proof.Machine.execDroopRecovery die cl s
  | .sensorRead sn t => Sys2Proof.Machine.execSensorRead sn t s
  | .level1Step sn => Sys2Proof.Machine.execLevel1Step sn s
  | .criticalTemperature hbm => Sys2Proof.Machine.execCriticalTemperature hbm s
  | .hbmTempReport st t => Sys2Proof.Machine.execHbmTempReport st t s
  | .flowOkDeassert => Sys2Proof.Machine.execFlowOkDeassert s
  | .flowOkAssert => Sys2Proof.Machine.execFlowOkAssert s
  | .coolantClear => Sys2Proof.Machine.execCoolantClear s
  | .flowLossTimeout => Sys2Proof.Machine.execFlowLossTimeout s
  | .thermalTrip asserted => Sys2Proof.Machine.execThermalTrip asserted s
  | .haltComplete => Sys2Proof.Machine.execHaltComplete s
  | .throttleOngoing r => Sys2Proof.Machine.execThrottleOngoing r s
  | .pwrgdLow => Sys2Proof.Machine.execPwrgdLow s
  | .rstNLow => Sys2Proof.Machine.execRstNLow s
  | .rstNHigh autoOn => Sys2Proof.Machine.execRstNHigh autoOn s
  | .softStartOvercurrent tile rail => Sys2Proof.Machine.execSoftStartOvercurrent tile rail s
  | .railRetry tile rail ok => Sys2Proof.Machine.execRailRetry tile rail ok s
  | .phaseOvercurrent tile rail => Sys2Proof.Machine.execPhaseOvercurrent tile rail s
  | .imbalanceWindow h g total largest => Sys2Proof.Machine.execImbalanceWindow h g total largest s
  | .llmFlushDone h => Sys2Proof.Machine.execLlmFlushDone h s
  | .migrationChunkDone h => Sys2Proof.Machine.execMigrationChunkDone h s
  | .shortfallPeriodic h => Sys2Proof.Machine.execShortfallPeriodic h s
  | .repairRecordWrite => Sys2Proof.Machine.execRepairRecordWrite s
  | .powerGood autoOn => Sys2Proof.Machine.execPowerGood autoOn s
  | .shordoBoot b => Sys2Proof.Machine.execShordoBoot b s
  | .railRamp => Sys2Proof.Machine.execRailRamp s
  | .hdiStage hubFwOk blocks badPorts badWires => Sys2Proof.Machine.execHdiStage hubFwOk blocks badPorts badWires s
  | .spareMapStage => Sys2Proof.Machine.execSpareMapStage s
  | .hbmTraining lanes again => Sys2Proof.Machine.execHbmTraining lanes again s
  | .selfTest transient lasting adders => Sys2Proof.Machine.execSelfTest transient lasting adders s
  | .linkStage => Sys2Proof.Machine.execLinkStage s
  | .timebaseStage => Sys2Proof.Machine.execTimebaseStage s
  | .hostStage => Sys2Proof.Machine.execHostStage s
  | .placeRead => Sys2Proof.Machine.execPlaceRead s
  | .placeWrite place => Sys2Proof.Machine.execPlaceWrite place s
  | .repairRead n0 => Sys2Proof.Machine.execRepairRead n0 s
  | .repairClear n0 => Sys2Proof.Machine.execRepairClear n0 s
  | .extLimit v => Sys2Proof.Machine.execExtLimit v s
  | .keystoreWrite key revoked sig => Sys2Proof.Machine.execKeystoreWrite key revoked sig s
  | .stateReady => Sys2Proof.Machine.execStateReady s
  | .stateStandby => Sys2Proof.Machine.execStateStandby s
  | .debugUnlock => Sys2Proof.Machine.execDebugUnlock s
  | .debugUnlockResponse slot sig => Sys2Proof.Machine.execDebugUnlockResponse slot sig s
  | .getVersion t => Sys2Proof.Machine.execGetVersion t s
  | .getCapabilities t => Sys2Proof.Machine.execGetCapabilities t s
  | .negotiateAlgorithms t p384 sha384 => Sys2Proof.Machine.execNegotiateAlgorithms t p384 sha384 s
  | .getDigests t => Sys2Proof.Machine.execGetDigests t s
  | .getCertificate t slot => Sys2Proof.Machine.execGetCertificate t slot s
  | .challenge t slot nonce => Sys2Proof.Machine.execChallenge t slot nonce s
  | .getMeasurements t index nonce signed => Sys2Proof.Machine.execGetMeasurements t index nonce signed s
  | .firmwareUpdate agent pkg => Sys2Proof.Machine.execFirmwareUpdate agent pkg s
  | .bypass => Sys2Proof.Machine.execBypass s
  | .idcode => Sys2Proof.Machine.execIdcode s
  | .samplePreload => Sys2Proof.Machine.execSamplePreload s
  | .extest => Sys2Proof.Machine.execExtest s
  | .clamp => Sys2Proof.Machine.execClamp s
  | .highz => Sys2Proof.Machine.execHighz s
  | .tbInReturn => Sys2Proof.Machine.execTbInReturn s
  | .sysclkLost => Sys2Proof.Machine.execSysclkLost s
  | .clusterClockLoss die cl relocked => Sys2Proof.Machine.execClusterClockLoss die cl relocked s
  | .vclSlewComplete die cl => Sys2Proof.Machine.execVclSlewComplete die cl s
  | .localWriteComplete => Sys2Proof.Machine.execLocalWriteComplete s
  | .newEpoch l => Sys2Proof.Machine.execNewEpoch l s
  | .smbusFallback => Sys2Proof.Machine.execSmbusFallback s
  | .perstnDeassert port => Sys2Proof.Machine.execPerstnDeassert port s

end Sys2Proof.Machine
end

