-- ==== Sys2Proof/Machine/RegRead.lean ====
section
/-! DEFINITION. What the BAR0 registers read (R340, R342, R357 to R359, R365, R366, R373, R392, R414, R416, R433, R449, R454, R456,
R460 to R468). The table has no row for a read; these views say what software sees of the state. -/

namespace Sys2Proof.Machine

/-- A bit as a one-bit field. -/
def b1 (b : Bool) : BitVec 1 := BitVec.ofBool b

/-! ### Identity, capability and host (R357, R359, R456, R461, R462) -/

/-- CAP.SHAPE (R462). -/
def capShape (s : State) : BitVec 64 := s.caps.cores ++ s.caps.dies ++ s.caps.guests ++ s.caps.hbmLive ++ (0 : BitVec 31)

/-- CAP.DIEMAPn (R462): an absent die reads 0xFF, and the map 0 before stage 10. -/
def capDieMap (s : State) (n : Nat) : BitVec 64 :=
  leWord 64 ((List.range 8).map fun k => tget 0 s.caps.dieMap (8 * n + k))

/-- CAP.HDIn (R462). -/
def capHdi (s : State) (n : Nat) : BitVec 64 :=
  (List.range 16).foldl (fun v j => v ||| ((tget 0 s.caps.hdi (16 * n + j)).setWidth 64 <<< (4 * j))) 0

/-- HOST.SCHED (R357). -/
def hostSched (s : State) : BitVec 64 :=
  (if s.sched = .stopped then s.run.settled else s.run.step) ++ (0 : BitVec 21) ++ BitVec.ofNat 3 (schedCode s.sched)

/-- HOST.URGENT_STATUS (R359). -/
def urgentStatus (s : State) : BitVec 64 :=
  s.regs.urgCount ++ s.regs.urgOrigin ++ b1 s.regs.urgKind ++ (0 : BitVec 29) ++ s.regs.urgAfter

/-- HOST.LOCK (R456). -/
def hostLock (s : State) : BitVec 64 :=
  (0 : BitVec 7) ++ s.regs.firstOff ++ s.regs.lockWrites ++ (0 : BitVec 13) ++ b1 s.regs.firstPort ++ b1 s.regs.lockHit ++ b1 s.regs.lock

/-! ### Power, placement, links (R305, R392, R449, R463, R464) -/

/-- Reason `n` is active (R390, R392). -/
def activeBit (s : State) (n : Nat) : BitVec 1 := b1 (tget none s.pwr.episodes n).isSome

/-- PWR.STATUS (R392). -/
def pwrStatus (s : State) : BitVec 64 :=
  let p := s.pwr
  p.pIn ++ p.vIn ++ BitVec.ofNat 6 (lowestF s) ++ (0 : BitVec 2) ++ p.tDie ++ p.tHbm ++ b1 p.flowOk ++ b1 p.trip ++ b1 p.bladeLost ++
    (0 : BitVec 6) ++ activeBit s 6 ++ activeBit s 5 ++ activeBit s 4 ++ activeBit s 3 ++ activeBit s 2 ++ activeBit s 1 ++ activeBit s 0

/-- PWR.THR_USn (R390, R392): the active time of reason `n` in us, with the episode that still lasts. -/
def thrUs (s : State) (n : Nat) : BitVec 64 :=
  let open_ := match tget none s.pwr.episodes n with | some e => s.ns - e.startNs | none => 0
  BitVec.ofNat 64 ((tget 0 s.pwr.thrNs n + open_) / 1000)

/-- SYS.PLACE (R305). -/
def sysPlace (s : State) : BitVec 64 := b1 s.place.set ++ s.place.addr ++ (0 : BitVec 12) ++ placeFields s

/-- SYS.START (R449): `elapsed_ms` runs from stage 3 and is frozen at `done`. -/
def sysStart (s : State) : BitVec 64 :=
  let x := s.start
  let ms : BitVec 20 := if x.stage = 0 then x.elapsedMs else BitVec.ofNat 20 (min 0xFFFFF ((s.ns - x.startNs) / 1000000))
  (0 : BitVec 24) ++ x.failCause ++ x.failStage ++ x.stage ++ b1 x.done ++ b1 x.autoOn ++ (0 : BitVec 2) ++ ms

/-- The code of a link's state (R464). -/
def linkCode : LinkSt → Nat
  | .down => 0
  | .training => 1
  | .up => 2
  | .replaying => 3
  | .retraining => 4
  | .changing => 5

/-- LINK.STATUSn (R464): a link whose peer has not answered training reads Down. -/
def linkStatus (s : State) (n : Nat) : BitVec 64 :=
  let l := linkOf s n
  l.peerAddr ++ l.peerLink ++ BitVec.ofNat 3 (linkCode l.st) ++ l.lanes ++ l.rate ++ b1 l.gcm ++ b1 l.courier ++ l.keyEpoch ++
    (0 : BitVec 4) ++ l.downCause ++ (0 : BitVec 20)

/-! ### Memory, timebase, security (R227, R433, R465 to R468) -/

/-- MEM.IMB_CFG (R227). -/
def imbCfg (s : State) : BitVec 32 := (0 : BitVec 16) ++ s.regs.imbThresh ++ (0 : BitVec 7) ++ b1 s.regs.imbEn

/-- MEM.HKEY (R465). -/
def memHkey (s : State) : BitVec 32 :=
  (0 : BitVec 24) ++ (hubOf s 3).hkey ++ (hubOf s 2).hkey ++ (hubOf s 1).hkey ++ (hubOf s 0).hkey

/-- TB.CFG (R466), TB.UPSTREAM (R467) and TB.STATUS (R468). -/
def tbCfg (s : State) : BitVec 64 := (0 : BitVec 6) ++ s.tb.beatPeriod ++ (0 : BitVec 30) ++ s.tb.role
def tbUpstream (s : State) : BitVec 32 := (0 : BitVec 20) ++ s.tb.altUpstream ++ (0 : BitVec 4) ++ s.tb.upstream
def tbStatus (s : State) : BitVec 64 :=
  let code : BitVec 3 := match s.tb.st with | .unlocked => 0 | .acquiring => 1 | .locked => 2 | .holdover => 3
  (0 : BitVec 16) ++ s.tb.rootAddr ++ (0 : BitVec 1) ++ s.tb.delayPs ++ s.tb.source ++ (0 : BitVec 1) ++ code

/-- SEC.STATUS (R433). -/
def secStatus (s : State) : BitVec 64 :=
  let x := s.sec
  x.svnFused ++ x.svnFw ++ x.peerMinSvn ++ x.keySlot ++ x.revoked ++ b1 x.slot ++ b1 x.debug ++ x.boot ++ x.fwVersion

/-! ### The context table and the doorbell pages (R342, R365, R366, R373) -/

/-- DB.MB_CTL and DB.EV_CTL (R342). -/
def mbCtlRead (d : Door) : BitVec 32 := b1 d.mbEn ++ b1 d.mbPort ++ b1 d.mbBusy ++ (0 : BitVec 24) ++ d.mbSize
def evCtlRead (d : Door) : BitVec 32 :=
  b1 d.evEn ++ b1 d.evPort ++ b1 d.pkgEv ++ b1 d.irqEn ++ b1 d.alarms ++ b1 d.logs ++ b1 d.traces ++ (0 : BitVec 9) ++ d.irqGap ++
    (0 : BitVec 3) ++ d.evSize

/-- The low 12 bits of a ring's base read as zero (R342). -/
def baseRead (v : BitVec 64) : BitVec 64 := v &&& ~~~(0xFFF : BitVec 64)

/-- The 64 bits at offset `o`, a multiple of 8, of context `c`'s entry (R365). -/
def ctxRead (s : State) (c o : Nat) : BitVec 64 :=
  let x := ctxOf s c
  match o with
  | 0x00 => x.cfg
  | 0x08 => x.saveBase
  | 0x10 => x.saveCtl
  | 0x18 => x.flags.setWidth 64
  | 0x20 => x.waitTotal
  | 0x28 => x.waitCount
  | 0x30 => x.preemptCount
  | 0x38 => x.preemptLost
  | _ =>
    if 0x40 ≤ o ∧ o < 0x80 then tget 0 x.waitHist ((o - 0x40) / 4 + 1) ++ tget 0 x.waitHist ((o - 0x40) / 4) else 0

/-- The 64 bits at offset `o`, a multiple of 8, of a doorbell page (R342); DB.MB_TAIL reads zero. -/
def doorRead (d : Door) (o : Nat) : BitVec 64 :=
  match o with
  | 0x000 => baseRead d.mbBase
  | 0x008 => (0 : BitVec 32) ++ mbCtlRead d
  | 0x010 => (0 : BitVec 32) ++ d.mbHead
  | 0x018 => baseRead d.evBase
  | 0x020 => d.evHead ++ evCtlRead d
  | 0x028 => (0 : BitVec 32) ++ d.evTail
  | 0x030 => d.dropTraces ++ d.dropLogs
  | _ => 0

/-! ### The index (R339, R416, R460) -/

/-- The 64 bits at offset `off`, a multiple of 8: two 32-bit registers stand side by side (R454). -/
def reg64 (s : State) (off : Nat) : BitVec 64 :=
  match off with
  | 0x00000 => idRev ++ idPart
  | 0x00008 => (0x36010C41 : BitVec 64)
  | 0x00010 => s.regs.serial
  | 0x00100 => capShape s
  | 0x00108 => s.caps.llmLive.setWidth 64
  | 0x00130 => s.caps.guest.setWidth 64
  | 0x10008 => urgentStatus s
  | 0x10010 => hostSched s
  | 0x10018 => s.regs.urgPm
  | 0x10020 => s.regs.bar2Base.setWidth 64 <<< 16
  | 0x10028 => bar2Ctl s
  | 0x10030 => hostLock s
  | 0x30000 => ((0 : BitVec 26) ++ s.pwr.fSet) ++ ((0 : BitVec 21) ++ s.pwr.cap)
  | 0x30008 => (s.pwr.extLimit).setWidth 64
  | 0x30010 => pwrStatus s
  | 0x30018 => (0 : BitVec 32) ++ s.pwr.iPb1 ++ s.pwr.iPb0
  | 0x40000 => sysPlace s
  | 0x40008 => sysStart s
  | 0x40010 => s.regs.gcmEn.setWidth 64
  | 0x50000 => s.regs.llmMode.setWidth 64
  | 0x50008 => (imbCfg s).setWidth 64
  | 0x50010 => (memHkey s).setWidth 64
  | 0x60000 => tbCfg s
  | 0x60008 => (tbUpstream s).setWidth 64
  | 0x60010 => tbStatus s
  | 0x60018 => if s.tb.hasCount then s.tb.now else 0
  | 0x70000 => secStatus s
  | 0x00800000 => telCfg s
  | _ =>
    if 0x00110 ≤ off ∧ off < 0x00130 then capDieMap s ((off - 0x00110) / 8)
    else if 0x00140 ≤ off ∧ off < 0x00158 then capHdi s ((off - 0x00140) / 8)
    else if 0x30100 ≤ off ∧ off < 0x30138 then thrUs s ((off - 0x30100) / 8)
    else if 0x40100 ≤ off ∧ off < 0x40160 then linkStatus s ((off - 0x40100) / 8)
    else if 0x00810000 ≤ off ∧ off < 0x00850000 then
      let q := (off - 0x00810000) / 0x10000
      leWord 64 (pkgRead s (0x040000000000 + q * 2 ^ 32 + 0x02000000 + off % 0x10000) 8)
    else match ctxAt off, pageAt off with
      | some (c, o), _ => ctxRead s c o
      | _, some (c, o) => doorRead (doorOf s c.val) o
      | _, _ => 0

/-- A BAR0 read of `size` bytes at `off` (R340, R454): all ones, and counted, where it is not a naturally aligned read of 4 or 8
bytes; a reserved offset reads zero. -/
def barRead (s : State) (off size : Nat) : State × BitVec 64 :=
  if (size != 4 && size != 8) || off % size != 0 then (barBad s, BitVec.allOnes 64)
  else if size = 8 then (s, reg64 s off)
  else (s, (fld (reg64 s (off / 8 * 8)) (off % 8 * 8) 32).setWidth 64)

end Sys2Proof.Machine
end

