-- ==== Sys2Proof/Safety.lean ====
section
/-! DEFINITION. What counts as a safe run: no step faults or is refused, and the canonical form of memory that every step
keeps.
Beside it the terms that statements about commands use: when a core issues an instruction, which fields its word names, and
which parts of the state each command may change. -/

namespace Sys2Proof.Machine

/-- The canonical form of a byte memory: addresses rise strictly, and no entry holds what an unlisted address reads as. -/
def Memory.wf (m : List Host.Cell) : Bool := tabWf 0 m

/-- Both memories of a state are in their canonical form. -/
def memoryOk (s : State) : Prop := Memory.wf s.mem = true ∧ Memory.wf s.hostMem = true

/-- The next `n` steps all answer a next state. -/
def safeFor : Nat → State → Prop
  | 0, _ => True
  | n + 1, s => ∃ t, step s = .next t ∧ safeFor n t

/-! ### Issue at a core (R51 to R53) -/

/-- The SCU of core `c` is free to issue: the core exists, it runs a stream, and what held its issue has been met. -/
def coreReady (s : State) (c : CoreId) : Prop :=
  coreExists c = true ∧ (coreOf s c).phase = .running ∧ holdMet s c (coreOf s c) = true

/-- Core `c` issues an instruction that reads the scalar registers `reads`: its SCU is free, its word lies in the instruction
store (R50) and has no reserved opcode (R54), and no drain still owes one of those registers its tag (R53, R115). -/
def canIssue (s : State) (c : CoreId) (reads : List (BitVec 5)) : Prop :=
  coreReady s c ∧ (coreOf s c).pc.toNat < 2048 ∧ opReserved (fld (wordAt s c) 56 8) = false ∧
    reads.any (regPending (coreOf s c)) = false

/-- Core `c` as its instruction finds it: nothing holds its issue any more. -/
def issued (s : State) (c : CoreId) : Core := { coreOf s c with hold := .none }

/-- The instruction at core `c` faults with code `e` in place of its effect (R55, R56). -/
def faultAt (s : State) (c : CoreId) (e : Err) : State := coreFault (setCore s c (issued s c)) c e

/-- The instruction at core `c` completes and leaves the core as `k`, at its next word. -/
def after (s : State) (c : CoreId) (k : Core) : State := setCore s c (advance k)

/-- An instruction at a core: the core, the bits [55:0] of its word that are reserved yet set, and the scalar registers that
it reads. -/
structure IssueForm where
  core  : CoreId
  rsv   : W56
  reads : List (BitVec 5)
  deriving DecidableEq, Repr

/-- The instruction commands of a core: of an SCU word and of ACC.SWAP the bits left when the fields that R472 names
are taken away, and the registers it reads. The reserved bits of MMA, MV, ACC.DRAIN and XFER words are among their own checks, and the
commands that take operands in place of a word carry none (LOG 6): 0 stands for all of these. -/
def issueForm : Instr → Option IssueForm
  | .add c w | .sub c w | .and c w | .or c w | .xor c w | .shl c w | .shr c w | .sar c w | .mul c w
  | .cmpEq c w | .cmpLt c w | .cmpLtu c w => some ⟨c, w &&& ~~~(mRd ||| mRa ||| mRb), [scuRa w, scuRb w]⟩
  | .addi c w | .lih c w => some ⟨c, w &&& ~~~(mRd ||| mRa ||| mImm32), [scuRa w]⟩
  | .li c w => some ⟨c, w &&& ~~~(mRd ||| mImm41), []⟩
  | .beqz c w | .bnez c w => some ⟨c, w &&& ~~~(mRa ||| mTarget), [scuRa w]⟩
  | .jmp c w => some ⟨c, w &&& ~~~mTarget, []⟩
  | .jr c w | .waitPm c w | .send c w => some ⟨c, w &&& ~~~mRa, [scuRa w]⟩
  | .loop c w => some ⟨c, w &&& ~~~(0x7FFFFFF : W56), []⟩
  | .ldS c w => some ⟨c, w &&& ~~~(mRd ||| mRa ||| mOff), [scuRa w]⟩
  | .stS c w => some ⟨c, w &&& ~~~(mRa ||| mRb ||| mOff), [scuRa w, scuRb w]⟩
  | .pmNow c w | .pmStep c w => some ⟨c, w &&& ~~~mRd, []⟩
  | .nop c w | .halt c w | .hret c w | .accSwap c w => some ⟨c, w, []⟩
  | .fence c w => some ⟨c, w &&& ~~~(0xF : W56), []⟩
  | .waitRcpt c w => some ⟨c, w &&& ~~~(mRcpt ||| (1 <<< 41) ||| mImm32), []⟩
  | .arm c w => some ⟨c, w &&& ~~~((0xF <<< 52) ||| mRa), [scuRa w]⟩
  | .rcptAdd c w => some ⟨c, w &&& ~~~(mRcpt ||| (0x1F <<< 37) ||| (0x1F <<< 32) ||| (1 <<< 31)),
      [rcReg w] ++ if rcRemote w then [rcPkg w] else []⟩
  | .rcptRead c w => some ⟨c, w &&& ~~~(mRcpt ||| (0x1F <<< 37)), []⟩
  | .hmask c w => some ⟨c, w &&& ~~~(mRa ||| 1), [scuRa w]⟩
  | .mma c _ | .mv c _ => some ⟨c, 0, []⟩
  | .vldx c .. | .mvSt c .. | .vld c .. | .vst c .. | .vfma c .. | .vadd c .. | .vmul c .. | .vmax c .. | .vmin c ..
  | .vcvt c .. => some ⟨c, 0, []⟩
  | .accDrain c w => some ⟨c, 0, if drRsc w then [29] else []⟩
  | .xferIn c w | .xferOut c w => some ⟨c, 0, [xfRa w, xfRs w]⟩
  | _ => none

/-! ### The parts of the state a command may change -/

/-- A part of the state: one field of `State`, the queue apart. -/
inductive Part where
  | dev | sched | out | free | ns | mem | hostMem | tb | clk | regs | place | caps | start | sec | ctxs | doors |
   paths | cores | ports | evicts | flights
  | run | rcpt | cons | slots | queues | stages | stats | layers | upd | commit | ckpt | offices | links | linkCtr | e2e |
   hdi | bundles | sites | hubs | pwr | pins | sh
  deriving DecidableEq, Repr

/-- Every part. -/
def Part.all : List Part :=
  [.dev, .sched, .out, .free, .ns, .mem, .hostMem, .tb, .clk, .regs, .place, .caps, .start, .sec, .ctxs, .doors,
   .paths, .cores, .ports, .evicts, .flights, .run, .rcpt, .cons, .slots, .queues, .stages, .stats, .layers, .upd, .commit,
   .ckpt, .offices, .links, .linkCtr, .e2e, .hdi, .bundles, .sites, .hubs, .pwr, .pins, .sh]

/-- Every part but those named. -/
def Part.allBut (l : List Part) : List Part := Part.all.filter fun p => !l.contains p

/-- The part is the same in both states. -/
def Part.same (s t : State) : Part → Prop
  | .dev => t.dev = s.dev
  | .sched => t.sched = s.sched
  | .out => t.out = s.out
  | .free => t.free = s.free
  | .ns => t.ns = s.ns
  | .mem => t.mem = s.mem
  | .hostMem => t.hostMem = s.hostMem
  | .tb => t.tb = s.tb
  | .clk => t.clk = s.clk
  | .regs => t.regs = s.regs
  | .place => t.place = s.place
  | .caps => t.caps = s.caps
  | .start => t.start = s.start
  | .sec => t.sec = s.sec
  | .ctxs => t.ctxs = s.ctxs
  | .doors => t.doors = s.doors
  | .paths => t.paths = s.paths
  | .cores => t.cores = s.cores
  | .ports => t.ports = s.ports
  | .evicts => t.evicts = s.evicts
  | .flights => t.flights = s.flights
  | .run => t.run = s.run
  | .rcpt => t.rcpt = s.rcpt
  | .cons => t.cons = s.cons
  | .slots => t.slots = s.slots
  | .queues => t.queues = s.queues
  | .stages => t.stages = s.stages
  | .stats => t.stats = s.stats
  | .layers => t.layers = s.layers
  | .upd => t.upd = s.upd
  | .commit => t.commit = s.commit
  | .ckpt => t.ckpt = s.ckpt
  | .offices => t.offices = s.offices
  | .links => t.links = s.links
  | .linkCtr => t.linkCtr = s.linkCtr
  | .e2e => t.e2e = s.e2e
  | .hdi => t.hdi = s.hdi
  | .bundles => t.bundles = s.bundles
  | .sites => t.sites = s.sites
  | .hubs => t.hubs = s.hubs
  | .pwr => t.pwr = s.pwr
  | .pins => t.pins = s.pins
  | .sh => t.sh = s.sh

/-- The parts that a command may change, the faults and records it can raise among them. -/
def mayChange : Instr → List Part
  | .add .. | .sub .. | .and .. | .or .. | .xor .. | .shl .. | .shr .. | .sar .. | .mul .. | .addi .. |
    .li .. | .lih .. | .cmpEq .. | .cmpLt .. | .cmpLtu .. | .beqz .. | .bnez .. | .jmp .. | .jr .. | .ldS .. |
    .pmNow .. | .pmStep .. | .nop .. | .fence .. | .waitPm .. | .waitRcpt .. | .rcptRead .. | .mma .. |
    .accSwap .. | .accDrain .. | .vldx .. | .vld .. => [.paths, .cores, .run]
  | .loop .. => [.free, .paths, .cores, .run]
  | .stS .. | .vst .. => [.mem, .paths, .cores, .run]
  | .halt .. => [.ctxs, .paths, .cores, .run]
  | .send .. | .envRelease .. => [.out, .paths, .cores, .ports, .flights, .run, .links, .linkCtr, .e2e]
  | .arm .. | .hmask .. => [.paths, .cores, .ports, .run]
  | .rcptAdd .. => [.out, .paths, .cores, .run, .rcpt, .links, .linkCtr, .e2e]
  | .hret .. => [.ctxs, .paths, .cores, .run, .rcpt]
  | .mmaAccumulate .. => [.ctxs, .paths, .cores, .stats]
  | .swap .. | .drainStart .. => [.cores]
  | .drainDone .. => [.mem, .ctxs, .cores, .stats]
  | .mv .. => [.free, .ctxs, .paths, .cores, .run, .stats]
  | .mvSt .. | .vcvt .. => [.mem, .ctxs, .paths, .cores, .run, .stats]
  | .vfma .. | .vadd .. | .vmul .. | .vmax .. | .vmin .. => [.ctxs, .paths, .cores, .run, .stats]
  | .xferIn .. | .xferOut .. => [.paths, .cores, .ports, .run, .hubs]
  | .xferComplete .. => [.mem, .clk, .paths, .cores, .ports, .run, .rcpt, .queues, .ckpt, .sites, .hubs, .sh]
  | .memorySideOperation .. => [.mem, .clk, .ctxs, .paths, .cores, .ports, .run, .ckpt, .sites, .hubs, .sh]
  | .streamStart .. => [.ctxs, .paths, .cores, .evicts, .run]
  | .consign .. => [.paths, .run, .cons, .queues]
  | .collStart .. => [.mem, .paths, .run, .rcpt, .queues, .ckpt, .offices]
  | .receiptAdd .. => [.paths, .run, .rcpt]
  | .commit .. | .memberReady =>
      [.sched, .out, .mem, .ctxs, .paths, .cores, .evicts, .run, .rcpt, .slots, .stages, .layers, .commit, .ckpt,
      .links, .linkCtr, .e2e]
  | .ckptCut .. => [.free, .mem, .paths, .run, .stages, .ckpt]
  | .stepEnd .. =>
      [.sched, .free, .mem, .tb, .clk, .paths, .cores, .ports, .run, .rcpt, .slots, .queues, .stages, .stats, .layers,
      .commit, .ckpt, .links, .hubs, .sh]
  | .schedStall .. => [.paths, .run]
  | .preemptSave .. | .umbelRestore .. => [.evicts]
  | .handOver .. => [.ctxs, .paths, .cores, .ports, .evicts, .run]
  | .ctxResume .. => [.mem, .ctxs, .paths, .cores, .ports, .evicts, .run]
  | .envelopeArrival .. | .acknowledgementArrival .. =>
      [.out, .paths, .ports, .flights, .rcpt, .links, .linkCtr, .e2e]
  | .deadLetterArrival .. => [.out, .free, .paths, .ports, .flights, .run, .rcpt, .links, .linkCtr, .e2e]
  | .envelopeRetry .. => [.out, .paths, .ports, .flights, .links, .linkCtr, .e2e]
  | .dispatch .. => [.mem, .cores, .ports]
  | .guestAnswerTimeout .. => [.out, .paths, .flights, .rcpt, .links, .linkCtr, .e2e]
  | .guestRequest .. => [.out, .mem, .paths, .flights, .rcpt, .queues, .links, .linkCtr, .e2e, .sites, .hubs]
  | .receiptAddApplied .. => [.paths, .rcpt]
  | .countUpdate .. => [.out, .rcpt]
  | .consignStart .. =>
      [.out, .free, .mem, .clk, .ctxs, .paths, .cores, .ports, .run, .cons, .slots, .queues, .stages, .stats, .layers,
      .ckpt, .links, .linkCtr, .e2e, .sites, .hubs, .sh]
  | .consignDelivered .. =>
      [.free, .mem, .clk, .ctxs, .paths, .cores, .ports, .run, .rcpt, .cons, .slots, .queues, .stages, .stats,
      .layers, .ckpt, .sites, .hubs, .sh]
  | .consignReturned .. =>
      [.mem, .ctxs, .paths, .run, .rcpt, .cons, .slots, .queues, .stages, .stats, .layers, .e2e]
  | .remotePostAck .. => [.cons, .queues, .layers]
  | .updateEntryStart .. | .upEnd .. => [.upd]
  | .updateEntryDone .. => [.rcpt, .upd]
  | .upLd .. => [.free, .mem, .clk, .ctxs, .paths, .cores, .ports, .run, .stats, .upd, .ckpt, .sites, .hubs, .sh]
  | .upSt .. =>
      [.free, .mem, .clk, .ctxs, .paths, .cores, .ports, .run, .stages, .stats, .upd, .ckpt, .sites, .hubs, .sh]
  | .upAdd .. | .upSub .. | .upMul .. | .upFma .. | .upDiv .. | .upSqrt .. | .upMax .. | .upMin .. |
    .upAbs .. | .upPows .. | .upRand .. | .upBsum .. | .upBmax .. => [.free, .ctxs, .upd]
  | .upBar .. => [.ctxs, .upd]
  | .voteWindowExpiry | .doubtDeadline =>
      [.sched, .out, .ctxs, .paths, .cores, .evicts, .run, .rcpt, .commit, .links, .linkCtr, .e2e]
  | .confirmDeadline => [.out, .paths, .commit, .links, .linkCtr, .e2e]
  | .commitVote .. | .commitConfirm .. | .commitAbort .. | .commitQuery .. | .commitQueryAnswer .. |
    .piece .. | .collAbort .. | .writePacket .. | .envelopePacket .. | .rcptAddPacket .. | .e2eAck .. | .rsp .. =>
      Part.allBut [.dev, .free, .ns, .hostMem, .tb, .regs, .place, .caps, .start, .sec, .doors, .upd, .hdi, .bundles, .pwr, .pins]
  | .rollbackRestore =>
      [.mem, .clk, .paths, .cores, .ports, .run, .rcpt, .cons, .slots, .queues, .stages, .stats, .layers, .upd,
      .commit, .offices, .sh]
  | .generationSealed => [.paths, .rcpt, .ckpt]
  | .collectiveStarts .. =>
      [.out, .mem, .clk, .ctxs, .paths, .cores, .ports, .run, .rcpt, .queues, .stats, .ckpt, .offices, .links,
      .linkCtr, .e2e, .sites, .hubs, .sh]
  | .collTimeout .. => [.out, .paths, .offices, .links, .linkCtr, .e2e]
  | .hdiFrameReceived .. => [.out, .paths, .ckpt, .hdi, .bundles, .sh]
  | .hdiRetrainDone .. => [.sched, .paths, .cores, .run, .ckpt, .hdi, .bundles, .sites, .sh]
  | .flitReceived .. | .ackTimeout .. | .retrainDone .. | .retrainTimeout .. | .trainingDone .. |
    .trainingTimeout .. => [.out, .paths, .ckpt, .links, .linkCtr, .sh]
  | .trainingStart .. => [.out, .links]
  | .widthChangeDone .. | .packetTransit .. | .linkCtl .. => [.out, .paths, .links, .linkCtr]
  | .busyResendTimer .. | .e2eAckTimer .. => [.out, .paths, .links, .linkCtr, .e2e]
  | .requestTimeout .. =>
      [.sched, .out, .mem, .ctxs, .paths, .cores, .evicts, .flights, .run, .rcpt, .cons, .slots, .stages, .layers,
      .commit, .ckpt, .offices, .links, .linkCtr, .e2e, .sites]
  | .streamWindowIdle .. => [.e2e]
  | .timing .. => [.out, .tb, .paths, .links, .linkCtr, .sh]
  | .timingFrameSend | .probeSend => [.out, .tb, .paths, .links]
  | .probe .. => [.out, .paths, .links]
  | .probeReply .. | .tbInReturn => [.tb]
  | .stop .. | .quiesce .. | .urgentQuiesce .. | .urgentStop .. =>
      [.sched, .out, .regs, .ctxs, .paths, .cores, .evicts, .run, .rcpt, .commit, .links, .linkCtr, .e2e]
  | .alarm .. | .log .. | .trace .. | .recordRelease | .mbLinkSetWidth .. =>
      [.out, .hostMem, .doors, .paths, .links]
  | .courierLost .. => [.tb, .paths, .links]
  | .correctionPulse => [.out, .tb, .clk]
  | .tbLock => [.free, .tb, .paths]
  | .tbInLoss | .holdoverExpiry | .tbUpstreamWrite .. => [.tb, .paths]
  | .recordDelivery .. => [.out, .hostMem, .doors, .paths]
  | .interruptGapExpiry .. => [.out, .doors]
  | .mbDoorbell .. | .evHeadWrite .. | .cmdTimeout .. => [.doors, .paths]
  | .mbCtlWrite .. | .evCtlWrite .. => [.doors]
  | .mbNop .. | .mbCopy .. | .mbLoad .. | .mbCkptHdr .. | .mbRestoreLocal .. | .mbRestoreBuddy .. |
    .mbStateDormant .. => [.hostMem, .doors, .paths]
  | .mbUnload .. =>
      [.sched, .hostMem, .ctxs, .doors, .paths, .cores, .ports, .evicts, .run, .rcpt, .cons, .slots, .queues, .stages,
      .stats, .layers, .upd, .commit, .ckpt, .offices, .hubs, .sh]
  | .mbStart .. => [.sched, .mem, .hostMem, .ctxs, .doors, .paths, .run, .rcpt, .queues, .commit, .ckpt]
  | .mbResume .. => [.sched, .mem, .hostMem, .doors, .paths, .run, .rcpt, .queues]
  | .mbRegion .. | .mbGuaranteeAdd .. | .mbGuaranteeRemove .. => [.hostMem, .doors, .paths, .hubs]
  | .mbColl .. => [.hostMem, .doors, .paths, .offices]
  | .mbLinkDown .. | .mbLinkRetrain .. => [.out, .hostMem, .doors, .paths, .links, .linkCtr]
  | .mbLinkCourierRetrain .. => [.hostMem, .doors, .paths, .links]
  | .mbBuddyLost .. => [.hostMem, .doors, .paths, .ckpt]
  | .mbConsignReset .. => [.hostMem, .doors, .paths, .cons, .queues]
  | .mbCoreClear .. => [.hostMem, .doors, .paths, .cores]
  | .mbCoreRetire .. => [.free, .mem, .hostMem, .clk, .doors, .paths, .cores, .ports, .run, .ckpt, .sites, .sh]
  | .mbStateReady .. =>
      [.hostMem, .clk, .regs, .start, .sec, .doors, .paths, .ports, .commit, .offices, .linkCtr, .e2e, .hdi, .sites,
      .hubs, .pwr, .pins, .sh]
  | .longCommandComplete .. => Part.allBut [.free, .ns, .tb, .regs, .place, .caps, .sec, .linkCtr, .pins]
  | .bar2Access .. =>
      [.out, .mem, .clk, .regs, .paths, .cores, .ports, .run, .rcpt, .queues, .ckpt, .sites, .hubs, .sh]
  | .setupLock .. | .lockHitClear => [.regs]
  | .sysPlaceWrite .. => [.out, .regs, .place, .paths, .links, .linkCtr]
  | .tbCfgWrite .. => [.tb, .clk]
  | .llmModeWrite .. => [.mem, .regs]
  | .ctxCfgWrite .. => [.regs, .ctxs]
  | .hiStickyClear .. | .loStickyClear .. => [.queues]
  | .wmStickyClear .. => [.rcpt]
  | .registerWrite .. =>
      [.sched, .out, .free, .mem, .tb, .clk, .regs, .place, .sec, .ctxs, .doors, .paths, .cores, .evicts, .run, .rcpt,
      .commit, .links, .linkCtr, .e2e, .pwr]
  | .pcieReset .. => [.doors, .pins]
  | .inputUndervolt | .inputOvervolt | .pwrgdLow => Part.all
  | .bladeOvercurrent | .rstNLow | .sysclkLost =>
      Part.allBut [.out, .free, .ns, .hostMem, .regs, .place, .caps, .sec, .linkCtr, .sites]
  | .bladeLost .. | .throttleOngoing .. => [.paths, .pwr]
  | .capPeriod .. | .currentPeriod .. | .dvfsPeriod | .droop .. | .level1Step .. | .coolantClear |
    .vclSlewComplete .. => [.free, .clk, .paths, .pwr]
  | .droopRecovery .. => [.free, .clk, .paths, .pwr, .sh]
  | .sensorRead .. => [.free, .clk, .paths, .ckpt, .pwr, .sh]
  | .criticalTemperature .. | .flowLossTimeout | .thermalTrip .. =>
      Part.allBut [.free, .ns, .hostMem, .place, .caps, .sec, .linkCtr, .sites]
  | .hbmTempReport .. => [.free, .clk, .paths, .ckpt, .hubs, .pwr, .sh]
  | .flowOkDeassert | .flowOkAssert => [.free, .clk, .paths, .pwr, .pins]
  | .haltComplete =>
      Part.allBut [.free, .ns, .hostMem, .tb, .regs, .place, .caps, .sec, .doors, .linkCtr, .sites, .pins, .sh]
  | .rstNHigh .. => [.start, .pins]
  | .softStartOvercurrent .. => [.pwr]
  | .railRetry .. | .phaseOvercurrent .. =>
      Part.allBut [.out, .free, .ns, .hostMem, .regs, .place, .caps, .sec, .linkCtr]
  | .imbalanceWindow .. => [.run, .hubs]
  | .llmFlushDone .. => [.hubs]
  | .migrationChunkDone .. | .shortfallPeriodic .. => [.paths, .hubs]
  | .repairRecordWrite => [.paths, .sh]
  | .powerGood .. => [.dev, .start, .pwr, .pins, .sh]
  | .shordoBoot .. => [.tb, .regs, .place, .caps, .start, .sec, .ctxs, .doors, .paths, .pwr, .sh]
  | .railRamp =>
      [.clk, .regs, .start, .sec, .paths, .ports, .commit, .offices, .linkCtr, .e2e, .hdi, .sites, .hubs, .pwr, .pins,
      .sh]
  | .hdiStage .. => Part.allBut [.out, .free, .ns, .hostMem, .regs, .place, .caps, .linkCtr]
  | .spareMapStage => [.clk, .start, .offices, .hubs, .sh]
  | .hbmTraining .. => [.start, .paths, .run, .ckpt, .hubs, .sh]
  | .selfTest .. => [.clk, .start, .paths, .cores, .ckpt, .offices, .sites, .hubs, .sh]
  | .linkStage => [.out, .clk, .place, .start, .paths, .cores, .links]
  | .timebaseStage => [.start]
  | .hostStage => [.dev, .sched, .free, .clk, .caps, .start, .paths, .pwr, .sh]
  | .placeRead | .repairRead .. => [.out]
  | .placeWrite .. | .repairClear .. | .keystoreWrite .. | .firmwareUpdate .. | .idcode => [.out, .sh]
  | .extLimit .. => [.out, .free, .clk, .paths, .pwr]
  | .stateReady =>
      [.out, .clk, .regs, .start, .sec, .paths, .ports, .commit, .offices, .linkCtr, .e2e, .hdi, .sites, .hubs, .pwr,
      .pins, .sh]
  | .stateStandby => Part.allBut [.free, .ns, .hostMem, .regs, .place, .caps, .sec, .linkCtr, .sites]
  | .debugUnlock | .getVersion .. | .getCapabilities .. | .negotiateAlgorithms .. | .getDigests .. |
    .getCertificate .. | .challenge .. | .getMeasurements .. => [.out, .free, .sh]
  | .debugUnlockResponse .. => [.out, .sec, .sh]
  | .bypass | .samplePreload | .extest | .clamp | .highz | .smbusFallback => [.sh]
  | .clusterClockLoss .. => [.mem, .clk, .paths, .cores, .ports, .run, .ckpt, .sites, .sh]
  | .localWriteComplete => [.out, .paths, .slots, .ckpt, .links, .linkCtr, .e2e]
  | .newEpoch .. => [.links]
  | .perstnDeassert .. => [.out, .pins]

end Sys2Proof.Machine
end

