-- ==== Sys2Proof/WellFormed.lean ====
section
/-! DEFINITION. Which commands the environment can send: the shape limits the spec puts on the operands themselves. -/

namespace Sys2Proof

/-- The `cluster` field of a logical core is below 160 (R12). -/
def coreWf (c : CoreId) : Bool := (c.extractLsb' 4 8).toNat < 160

/-- The 16-byte header and the bytes after it make 1 to 64 units of 64 bytes (R256). -/
def packetWf (p : Packet) : Bool := (p.data.length + 16) % 64 == 0 && decide (p.data.length + 16 ≤ 64 * 64)

/-- A guest request's lengths (R249): an envelope carries at most 256 bytes, an access at most 64 KiB. -/
def guestWf : GuestReq → Bool
  | .envelope _ _ p => decide (p.length ≤ 256)
  | .rcptAdd .. => true
  | .read _ n => decide (n ≤ 65536)
  | .write _ d => decide (d.length ≤ 65536)
  | .mso _ _ _ _ d => decide (d.length % 16 = 0) && decide (d.length ≤ 65536)

/-- A command is well formed: the core exists, a packet is made of whole units, a flit of seven slots of 64 bytes (R255), an access carries its own bytes, a
register access is of 4 or 8 bytes (R340), a wire of an HDI port is one of its 528 (R405). Every other operand's type admits only values the command can carry. -/
def wellFormed : Instr → Bool
  | .add c _ | .sub c _ | .and c _ | .or c _ | .xor c _ | .shl c _ | .shr c _ | .sar c _ | .mul c _ | .addi c _
  | .li c _ | .lih c _ | .cmpEq c _ | .cmpLt c _ | .cmpLtu c _ | .beqz c _ | .bnez c _ | .jmp c _ | .jr c _
  | .loop c _ | .ldS c _ | .stS c _ | .pmNow c _ | .pmStep c _ | .nop c _ | .halt c _ | .fence c _ | .waitPm c _
  | .waitRcpt c _ | .send c _ | .arm c _ | .rcptAdd c _ | .rcptRead c _ | .hmask c _ | .hret c _ | .mma c _
  | .accSwap c _ | .accDrain c _ | .mv c _ | .xferIn c _ | .xferOut c _ => coreWf c
  | .mmaAccumulate c | .swap c | .drainStart c | .drainDone c | .xferComplete c _ _ | .dispatch c => coreWf c
  | .vldx c .. | .mvSt c .. | .vld c .. | .vst c .. | .vfma c .. | .vadd c .. | .vmul c .. | .vmax c .. | .vmin c ..
  | .vcvt c .. => coreWf c
  | .envelopeRetry c _ => coreWf c
  | .guestRequest _ r => guestWf r
  | .flitReceived _ f => f.slots.length == 7 && f.slots.all fun x => x.length == 64
  | .writePacket _ p | .envelopePacket _ p | .rcptAddPacket _ p | .e2eAck _ p | .rsp _ p | .packetTransit _ _ p
  | .piece _ p _ | .collAbort _ p | .commitVote _ p | .commitConfirm _ p | .commitAbort _ p | .commitQuery _ p
  | .commitQueryAnswer _ p => packetWf p
  | .bar2Access w _ n d _ => !w || d.length == n
  | .registerWrite _ _ n _ => n == 4 || n == 8
  | .hdiRetrainDone _ _ ws _ => ws.all fun w => decide (w.2.toNat < 528)
  | _ => true

end Sys2Proof
end

