-- ==== Sys2Proof/Certificates/Slice0/Obligations.lean ====
section
/-! DEFINITION. The statements for the provers. -/

open Sys2Proof Sys2Proof.Machine

/-! ### The machine as a whole -/

/-- A step takes the command at the front of the queue and answers what `exec` answers on the state with the queue's rest. -/
def Obligations.StepRunsFrontCommand : Prop :=
  ∀ (s : State) (i : Instr) (rest : List Instr), s.pending = i :: rest →
    step s = exec i { s with pending := rest }

/-- The model's choice (LOG 1): on an empty queue a step is one nanosecond. The nanosecond count rises by 1, what was sent stays
sent, and only the timebase, the clock domains' counters, the courier lanes and the frames that wait for them, Shordo's sensors
and its queue of alerts, and the count of free values can change beside it. -/
def Obligations.IdleStepIsOneNanosecond : Prop :=
  ∀ s : State, s.pending = [] →
    ∃ t, step s = .next t ∧ t.ns = s.ns + 1 ∧ s.out <+: t.out ∧
      { t with ns := s.ns, out := s.out, free := s.free, tb := s.tb, clk := s.clk, paths := s.paths, links := s.links,
               sh := s.sh } = s

/-- What the spec gives at reset: the device is Off with no schedule and no alarm or interrupt sent, the lock of the setup
registers is open, only context 0 is valid (with `lc` and `pkg_ctl`), the timebase is Unlocked with the default beat period
and no source, the power registers hold their defaults, and the flow table is the default one. -/
def Obligations.ResetLeavesTheSpecifiedState : Prop :=
  State.reset.dev = .off ∧ State.reset.sched = .none ∧ State.reset.out = [] ∧ State.reset.run.image = none ∧
    State.reset.regs.lock = false ∧
    cfgValid (ctxOf State.reset 0).cfg = true ∧ cfgLc (ctxOf State.reset 0).cfg = true ∧
    cfgPkgCtl (ctxOf State.reset 0).cfg = true ∧ (∀ c, c ≠ 0 → (ctxOf State.reset c).cfg = 0) ∧
    State.reset.tb.st = .unlocked ∧ State.reset.tb.beatPeriod = 1000000 ∧ State.reset.tb.source = 0xF ∧
    State.reset.pwr.cap = 1200 ∧ State.reset.pwr.fSet = 50 ∧ State.reset.regs.traceShift = 8 ∧
    State.reset.regs.fwdAlarms = true ∧ State.reset.run.flows = Run.defaultFlows

/-- Both memories are in their canonical form at reset. -/
def Obligations.ResetMemoryIsCanonical : Prop := memoryOk State.reset

/-- Whatever command runs, or none, a step keeps both memories in their canonical form: equal memories stay equal data. -/
def Obligations.EveryStepKeepsMemoryCanonical : Prop :=
  ∀ s t : State, memoryOk s → step s = .next t → memoryOk t

/-- The frame of every command: the queue and every part of the state outside `mayChange` are as before. -/
def Obligations.CommandsChangeOnlyTheirParts : Prop :=
  ∀ (i : Instr) (s t : State), exec i s = .next t →
    t.pending = s.pending ∧ ∀ p : Part, p ∉ mayChange i → p.same s t

/-- Every well-formed command answers a next state in every state: none is refused, and none faults. The only stop of the
machine is a command that names a core whose `cluster` field is 160 to 255 (R12). -/
def Obligations.OnlyAbsentCoresStopTheMachine : Prop :=
  (∀ (i : Instr) (s : State), wellFormed i = true → ∃ t, exec i s = .next t) ∧
  (∀ (i : Instr) (s : State),
    (∃ t, exec i s = .next t) ∨ ∃ c : CoreId, 160 ≤ (c.extractLsb' 4 8).toNat ∧ exec i s = .fault (.noSuchCore c))


/-! ### Issue and the scalar control unit -/

/-- An instruction issues only when its core runs, what held it has been met, and no drain still owes one of the registers it
reads its tag (R52, R53): otherwise nothing happens. -/
def Obligations.InstructionWaitsUntilItMayIssue : Prop :=
  ∀ (i : Instr) (f : IssueForm) (s : State), issueForm i = some f → coreExists f.core = true →
    ((coreOf s f.core).phase ≠ .running ∨ holdMet s f.core (coreOf s f.core) = false ∨
      ((coreOf s f.core).pc.toNat < 2048 ∧ f.reads.any (regPending (coreOf s f.core)) = true)) →
    exec i s = .next s

/-- A non-zero reserved bit of an SCU word faults at issue with E_RESERVED, before any other check, and a stream that has gone
past its last word of the instruction store faults with E_RANGE (the latter DEDUCED from R50 and R55, LOG 33). -/
def Obligations.ReservedBitsAndStoreEndFaultAtIssue : Prop :=
  ∀ (i : Instr) (f : IssueForm) (s : State), issueForm i = some f →
    (canIssue s f.core f.reads → f.rsv ≠ 0 → exec i s = .next (faultAt s f.core eReserved)) ∧
    (coreReady s f.core → 2048 ≤ (coreOf s f.core).pc.toNat → exec i s = .next (coreFault s f.core eRange))

/-- What a core fault does: the SCU stops, core.fault is posted with the core's source id, its cluster's postmark, the word
index of the instruction and the code, and `step_bad` of the current step is set (R56, R201). -/
def Obligations.CoreFaultStopsTheCore : Prop :=
  ∀ (s : State) (c : CoreId) (e : Err), ∃ r : Rec, ∃ t, coreFault s c e = t ∧
    t.cores = tput Core.reset s.cores c.toNat { coreOf s c with phase := .faulted } ∧
    t.paths = { s.paths with posted := s.paths.posted ++ [r] } ∧
    r.code = evCoreFault ∧ r.cls = .alarm ∧ r.err = e ∧ r.source = srcCore s c ∧ r.pm = coreClock s c ∧
    r.ctx = coreCtx s c ∧ r.body.extractLsb' 0 16 = (coreOf s c).pc.setWidth 16 ∧ r.body.extractLsb' 16 8 = e ∧
    t.run.stepBad.contains s.run.step = true ∧
    { t with cores := s.cores, paths := s.paths, run := { t.run with stepBad := s.run.stepBad } } = s

/-- s0 reads zero and writes to it are ignored; any other register reads what was last written to it, and a write leaves every
other register alone. -/
def Obligations.ScalarRegisterZeroReadsZero : Prop :=
  ∀ (k : Core) (i j : BitVec 5) (v : Word),
    sreg k 0 = 0 ∧ setSreg k 0 v = k ∧
    (i ≠ 0 → tabWf 0 k.s = true → sreg (setSreg k i v) i = v) ∧ (i ≠ j → sreg (setSreg k i v) j = sreg k j) ∧
    { setSreg k i v with s := k.s } = k ∧ tabWf 0 Core.reset.s = true ∧
    (tabWf 0 k.s = true → tabWf 0 (setSreg k i v).s = true)

/-- The next word: the following one, except where a hardware loop ends at this word, which goes round while iterations are
left and else ends, an outer loop that ends here after it (R472, R54).
BEQZ, BNEZ, JMP and JR go to their target word, or past it where the branch is not taken; JR faults with E_RANGE where
`ra`[63:11] is not zero (R472).
LOOP: an `end` not after its word faults with E_RANGE; a `count` of 0 goes on at the word after `end` (R472), or where an outer
loop that ends there goes on (DEDUCED, LOG 33); otherwise the words up to `end` run `count` times, nested at most 2 deep. A third nested
loop is a core fault, whose code is a free value (LOG 11). -/
def Obligations.BranchesAndLoops : Prop :=
  (∀ (k : Core) (e f : LoopEnt),
    (k.loops = [] → advance k = { k with pc := k.pc + 1 }) ∧
    (k.loops = [e] → e.last ≠ k.pc → advance k = { k with pc := k.pc + 1 }) ∧
    (k.loops = [e] → e.last = k.pc → 1 < e.left.toNat →
      advance k = { k with pc := e.first, loops := [{ e with left := e.left - 1 }] }) ∧
    (k.loops = [e] → e.last = k.pc → e.left.toNat ≤ 1 → advance k = { k with pc := k.pc + 1, loops := [] }) ∧
    (k.loops = [e, f] → e.last = k.pc → f.last = k.pc → e.left.toNat ≤ 1 → 1 < f.left.toNat →
      advance k = { k with pc := f.first, loops := [{ f with left := f.left - 1 }] }) ∧
    (k.loops = [e, f] → e.last = k.pc → f.last ≠ k.pc → e.left.toNat ≤ 1 →
      advance k = { k with pc := k.pc + 1, loops := [f] })) ∧
  (∀ (s : State) (c : CoreId) (w : W56),
    let k := issued s c
    let a := sreg k (scuRa w)
    let jumpTo := fun (t : BitVec 11) => (Host.Outcome.next (setCore s c { k with pc := t.setWidth 12 }) : Res)
    (canIssue s c [scuRa w] → w &&& ~~~(mRa ||| mTarget) = 0 →
      exec (.beqz c w) s = (if a = 0 then jumpTo (scuTarget w) else .next (after s c k)) ∧
      exec (.bnez c w) s = (if a = 0 then .next (after s c k) else jumpTo (scuTarget w))) ∧
    (canIssue s c [] → w &&& ~~~mTarget = 0 → exec (.jmp c w) s = jumpTo (scuTarget w)) ∧
    (canIssue s c [scuRa w] → w &&& ~~~mRa = 0 →
      exec (.jr c w) s = if a.toNat < 2048 then jumpTo (BitVec.ofNat 11 a.toNat) else .next (faultAt s c eRange))) ∧
  (∀ (s : State) (c : CoreId) (w : W56), canIssue s c [] → w &&& ~~~(0x7FFFFFF : W56) = 0 →
    let k := issued s c
    let last : BitVec 12 := (scuEnd w).setWidth 12
    (last.toNat ≤ k.pc.toNat → exec (.loop c w) s = .next (faultAt s c eRange)) ∧
    (k.pc.toNat < last.toNat → scuCount w = 0 → exec (.loop c w) s = .next (after s c { k with pc := last })) ∧
    (k.pc.toNat < last.toNat → scuCount w ≠ 0 → k.loops.length < 2 →
      exec (.loop c w) s = .next (setCore s c { k with
        pc := k.pc + 1, loops := { first := k.pc + 1, last := last, left := scuCount w } :: k.loops })) ∧
    (k.pc.toNat < last.toNat → scuCount w ≠ 0 → 2 ≤ k.loops.length → ∃ e,
      exec (.loop c w) s = .next (faultAt { s with free := s.free + 1 } c e)))

/-- ADD, SUB, AND, OR, XOR, SHL, SHR, SAR, MUL, CMP.EQ, CMP.LT and CMP.LTU write the result of R472 to `rd` and go to the next
word; nothing else changes.
ADDI, LI, LIH, PM.NOW, PM.STEP, RCPT.READ and NOP: the value each writes, if any, and the next word (R472, R54, R182). -/
def Obligations.ScalarInstructionsWriteTheirResult : Prop :=
  (∀ (s : State) (c : CoreId) (w : W56), canIssue s c [scuRa w, scuRb w] → w &&& ~~~(mRd ||| mRa ||| mRb) = 0 →
    let k := issued s c
    let a := sreg k (scuRa w)
    let b := sreg k (scuRb w)
    let res := fun (v : Word) => (Host.Outcome.next (after s c (setSreg k (scuRd w) v)) : Res)
    exec (.add c w) s = res (BitVec.ofNat 64 (a.toNat + b.toNat)) ∧
    exec (.sub c w) s = res (BitVec.ofInt 64 (a.toInt - b.toInt)) ∧
    exec (.and c w) s = res (a &&& b) ∧ exec (.or c w) s = res (a ||| b) ∧ exec (.xor c w) s = res (a ^^^ b) ∧
    exec (.shl c w) s = res (BitVec.ofNat 64 (a.toNat * 2 ^ (b.toNat % 64))) ∧
    exec (.shr c w) s = res (BitVec.ofNat 64 (a.toNat / 2 ^ (b.toNat % 64))) ∧
    exec (.sar c w) s = res (BitVec.ofInt 64 (a.toInt / 2 ^ (b.toNat % 64))) ∧
    exec (.mul c w) s = res (BitVec.ofNat 64 (a.toNat * b.toNat)) ∧
    exec (.cmpEq c w) s = res (if a = b then 1 else 0) ∧
    exec (.cmpLt c w) s = res (if a.toInt < b.toInt then 1 else 0) ∧
    exec (.cmpLtu c w) s = res (if a.toNat < b.toNat then 1 else 0)) ∧
  (∀ (s : State) (c : CoreId) (w : W56),
    let k := issued s c
    let res := fun (r : BitVec 5) (v : Word) => (Host.Outcome.next (after s c (setSreg k r v)) : Res)
    (canIssue s c [scuRa w] → w &&& ~~~(mRd ||| mRa ||| mImm32) = 0 →
      exec (.addi c w) s = res (scuRd w) (BitVec.ofInt 64 ((sreg k (scuRa w)).toInt + (scuImm32 w).toInt)) ∧
      exec (.lih c w) s =
        res (scuRd w) (BitVec.ofNat 64 ((scuImm32 w).toNat * 2 ^ 32 + (sreg k (scuRa w)).toNat % 2 ^ 32))) ∧
    (canIssue s c [] →
      (w &&& ~~~(mRd ||| mImm41) = 0 → exec (.li c w) s = res (scuRd w) (BitVec.ofInt 64 (scuImm41 w).toInt)) ∧
      (w &&& ~~~mRd = 0 → exec (.pmNow c w) s = res (scuRd w) (coreClock s c) ∧
        exec (.pmStep c w) s = res (scuRd w) (stepBase s s.run.step)) ∧
      (w &&& ~~~(mRcpt ||| (0x1F <<< 37)) = 0 → exec (.rcptRead c w) s =
        res (rcReg w) ((copyOf s (c.toNat / 4096) (scuRcpt w)).setWidth 64)) ∧
      (w = 0 → exec (.nop c w) s = .next (after s c k))))

/-- LD.S and ST.S at `ra` + `off` sign-extended: a misaligned address faults with E_ALIGN, else one beyond the scratchpad with
E_RANGE; LD.S writes the 8 bytes there, the lowest first, to `rd`; ST.S stores `rb` there, and every byte of package memory
outside those 8 reads as before (R472, R3). -/
def Obligations.ScalarLoadsAndStores : Prop :=
  ∀ (s : State) (c : CoreId) (w : W56),
    let k := issued s c
    let a := sreg k (scuRa w) + (scuOff w).signExtend 64
    let at_ := 0x020000000000 + c.toNat * 131072 + a.toNat
    (canIssue s c [scuRa w] → w &&& ~~~(mRd ||| mRa ||| mOff) = 0 →
      (a.toNat % 8 ≠ 0 → exec (.ldS c w) s = .next (faultAt s c eAlign)) ∧
      (a.toNat % 8 = 0 → 131072 ≤ a.toNat → exec (.ldS c w) s = .next (faultAt s c eRange)) ∧
      (a.toNat % 8 = 0 → a.toNat < 131072 →
        exec (.ldS c w) s = .next (after s c (setSreg k (scuRd w) (leWord 64 (memRead s.mem at_ 8)))))) ∧
    (canIssue s c [scuRa w, scuRb w] → w &&& ~~~(mRa ||| mRb ||| mOff) = 0 →
      (a.toNat % 8 ≠ 0 → exec (.stS c w) s = .next (faultAt s c eAlign)) ∧
      (a.toNat % 8 = 0 → 131072 ≤ a.toNat → exec (.stS c w) s = .next (faultAt s c eRange)) ∧
      (a.toNat % 8 = 0 → a.toNat < 131072 → ∃ t, exec (.stS c w) s = .next t ∧
        t.cores = (after s c k).cores ∧
        (Memory.wf s.mem = true → ∀ j < 8, memByte t.mem (at_ + j) = (sreg k (scuRb w)).extractLsb' (8 * j) 8) ∧
        (∀ b, b < at_ ∨ at_ + 8 ≤ b → memByte t.mem b = memByte s.mem b) ∧
        { t with cores := s.cores, mem := s.mem } = s))

/-- FENCE, WAIT.PM and WAIT.RCPT complete at once and hold the core's issue: until the named engines hold no earlier instruction
that still has scratchpad accesses to make, until the core's cluster shows the postmark, until the core's copy of the receipt
has reached its target, step-relative with `rel` (R53, R54, R178). In a handler the two waits fault with E_MODE (R173).
HALT outside a handler ends the stream: the core stands idle at the next word, or takes the start at the head of its queue
where no envelope waits, with the start's address and stream. In a handler HALT faults with E_MODE. HRET outside a handler
faults with E_MODE; in one it makes the envelope's receipt add and returns to the recorded word and hold; where the core was
idle it stands idle again, or takes the start at the head of its queue where no envelope waits (R51, R172, R173). -/
def Obligations.WaitsAndEndsOfStreams : Prop :=
  (∀ (s : State) (c : CoreId) (k : Core),
    (∀ m, k.hold = .fence m → (holdMet s c k = true ↔
      (m.getLsbD 0 = true → ∀ o ∈ k.mxaQ, ∃ q, o = .swap q) ∧
      (m.getLsbD 1 = true → k.drainQ = [] ∧ k.drain = []) ∧
      (m.getLsbD 3 = true → ∀ x ∈ (portOf s c).xfers, x.sent = true))) ∧
    (∀ p, k.hold = .pm p → (holdMet s c k = true ↔ p = coreClock s c ∨ 2 ^ 63 ≤ (p - coreClock s c).toNat)) ∧
    (∀ r v, k.hold = .rcpt r v → (holdMet s c k = true ↔ (copyOf s (c.toNat / 4096) r - v).toNat < 2 ^ 31))) ∧
  (∀ (s : State) (c : CoreId) (w : W56),
    let k := issued s c
    let step := match k.stream with | some st => st.step | none => s.run.step
    let target := if w.getLsbD 41 then
      BitVec.ofNat 32 ((scuImm32 w).toNat + step.toNat * (rcptAdv s (scuRcpt w)).toNat) else scuImm32 w
    (canIssue s c [] → w &&& ~~~(0xF : W56) = 0 →
      exec (.fence c w) s = .next (after s c { k with hold := .fence (scuMask w) })) ∧
    (canIssue s c [scuRa w] → w &&& ~~~mRa = 0 → k.handler = none →
      exec (.waitPm c w) s = .next (after s c { k with hold := .pm (sreg k (scuRa w)) })) ∧
    (canIssue s c [scuRa w] → w &&& ~~~mRa = 0 → k.handler.isSome = true →
      exec (.waitPm c w) s = .next (faultAt s c eMode)) ∧
    (canIssue s c [] → w &&& ~~~(mRcpt ||| (1 <<< 41) ||| mImm32) = 0 → k.handler = none →
      exec (.waitRcpt c w) s = .next (after s c { k with hold := .rcpt (scuRcpt w) target })) ∧
    (canIssue s c [] → w &&& ~~~(mRcpt ||| (1 <<< 41) ||| mImm32) = 0 → k.handler.isSome = true →
      exec (.waitRcpt c w) s = .next (faultAt s c eMode))) ∧
  (∀ (s : State) (c : CoreId), canIssue s c [] →
    let k := issued s c
    let takesStart := fun (i : Instr) => ∀ e q, k.startQ = e :: q → (portOf s c).pillar = [] →
      ∃ t k', exec i s = .next t ∧ coreOf t c = k' ∧ k'.phase = .running ∧ k'.pc = e.addr.setWidth 12 ∧
        k'.stream = some e.stream ∧ k'.startQ = q ∧ k'.loops = [] ∧ k'.handler = none ∧ k'.hold = .none ∧ k'.s = k.s ∧
        k'.acc = k.acc ∧ k'.v = k.v ∧ (∀ d : CoreId, d ≠ c → coreOf t d = coreOf s d) ∧
        { t with cores := s.cores, ctxs := s.ctxs } = s
    (k.handler.isSome = true → exec (.halt c 0) s = .next (faultAt s c eMode)) ∧
    (k.handler = none → k.startQ = [] →
      exec (.halt c 0) s = .next (setCore (after s c k) c { advance k with phase := .idle, halted := true })) ∧
    (k.handler = none → takesStart (.halt c 0)) ∧
    (k.handler = none → exec (.hret c 0) s = .next (faultAt s c eMode)) ∧
    (∀ h, k.handler = some h → h.dstAdd = false → h.wasIdle = false →
      exec (.hret c 0) s = .next (setCore s c { k with handler := none, pc := h.pc, hold := h.hold })) ∧
    (∀ h, k.handler = some h → h.dstAdd = true → h.wasIdle = false → mayAdd s c h.dst = true →
      exec (.hret c 0) s = .next (addReceipt (setCore s c { k with handler := none, pc := h.pc, hold := h.hold })
        h.dst 1 (srcCore s c))) ∧
    (∀ h, k.handler = some h → h.dstAdd = false → h.wasIdle = true → k.startQ = [] →
      let k1 := { k with handler := none, pc := h.pc, hold := h.hold }
      exec (.hret c 0) s = .next (setCore (setCore s c k1) c { k1 with phase := .idle, hold := .none, halted := true })) ∧
    (∀ h, k.handler = some h → h.dstAdd = false → h.wasIdle = true → takesStart (.hret c 0)))

/-! ### The core's engines -/

/-- SEND, ARM, HMASK and RCPT.ADD. SEND with all 16 outbox entries busy stalls; else its first failing check of R164 is a core
fault, or the prepared envelope leaves through the lowest free entry, which records its address and first postmark. ARM gives
envelope slot `slot` its address. HMASK sets or clears the mask bit of the handlers named in `ra` and of no other. RCPT.ADD
with a bad package, increment or permission faults; else an add to the own package sets out to the receipt unit. -/
def Obligations.EnvelopeInstructions : Prop :=
  ∀ (s : State) (c : CoreId) (w : W56),
    let k := issued s c
    let a := sreg k (scuRa w)
    (canIssue s c [scuRa w] → w &&& ~~~mRa = 0 →
      (freeEntry (portOf s c) = none → exec (.send c w) s = .next s) ∧
      (∀ i e, freeEntry (portOf s c) = some i → sendFault s c a.toNat = some e → exec (.send c w) s = .next (faultAt s c e)) ∧
      (∀ i, freeEntry (portOf s c) = some i → sendFault s c a.toNat = none → ∃ t, exec (.send c w) s = .next t ∧
        t.cores = (after s c k).cores ∧ t.mem = s.mem ∧
        t.ports = tput Port.reset s.ports c.toNat { portOf s c with
          outbox := tput none (portOf s c).outbox i (some ⟨a, 0, coreClock s c, none⟩)
          envSent := satInc (portOf s c).envSent } ∧
        (ehDstPkg (hdrAt s c a.toNat) = s.place.addr → ∃ h p, t.flights = s.flights ++ [.env h p (Fin.ofNat 16 i) none] ∧
          p = spRead s c (a.toNat + 64) (ehLen (hdrAt s c a.toNat)).toNat))) ∧
    (canIssue s c [scuRa w] → w &&& ~~~((0xF <<< 52) ||| mRa) = 0 →
      exec (.arm c w) s = .next { after s c k with ports := tput Port.reset s.ports c.toNat { portOf s c with
        slots := tput none (portOf s c).slots (w.extractLsb' 52 4).toNat (some a) } }) ∧
    (canIssue s c [scuRa w] → w &&& ~~~(mRa ||| 1) = 0 → ∃ ents,
      exec (.hmask c w) s = .next { after s c k with ports := tput Port.reset s.ports c.toNat { portOf s c with
        blk := { (portOf s c).blk with ents := ents } } } ∧
      (tabWf 0 (portOf s c).blk.ents = true → tabWf 0 ents = true ∧ ∀ i < 64, tget 0 ents i =
        if a.getLsbD i then putBit (tget 0 (portOf s c).blk.ents i) 14 (w.getLsbD 0) else tget 0 (portOf s c).blk.ents i)) ∧
    (canIssue s c ([rcReg w] ++ if rcRemote w then [rcPkg w] else []) →
      w &&& ~~~(mRcpt ||| (0x1F <<< 37) ||| (0x1F <<< 32) ||| (1 <<< 31)) = 0 →
      let inc := sreg k (rcReg w)
      let pkg := sreg k (rcPkg w)
      let own := rcRemote w = false ∨ BitVec.ofNat 15 pkg.toNat = s.place.addr
      let pkgOk := rcRemote w = true → pkg.toNat < 2 ^ 15
      (¬ pkgOk → exec (.rcptAdd c w) s = .next (faultAt s c eRange)) ∧
      (pkgOk → (inc = 0 ∨ 2 ^ 31 ≤ inc.toNat) → exec (.rcptAdd c w) s = .next (faultAt s c eRange)) ∧
      (pkgOk → 0 < inc.toNat → inc.toNat < 2 ^ 31 → own → mayAdd s c (scuRcpt w) = false →
        exec (.rcptAdd c w) s = .next (faultAt s c eKey)) ∧
      (pkgOk → 0 < inc.toNat → inc.toNat < 2 ^ 31 → own → mayAdd s c (scuRcpt w) = true →
        exec (.rcptAdd c w) s = .next { after s c k with rcpt := { s.rcpt with
          adds := s.rcpt.adds ++ [(scuRcpt w, BitVec.ofNat 32 inc.toNat, srcCore s c)] } }) ∧
      (pkgOk → 0 < inc.toNat → inc.toNat < 2 ^ 31 → ¬ own → ∃ t, exec (.rcptAdd c w) s = .next t ∧
        t.cores = (after s c k).cores ∧ t.rcpt = s.rcpt ∧ t.mem = s.mem ∧ t.ports = s.ports))

/-- MMA, ACC.SWAP and ACC.DRAIN stall while their queue is full, fault with the first of their checks, or else go to the end
of their queue with the next program-order number. MMA reads its B tile, its A tile and its latch as it enters the queue, and
leaves the accumulator sets to MMA_ACCUMULATE. -/
def Obligations.ArrayInstructionsEnterTheirQueue : Prop :=
  ∀ (s : State) (c : CoreId) (w : W56),
    let k := issued s c
    (canIssue s c [] → 8 ≤ k.mxaQ.length → exec (.mma c w) s = .next s ∧ exec (.accSwap c 0) s = .next s) ∧
    (∀ e, canIssue s c [] → k.mxaQ.length < 8 → mmaFault k w = some e → exec (.mma c w) s = .next (faultAt s c e)) ∧
    (canIssue s c [] → k.mxaQ.length < 8 → mmaFault k w = none → ∃ k' a sc ea eb,
      exec (.mma c w) s = .next (after s c k') ∧
      k'.mxaQ = k.mxaQ ++
        [.mma k.seq k.pc w (auditOf k) a (spRead s c ((mmaBTile w).toNat * 128) 128) sc ea eb] ∧
      (mmaAShift w = 0 → a = spRead s c ((mmaATile w).toNat * 128) 128) ∧ k'.seq = k.seq + 1 ∧
      k'.latch = tputs 0 k.latch 0 a ∧ k'.prev = some ⟨mmaFmtA w, mmaMxs w⟩ ∧
      { k' with mxaQ := k.mxaQ, seq := k.seq, latch := k.latch, latchSc := k.latchSc, prev := k.prev, half := k.half } = k) ∧
    (canIssue s c [] → k.mxaQ.length < 8 →
      exec (.accSwap c 0) s = .next (after s c { k with mxaQ := k.mxaQ ++ [.swap k.seq], seq := k.seq + 1 })) ∧
    (canIssue s c (if drRsc w then [29] else []) →
      (4 ≤ k.drainQ.length → exec (.accDrain c w) s = .next s) ∧
      (∀ e, k.drainQ.length < 4 → drainFault k w = some e → exec (.accDrain c w) s = .next (faultAt s c e)) ∧
      (k.drainQ.length < 4 → drainFault k w = none →
        exec (.accDrain c w) s = .next (after s c { k with drainQ := k.drainQ ++ [⟨k.seq, w, sreg k 29⟩], seq := k.seq + 1 })))

/-- The engines' own steps. MMA_ACCUMULATE takes the oldest queued MMA and writes the entries and the tag of the active set,
leaving its swap in the queue where it asks for one. SWAP exchanges the roles of the sets, but not before every drain issued
earlier has read the inactive one: until then nothing happens. DRAIN_START takes the oldest drain once every earlier swap is
done, with the entries and the tag of the inactive set, its E tile and its rescale block. DRAIN_DONE ends the oldest started
drain: it writes its eight output rows and its statistics and no other byte, and the tag to `tag_reg`. -/
def Obligations.ArrayEnginesAdvance : Prop :=
  ∀ (s : State) (c : CoreId), coreExists c = true →
    let k := coreOf s c
    (∀ seq pc w au a b sc ea eb q, k.mxaQ = .mma seq pc w au a b sc ea eb :: q → ∃ t ents tag,
      exec (.mmaAccumulate c) s = .next t ∧
      t.cores = tput Core.reset s.cores c.toNat
        (putSet { k with mxaQ := if mmaSwap w then .swap seq :: q else q } k.active ents tag) ∧
      tagKind tag = mmaKind w ∧ tagAudit tag = au ∧
      { t with cores := s.cores, ctxs := s.ctxs, stats := s.stats, paths := s.paths } = s) ∧
    (∀ seq q, k.mxaQ = .swap seq :: q → (∀ e ∈ k.drainQ, seq < e.seq) →
      exec (.swap c) s = .next (setCore s c { k with mxaQ := q, active := !k.active })) ∧
    (∀ seq q e, k.mxaQ = .swap seq :: q → e ∈ k.drainQ → e.seq ≤ seq → exec (.swap c) s = .next s) ∧
    (∀ e q, k.drainQ = e :: q → swapsDone e.seq k.mxaQ = true → ∃ j : DrainJob,
      exec (.drainStart c) s = .next (setCore s c { k with drainQ := q, drain := k.drain ++ [j] }) ∧
      j.w = e.w ∧ j.set = setEnts k !k.active ∧ j.tag = setTag k !k.active ∧
      (drEpi e.w = 1 ∨ drEpi e.w = 2 →
        j.epi = spRead s c ((drEAddr e.w).toNat * 16) (8 * fmtBytes (drFmtE e.w).toNat 8)) ∧
      (drRsc e.w = true → j.blk = spRead s c e.s29.toNat 80)) ∧
    (∀ e q, k.drainQ = e :: q → swapsDone e.seq k.mxaQ = false → exec (.drainStart c) s = .next s) ∧
    (∀ j q, k.drain = j :: q → ∃ t, exec (.drainDone c) s = .next t ∧
      t.cores = tput Core.reset s.cores c.toNat (setSreg { k with drain := q } (drTagReg j.w) (j.tag.setWidth 64)) ∧
      (∀ b, (∀ r < 8, let a := spAddr c ((drDst j.w).toNat + r * (drStride j.w).toNat * 4)
          b < a ∨ a + (drainRow (coreFtz s c) j r).1.length ≤ b) →
        (drEpi j.w = 3 → b < spAddr c ((drEAddr j.w).toNat * 16) ∨ spAddr c ((drEAddr j.w).toNat * 16) + 64 ≤ b) →
        memByte t.mem b = memByte s.mem b) ∧
      { t with mem := s.mem, cores := s.cores, ctxs := s.ctxs, stats := s.stats } = s)

/-- VFMA, VADD, VMUL, VMAX and VMIN: each of the 16 FP32 lanes of `vd` is the exact result of the lanes of the sources,
rounded once; beside `vd`, only the flags and counts that the arithmetic leaves can change.
VLD and VST move a vector register's 64 bytes, the lowest lane first, and fault with E_ALIGN off a 64-byte boundary; VLDX
fills the x-buffer from the scratchpad, faulting with E_FORMAT on a format it does not accept and with E_RANGE past the
scratchpad or the buffer. A store changes no byte outside its own. -/
def Obligations.VectorInstructions : Prop :=
  (∀ (s : State) (c : CoreId) (vd va vb vc : BitVec 5), canIssue s c [] →
    let k := issued s c
    let lane := fun (v : BitVec 5) (i : Nat) => (read32 (coreFtz s c) (tget 0 k.v (16 * v.toNat + i))).1
    let gives := fun (i : Instr) (f : Nat → Val) => ∃ t, exec i s = .next t ∧
      t.cores = (after s c (setVreg k vd
        ((List.range 16).map fun j => BitVec.ofNat 32 (round32 (coreFtz s c) (f j)).code))).cores ∧
      { t with cores := s.cores, ctxs := s.ctxs, stats := s.stats } = s
    gives (.vfma c vd va vb vc) (fun j => addVal (mulVal (lane va j) (lane vb j)) (lane vc j)) ∧
    gives (.vadd c vd va vb) (fun j => addVal (lane va j) (lane vb j)) ∧
    gives (.vmul c vd va vb) (fun j => mulVal (lane va j) (lane vb j)) ∧
    gives (.vmax c vd va vb) (fun j => maxVal (lane va j) (lane vb j)) ∧
    gives (.vmin c vd va vb) (fun j => minVal (lane va j) (lane vb j))) ∧
  (∀ (s : State) (c : CoreId) (v : BitVec 5) (addr : BitVec 17), canIssue s c [] →
    let k := issued s c
    let base := 0x020000000000 + c.toNat * 131072 + addr.toNat
    (addr.toNat % 64 ≠ 0 →
      exec (.vld c v addr) s = .next (faultAt s c eAlign) ∧ exec (.vst c v addr) s = .next (faultAt s c eAlign)) ∧
    (addr.toNat % 64 = 0 →
      exec (.vld c v addr) s = .next (after s c (setVreg k v
        ((List.range 16).map fun i => leWord 32 (memRead s.mem (base + 4 * i) 4)))) ∧
      ∃ t, exec (.vst c v addr) s = .next t ∧ t.cores = (after s c k).cores ∧
        (Memory.wf s.mem = true → ∀ i < 64, memByte t.mem (base + i) =
          (tget 0 k.v (16 * v.toNat + i / 4)).extractLsb' (8 * (i % 4)) 8) ∧
        (∀ b, b < base ∨ base + 64 ≤ b → memByte t.mem b = memByte s.mem b) ∧
        { t with cores := s.cores, mem := s.mem } = s) ∧
    (∀ (fmt : BitVec 4) (mxs : Bool) (src : BitVec 17) (len : BitVec 14) (sAddr : BitVec 17) (xOff : BitVec 7),
      (10 ≤ fmt.toNat → exec (.vldx c fmt mxs src len sAddr xOff) s = .next (faultAt s c eFormat)) ∧
      (mxs = true → (fmt = 0 ∨ fmt = 6 ∨ fmt = 7 ∨ fmt = 9) →
        exec (.vldx c fmt mxs src len sAddr xOff) s = .next (faultAt s c eFormat)) ∧
      (mxs = false → fmt.toNat < 8 → src.toNat + len.toNat + 1 ≤ 131072 → xOff.toNat * 128 + len.toNat + 1 ≤ 16384 →
        exec (.vldx c fmt mxs src len sAddr xOff) s = .next (after s c { k with
          xbuf := tputs 0 k.xbuf (xOff.toNat * 128) (spRead s c src.toNat (len.toNat + 1)) })) ∧
      (mxs = false → fmt.toNat < 8 → (131072 < src.toNat + len.toNat + 1 ∨ 16384 < xOff.toNat * 128 + len.toNat + 1) →
        exec (.vldx c fmt mxs src len sAddr xOff) s = .next (faultAt s c eRange))))

/-- MV, MV.ST and VCVT: the first failing check is a core fault; else MV changes only the y-buffer and its tag of the core,
with one entry per row, MV.ST only the scratchpad bytes from its `dst`, and VCVT only the scratchpad or the vector register it
names, beside the flags and counts that the arithmetic leaves. VCVT with stochastic rounding faults with E_MODE. -/
def Obligations.MatrixVectorAndConversions : Prop :=
  ∀ (s : State) (c : CoreId), canIssue s c [] →
    let k := issued s c
    (∀ w e, mvFault k w = some e → exec (.mv c w) s = .next (faultAt s c e)) ∧
    (∀ w, mvFault k w = none → ∃ t ents tag, exec (.mv c w) s = .next t ∧
      t.cores = (after s c { k with ybuf := tputs 0 k.ybuf 0 ents, ytag := tag }).cores ∧
      ents.length = (mvRows w).toNat + 1 ∧
      { t with cores := s.cores, ctxs := s.ctxs, stats := s.stats, paths := s.paths, free := s.free } = s) ∧
    (∀ (fmt : BitVec 4) (sat : Bool) (rows : BitVec 8) (dst : BitVec 17),
      let n := rows.toNat + 1
      let unit := if fmt = 3 then 16 else if fmtBits fmt.toNat = 4 then 2 else 1
      let bytes := fmtBytes fmt.toNat ((n + unit - 1) / unit * unit)
      (9 ≤ fmt.toNat → exec (.mvSt c fmt sat rows dst) s = .next (faultAt s c eFormat)) ∧
      (fmt.toNat < 9 → 131072 < dst.toNat + bytes → exec (.mvSt c fmt sat rows dst) s = .next (faultAt s c eRange)) ∧
      (fmt.toNat < 9 → dst.toNat + bytes ≤ 131072 → ∃ t, exec (.mvSt c fmt sat rows dst) s = .next t ∧
        t.cores = (after s c k).cores ∧
        (∀ b, b < spAddr c dst.toNat ∨ spAddr c dst.toNat + bytes ≤ b → memByte t.mem b = memByte s.mem b) ∧
        { t with cores := s.cores, mem := s.mem, ctxs := s.ctxs, stats := s.stats } = s)) ∧
    (∀ (sf df : BitVec 4) (smx dmx sat sr : Bool) (src : VOp) (sSc : BitVec 17) (dst : VOp) (dSc : BitVec 17),
      let n := cvtCount sf.toNat smx dmx
      let i := Instr.vcvt c sf df smx dmx sat sr src sSc dst dSc
      let fits := (∀ a, src = .sp a → a.toNat + cvtBytes sf.toNat n ≤ 131072) ∧
        (∀ a, dst = .sp a → a.toNat + fmtBytes df.toNat n ≤ 131072) ∧
        (smx = true → sSc.toNat + n / 32 ≤ 131072) ∧ (dmx = true → dSc.toNat + n / 32 ≤ 131072)
      (cvtFormatBad sf.toNat df.toNat smx dmx src dst = true → exec i s = .next (faultAt s c eFormat)) ∧
      (cvtFormatBad sf.toNat df.toNat smx dmx src dst = false → ¬ fits → exec i s = .next (faultAt s c eRange)) ∧
      (cvtFormatBad sf.toNat df.toNat smx dmx src dst = false → fits → sr = true →
        exec i s = .next (faultAt s c eMode)) ∧
      (cvtFormatBad sf.toNat df.toNat smx dmx src dst = false → fits → sr = false → ∃ t k', exec i s = .next t ∧
        t.cores = (after s c k').cores ∧ { k' with v := k.v } = k ∧ (∀ a, dst = .sp a → k' = k) ∧
        (∀ b, (∀ a, dst = .sp a → b < spAddr c a.toNat ∨ spAddr c a.toNat + fmtBytes df.toNat n ≤ b) →
          (dmx = true → b < spAddr c dSc.toNat ∨ spAddr c dSc.toNat + n / 32 ≤ b) →
          memByte t.mem b = memByte s.mem b) ∧
        { t with mem := s.mem, cores := s.cores, ctxs := s.ctxs, stats := s.stats } = s))

/-- XFER.IN and XFER.OUT: the first failing check of R222 is a core fault; else the XFER goes to the end of the port's
outstanding ones, and a memory-side XFER.OUT that stands first there sends its units at once. XFER_COMPLETE takes the oldest
one: with no error met, it moves its bytes and makes its receipt add; it waits while units of it are queued at a controller and
while its hub's caches are flushed. A memory-side operation that reaches its controller is one read-modify-write of its 16
bytes. A transfer that meets a dirty line which fails both of its reads retires the cache slice, poisons the unit and faults its
core; a write of the whole unit ends the poison. -/
def Obligations.TransfersMoveBytes : Prop :=
  (∀ (s : State) (c : CoreId) (w : W56), canIssue s c [xfRa w, xfRs w] →
    let k := issued s c
    let addr := sreg k (xfRa w)
    let loc := sreg k (xfRs w)
    let n := ((xfLen w).toNat + 1) * 16
    let fields := fun (out : Bool) (x : Xfer) => x.out = out ∧ x.addr = addr.setWidth 48 ∧ x.loc = loc ∧ x.len = n ∧
      x.mop = xfMop w ∧ x.mtype = xfMtype w ∧ x.sat = xfSat w ∧ x.rcpt = xfRcpt w ∧ x.radd = xfRadd w ∧
      x.istore = xfIstore w ∧ x.pc = k.pc
    let queued := fun (t : State) (x : Xfer) => t.cores = (after s c k).cores ∧
      t.ports = tput Port.reset s.ports c.toNat { portOf s c with xfers := (portOf s c).xfers ++ [x] }
    (∀ e, xferFault s c false w addr loc n = some e → exec (.xferIn c w) s = .next (faultAt s c e)) ∧
    (∀ e, xferFault s c true w addr loc n = some e → exec (.xferOut c w) s = .next (faultAt s c e)) ∧
    ((∀ y q, (portOf s c).xfers = y :: q → y.mop = 0 ∨ y.sent = true) →
      (xferFault s c false w addr loc n = none → ∃ t x, exec (.xferIn c w) s = .next t ∧ queued t x ∧
        fields false x ∧ x.mop = 0 ∧ x.sent = false ∧ { t with cores := s.cores, ports := s.ports, paths := s.paths } = s) ∧
      (xferFault s c true w addr loc n = none → (xfMop w = 0 ∨ (portOf s c).xfers ≠ []) →
        ∃ t x, exec (.xferOut c w) s = .next t ∧ queued t x ∧ fields true x ∧ x.sent = false ∧
          { t with cores := s.cores, ports := s.ports, paths := s.paths } = s) ∧
      (xferFault s c true w addr loc n = none → xfMop w ≠ 0 → (portOf s c).xfers = [] → n = 16 →
        ∃ t x m, exec (.xferOut c w) s = .next t ∧ queued t x ∧ fields true x ∧ x.sent = true ∧
          t.hubs = tput HubMem.reset s.hubs (x.addr.toNat / 2 ^ 38)
            { hubOf s (x.addr.toNat / 2 ^ 38) with msos := (hubOf s (x.addr.toNat / 2 ^ 38)).msos ++ [m] } ∧
          m.addr = x.addr ∧ m.mop = xfMop w ∧ m.mtype = xfMtype w ∧ m.sat = xfSat w ∧ m.core = c ∧
          m.data = spRead s c loc.toNat 16 ∧
          { t with cores := s.cores, ports := s.ports, paths := s.paths, hubs := s.hubs } = s))) ∧
  (∀ (s : State) (c : CoreId) (e : EccAt) (atMem : Bool), coreExists c = true → (portOf s c).xfers = [] →
    exec (.xferComplete c e atMem) s = .next s) ∧
  (∀ (s : State) (c : CoreId) (e : EccAt) (x : Xfer) (q : List Xfer) (atMem : Bool), coreExists c = true →
    (portOf s c).xfers = x :: q → (msosLeft s c x = true ∨ hbmWaits s x.addr.toNat x.len = true) →
    exec (.xferComplete c e atMem) s = .next s) ∧
  (∀ (s : State) (c : CoreId) (e : EccAt) (x : Xfer) (q : List Xfer) (atMem : Bool), coreExists c = true →
    e.outcome = .clean → (portOf s c).xfers = x :: q → x.mop = 0 → msosLeft s c x = false →
    hbmWaits s x.addr.toNat x.len = false → (coreOf s c).phase ≠ .retired → (coreOf s c).phase ≠ .faulted →
    xferLost s x = false → (∀ y p, q = y :: p → y.mop = 0 ∨ y.sent = true) →
    ∃ t, exec (.xferComplete c e atMem) s = .next t ∧
      t.ports = tput Port.reset s.ports c.toNat { portOf s c with xfers := q } ∧ t.cores = s.cores ∧
      t.rcpt.adds = (s.rcpt.adds ++ if x.radd then [(x.rcpt, 1, srcCore s c)] else []) ∧
      (x.out = false → x.istore = false → inStatus x.addr.toNat = false →
        t.mem = memWrite s.mem (0x020000000000 + c.toNat * 131072 + x.loc.toNat) (memRead s.mem x.addr.toNat x.len)) ∧
      (x.out = false → x.istore = true → inStatus x.addr.toNat = false →
        t.mem = memWrite s.mem (0x030000000000 + c.toNat * 16384 + x.loc.toNat) (memRead s.mem x.addr.toNat x.len)) ∧
      (x.out = true → inStatus x.addr.toNat = false →
        t.mem = (wrMem s x.addr.toNat (spRead s c x.loc.toNat x.len)).mem) ∧
      (x.out = true → inStatus x.addr.toNat = true → t.mem = s.mem)) ∧
  (∀ (s : State) (h : Fin 4) (m : Mso) (q : List Mso) (e : EccAt), (hubOf s h.val).msos = m :: q → m.data.length = 16 →
    tabWf HubMem.reset s.hubs = true → (hubOf s h.val).flushing = false → e.outcome = .clean →
    touchesRetired s m.addr.toNat 16 = false → touchesPoison s m.addr.toNat 16 false = false →
    msoLanes s h.val (msoStack s m) ≠ 0 →
    ∃ t d, exec (.memorySideOperation h [0] none e) s = .next t ∧ t.mem = (wrMem s m.addr.toNat d).mem ∧ d.length = 16 ∧
      t.hubs = tput HubMem.reset s.hubs h.val { hubOf s h.val with msos := q } ∧
      (m.mop = 1 → m.mtype = 2 → m.sat = false → leWord 32 (d.take 4) =
        leWord 32 (memRead s.mem m.addr.toNat 4) + leWord 32 (m.data.take 4)) ∧
      { t with mem := s.mem, hubs := s.hubs, ctxs := s.ctxs } = s) ∧
  (∀ (s : State) (c : CoreId) (x : Xfer) (q : List Xfer) (a : Addr) (sl : Nat), coreExists c = true →
    (portOf s c).xfers = x :: q → x.out = false → msosLeft s c x = false → hbmWaits s x.addr.toNat x.len = false →
    (coreOf s c).phase ≠ .retired → Memory.wf s.mem = true → touchesRetired s a.toNat 1 = false →
    x.addr.toNat ≤ a.toNat → a.toNat < x.addr.toNat + x.len → cacheSlice s a.toNat = some sl →
    ∃ t, exec (.xferComplete c ⟨.lineLost, a⟩ true) s = .next t ∧
      t.sh.retired.contains (sliceChannel sl) = true ∧ (coreOf t c).phase = .faulted ∧
      (∀ b, tget 0 t.mem b = if b = poisonKey (a.toNat / 256) then 1 else tget 0 s.mem b) ∧
      touchesPoison t a.toNat 1 false = true) ∧
  (∀ (s : State) (u : Nat) (l : List Byte), u < 2 ^ 32 → l.length = 256 →
    touchesPoison s (256 * u) 256 true = false ∧
    tget 0 (wrMem s (256 * u) l).mem (poisonKey u) = 0 ∧ touchesPoison (wrMem s (256 * u) l) (256 * u) 256 false = false)

/-! ### Releases, preemption, envelopes, receipts, consignments -/

/-- The eight release actions. An entry fires when the schedule runs and its postmark and receipt are reached; the table moves
to its next entry, and after its last one to the first of the next step. STREAM_START hands out a start; CONSIGN books an Idle
consignment, marks one that is not for rebooking, or is lost; COLL_START arms the collective; ENV_RELEASE of an unarmed slot
faults with E_STATE; RECEIPT_ADD sends its add; COMMIT opens a round or waits for the one that is open; CKPT_CUT does nothing
where no cut is due, and else begins to write the cut's generation, unsealed, in place of the older one; STEP_END begins the
next step. -/
def Obligations.ReleasesFireWhenDue : Prop :=
  ∀ (s : State) (u : BitVec 16) (r : BitVec 256),
    nextRel s u.toNat = some r → releasesOn s u.toNat = true → relDue s u.toNat r = true →
    let t0 := relFired s u.toNat r
    let x := relOf s u.toNat
    let now := clock s (relDom s (umbelOf s u.toNat))
    (∃ y : Rel, t0.run = { s.run with rel := tput Rel.reset s.run.rel u.toNat y } ∧
      { t0 with run := s.run, paths := s.paths } = s ∧ y.stalled = x.stalled - 1 ∧
      (x.idx + 1 < (umRelCount (umbelOf s u.toNat)).toNat → y.idx = x.idx + 1 ∧ y.step = x.step) ∧
      ((umRelCount (umbelOf s u.toNat)).toNat ≤ x.idx + 1 → y.idx = 0 ∧ y.step = x.step + 1)) ∧
    (relAction r = 1 → exec (.streamStart u) s =
      .next (fireStart t0 ((relObject r).setWidth 16) ((relArg r).setWidth 11) x.step now)) ∧
    (relAction r = 2 →
      let n := ((relObject r).setWidth 20).toNat
      let c := consOf s n
      ∃ t w, exec (.consign u) s = .next t ∧ t.cons =
        if c.st = .idle then tput Cons.reset s.cons n
          { st := .booked, again := none, fired := now, umbel := u, step := x.step, err := 0, bytes := 0, ed := 0,
            waited := w, sent := false }
        else if c.again = none then tput Cons.reset s.cons n { c with again := some (now, u, x.step) } else s.cons) ∧
    (relAction r = 3 → ∀ e, collEntry s (relObject r) = some e →
      findColl (officeOf s (coHub e).toNat) (pmBeat (relPm s u.toNat r), coId e) = none → ∃ t c,
        exec (.collStart u) s = .next t ∧
        t.offices = tput Office.reset s.offices (coHub e).toNat
          { officeOf s (coHub e).toNat with colls := (officeOf s (coHub e).toNat).colls ++ [c] } ∧
        c.entry = e ∧ c.start = pmBeat (relPm s u.toNat r) ∧ c.st = .armed ∧ c.isHost = false) ∧
    (relAction r = 4 → ∀ c, c = umFirst (umbelOf s (relObject r).toNat) →
      tget none (portOf s c).slots ((relArg r).setWidth 4).toNat = none →
      exec (.envRelease u) s = .next (coreFault t0 c eState)) ∧
    (relAction r = 4 → ∀ c a i, c = umFirst (umbelOf s (relObject r).toNat) →
      tget none (portOf s c).slots ((relArg r).setWidth 4).toNat = some a → freeEntry (portOf s c) = some i →
      sendFault s c a.toNat = none → exec (.envRelease u) s = .next (sendEnv t0 c i a)) ∧
    (relAction r = 5 → exec (.receiptAdd u) s = .next { t0 with rcpt := { s.rcpt with
      adds := s.rcpt.adds ++ [((relObject r).setWidth 14, (relArg r).setWidth 32, relSrc s (umbelOf s u.toNat))] } }) ∧
    (relAction r = 6 → ∃ t, exec (.commit u) s = .next t ∧ (commitRec s = none → t = t0) ∧
      ((commitRec s).isSome = true → roundOpen s = true →
        t = { t0 with commit := { s.commit with waiting := some (relPm s u.toNat r, x.step) } }) ∧
      (∀ c, commitRec s = some c → roundOpen s = false →
        t = roundGoesOn (openRound t0 c (relPm s u.toNat r) x.step) c)) ∧
    (relAction r = 7 → x.step.toNat ≤ s.run.settled.toNat →
      (ckptRec s = none → exec (.ckptCut u) s = .next t0) ∧
      (∀ c, ckptRec s = some c → cutDue t0 c x.step = false → exec (.ckptCut u) s = .next t0) ∧
      (∀ c b, ckptRec s = some c → cutDue t0 c x.step = true → s.ckpt.writing = false →
        s.run.bounds.find? (fun b => b.step == x.step) = some b →
        let small := blockBytes t0 + ((carriedSlots t0 b).map fun y => y.2.length).sum
        small ≤ ((ckBuddyGib c).toNat + 1) * 2 ^ 30 → small ≤ ((ckStoreGib c).toNat + 1) * 2 ^ 30 →
        ∃ t g, exec (.ckptCut u) s = .next t ∧ t.ckpt.newer = some g ∧ g.step = x.step ∧ g.sealed_ = false ∧ g.block = b ∧
          t.ckpt.older = s.ckpt.newer ∧ t.ckpt.writing = true ∧ t.ckpt.localDone = false)) ∧
    (relAction r = 8 → boundaryDue s x.step = true → ∃ t, exec (.stepEnd u) s = .next t ∧ t.run.step = x.step + 1 ∧
      t.run.reruns = 0 ∧ ((commitRec s).isSome = true → t.commit.forceExp = s.commit.settledExp))

/-- The waiting entry and the phases of an eviction. SCHED_STALL posts its alarm once for each
entry that is late by the latitude's stall, one that waits behind another included, and else does nothing. PREEMPT_SAVE saves a drained
umbel; HAND_OVER leaves its cores to the starts that wait; UMBEL_RESTORE begins when they stand idle again; CTX_RESUME ends the
eviction and counts the time lost. -/
def Obligations.PreemptionPassesThroughItsPhases : Prop :=
  ∀ (s : State) (u : BitVec 16),
    (∀ pm, laterPm s u.toNat (relOf s u.toNat).stalled = some pm → releasesOn s u.toNat = true →
      0 < (latStallBeats (latitude s)).toNat →
      pmReached (clock s (relDom s (umbelOf s u.toNat)))
        (pm + BitVec.ofNat 64 ((latStallBeats (latitude s)).toNat * 2 ^ 24)) = true → ∃ t rec_,
      exec (.schedStall u) s = .next t ∧
      t.run = { s.run with rel := (tput Rel.reset s.run.rel u.toNat
        { relOf s u.toNat with stalled := (relOf s u.toNat).stalled + 1 }) } ∧
      t.paths = { s.paths with posted := s.paths.posted ++ [rec_] } ∧ rec_.code = evSchedStall ∧ rec_.cls = .alarm ∧
      rec_.ctx = ownerOf s u) ∧
    (∀ pm, laterPm s u.toNat (relOf s u.toNat).stalled = some pm →
      pmReached (clock s (relDom s (umbelOf s u.toNat)))
        (pm + BitVec.ofNat 64 ((latStallBeats (latitude s)).toNat * 2 ^ 24)) = false →
      exec (.schedStall u) s = .next s) ∧
    (laterPm s u.toNat (relOf s u.toNat).stalled = none → exec (.schedStall u) s = .next s) ∧
    (evictOf s u = none → exec (.preemptSave u) s = .next s ∧ exec (.handOver u) s = .next s ∧
      exec (.umbelRestore u) s = .next s ∧ exec (.ctxResume u) s = .next s) ∧
    (∀ v, evictOf s u = some v →
      (v.phase = .draining → (umCores (umbelOf s u.toNat)).all (drained s) = true →
        exec (.preemptSave u) s = .next (modEvict s u fun _ => saveCores s v) ∧ (saveCores s v).phase = .saved ∧
          (saveCores s v).drainNs = s.ns - v.atNs) ∧
      (v.phase = .draining → (umCores (umbelOf s u.toNat)).all (drained s) = false →
        exec (.preemptSave u) s = .next s) ∧
      (v.phase = .saved → v.starts = [] → ∃ t, exec (.handOver u) s = .next t ∧
        t.evicts = (modEvict s u fun v => { v with phase := .handedOver, starts := [] }).evicts ∧
        t.cores = (leaveIdle s v).cores ∧ t.ports = (leaveIdle s v).ports ∧ t.mem = s.mem ∧
        t.paths.posted.length = s.paths.posted.length + 1) ∧
      (v.phase = .handedOver → readyToRestore s v = true →
        exec (.umbelRestore u) s = .next (modEvict s u fun v => { v with phase := .restoring })) ∧
      (v.phase = .restoring → v.again = [] → ∃ t, exec (.ctxResume u) s = .next t ∧
        t.evicts = s.evicts.filter (fun x => x.umbel != u) ∧
        t.ctxs = tput Ctx.reset s.ctxs v.owner.toNat { ctxOf s v.owner.toNat with
          preemptCount := (ctxOf s v.owner.toNat).preemptCount + 1
          preemptLost := (ctxOf s v.owner.toNat).preemptLost + BitVec.ofNat 64 (s.ns - v.atNs) }))

/-- ENVELOPE_ARRIVAL, ACKNOWLEDGEMENT_ARRIVAL, DEAD_LETTER_ARRIVAL, ENVELOPE_RETRY, DISPATCH and GUEST_ANSWER_TIMEOUT for
messages between cores of one package. An envelope behind an earlier one of its sender to its receiver waits. One that passes
its checks goes into the pillar box and its sender gets a positive acknowledgement; one that does not is a dead letter with the
first failing check's code, counted where the receiver is a member. An acknowledgement frees the outbox entry and makes the
`src_rcpt` add. A dead letter counts a try and sets the retry time, and at the last try frees the entry and posts
env.undeliverable. A retry whose time has come sends the envelope again. Dispatch writes the inbox and s19 to s23, keeps the
interrupted pc and wait, and starts the handler. A guest that is silent for 1 us is answered for with E_TIMEOUT. -/
def Obligations.EnvelopesReachTheirHandler : Prop :=
  ∀ (s : State) (i : Nat),
    (∀ h p ent o, s.flights[i]? = some (.env h p ent o) → inOrder s i h = false → exec (.envelopeArrival i) s = .next s) ∧
    (∀ h p ent, s.flights[i]? = some (.env h p ent none) → inOrder s i h = true →
      (envMember s h && isGuestDie s (dieOf (envCore s h))) = false → isGuestDie s (dieOf (ehSrcCore h)) = false →
      (∀ e, envRefused s h = some e → e ≠ eOk → exec (.envelopeArrival i) s = .next { s with
          flights := s.flights.eraseIdx i ++ [.dead (ehSrcCore h) ent (deadHdr h e)]
          ports := if envMember s h then tput Port.reset s.ports (envCore s h).toNat { portOf s (envCore s h) with
            dlIssued := satInc (portOf s (envCore s h)).dlIssued } else s.ports }) ∧
      (envRefused s h = none → exec (.envelopeArrival i) s = .next { s with
          flights := s.flights.eraseIdx i ++ [.ack (ehSrcCore h) ent]
          ports := tput Port.reset s.ports (envCore s h).toNat { portOf s (envCore s h) with
            pillar := (portOf s (envCore s h)).pillar ++ [⟨h, p, coreClock s (envCore s h)⟩]
            envAccepted := satInc (portOf s (envCore s h)).envAccepted } })) ∧
    (∀ c ent o, s.flights[i]? = some (.ack c ent) → tget none (portOf s c).outbox ent.val = some o → ∃ t,
      exec (.acknowledgementArrival i) s = .next t ∧ t.flights = s.flights.eraseIdx i ∧
      t.ports = tput Port.reset s.ports c.toNat { portOf s c with outbox := tput none (portOf s c).outbox ent.val none } ∧
      t.rcpt.adds = s.rcpt.adds ++ (if ehSrcAdd (hdrAt s c o.addr.toNat)
        then [(ehSrcRcpt (hdrAt s c o.addr.toNat), 1, srcUnit s 0xA0 (dieOf c / 8) 0)] else [])) ∧
    (∀ c ent h o, s.flights[i]? = some (.dead c ent h) → tget none (portOf s c).outbox ent.val = some o →
      (o.tries + 1 < (ebMaxTries (portOf s c).blk.hdr).toNat → exec (.deadLetterArrival i) s =
        .next (modPort (modPort { s with flights := s.flights.eraseIdx i } c fun p => { p with
            dlReceived := satInc p.dlReceived }) c fun p => { p with
          outbox := tput none p.outbox ent.val
            (some { o with tries := o.tries + 1, retry := some (pmAddTicks (coreClock s c)
              ((o.tries + 1) * (ebRetry (portOf s c).blk.hdr).toNat)) }) })) ∧
      ((ebMaxTries (portOf s c).blk.hdr).toNat ≤ o.tries + 1 → ∃ t r, exec (.deadLetterArrival i) s = .next t ∧
        t.flights = s.flights.eraseIdx i ∧ t.paths = { s.paths with posted := s.paths.posted ++ [r] } ∧
        (tabWf Port.reset s.ports = true → tabWf none (portOf s c).outbox = true →
          tget none (portOf t c).outbox ent.val = none) ∧
        r.code = evEnvUndeliverable ∧ r.err = ehNack h ∧ t.run.stepBad.contains s.run.step = true)) ∧
    (∀ c ent o at_, coreExists c = true → tget none (portOf s c).outbox ent.val = some o → o.retry = some at_ →
      (pmReached (coreClock s c) at_ = true → exec (.envelopeRetry c ent) s =
        .next (launch (modPort s c fun p => { p with outbox := tput none p.outbox ent.val (some { o with retry := none }),
                                                     envRetries := satInc p.envRetries }) c ent { o with retry := none })) ∧
      (pmReached (coreClock s c) at_ = false → exec (.envelopeRetry c ent) s = .next s)) ∧
    (∀ c ent o, ehDstPkg (travelHdr s c (hdrAt s c o.addr.toNat) o.tries o.first) = s.place.addr →
      launch s c ent o = { s with flights := s.flights ++ [.env (travelHdr s c (hdrAt s c o.addr.toNat) o.tries o.first)
        (spRead s c (o.addr.toNat + 64) (ehLen (hdrAt s c o.addr.toNat)).toNat) ent none] }) ∧
    (∀ c v rest, coreExists c = true → (portOf s c).pillar = v :: rest → atDispatchPoint s c = true → ∃ t k',
      exec (.dispatch c) s = .next t ∧
      t.mem = (wrMem s (spAddr c (ebInbox (portOf s c).blk.hdr).toNat) (leBytes 64 v.hdr ++ v.payload)).mem ∧
      t.ports = tput Port.reset s.ports c.toNat { portOf s c with pillar := rest } ∧
      t.cores = tput Core.reset s.cores c.toNat k' ∧ k'.phase = .running ∧ k'.hold = .none ∧
      k'.pc = (heEntry (tget 0 (portOf s c).blk.ents (ehHandler v.hdr).toNat)).setWidth 12 ∧
      (∀ r : BitVec 5, r.toNat < 19 ∨ 23 < r.toNat → sreg k' r = sreg (coreOf s c) r) ∧
      (tabWf 0 (coreOf s c).s = true → sreg k' 19 = BitVec.ofNat 64 (ebInbox (portOf s c).blk.hdr).toNat ∧
        sreg k' 20 = ehArg0 v.hdr ∧ sreg k' 21 = ehArg1 v.hdr ∧ sreg k' 22 = ehArg2 v.hdr ∧ sreg k' 23 = ehArg3 v.hdr) ∧
      (∃ h, k'.handler = some h ∧ h.pc = (coreOf s c).pc ∧ h.hold = (coreOf s c).hold ∧ h.dstAdd = ehDstAdd v.hdr ∧
        h.dst = ehDstRcpt v.hdr ∧ (h.wasIdle = true ↔ (coreOf s c).phase = .idle)) ∧
      { t with mem := s.mem, ports := s.ports, cores := s.cores } = s) ∧
    (∀ h ent o t0, s.flights[i]? = some (.guest h ent o t0) →
      (s.ns < t0 + 1000 → exec (.guestAnswerTimeout i) s = .next s) ∧
      (t0 + 1000 ≤ s.ns → o = none → isGuestDie s (dieOf (ehSrcCore h)) = false → exec (.guestAnswerTimeout i) s =
        .next { s with flights := s.flights.eraseIdx i ++ [.dead (ehSrcCore h) ent (deadHdr h eTimeout)] }))

/-- GUEST_REQUEST: from a die that holds no guest nothing happens; a capability the block does not declare is refused with
E_MODE (the model's choice, LOG 31) and a failing check with its code: a refusal is counted in `guest_err`, posted as
hdi.guest_err and answered with the code. Else a read answers the bytes, a write writes them, an add of 1 to 2^31 - 1 from an
endpoint that may add goes on its way to the receipt of this package, an envelope to this package sets out with the hub's own source fields,
and a memory-side operation queues its units of 16 bytes; each is answered with E_OK, but for the envelope, whose
acknowledgement is its answer. -/
def Obligations.GuestRequestsAreChecked : Prop :=
  ∀ (s : State) (die : BitVec 5),
    (isGuestDie s die.toNat = false → ∀ r, exec (.guestRequest die r) s = .next s) ∧
    (isGuestDie s die.toNat = true →
      let b := guestBlock s die.toNat
      (∀ e, ∃ t r, guestRefused s die e = t ∧ t.out = s.out ++ [.guest die e []] ∧ t.mem = s.mem ∧ t.rcpt = s.rcpt ∧
        t.flights = s.flights ∧ t.hubs = s.hubs ∧ t.paths = { s.paths with posted := s.paths.posted ++ [r] } ∧
        r.code = evHdiGuestErr ∧ r.err = e ∧ t.sites = tput Site.reset s.sites (siteOfDie s die.toNat)
          { siteOf s (siteOfDie s die.toNat) with guestErr := (siteOf s (siteOfDie s die.toNat)).guestErr + 1 }) ∧
      (∀ r, ((cbMem b = false ∧ ((∃ a n, r = .read a n) ∨ (∃ a d, r = .write a d) ∨ ∃ a m ty sat d, r = .mso a m ty sat d)) ∨
          (cbRcpt b = false ∧ ∃ ep aw pkg rc inc, r = .rcptAdd ep aw pkg rc inc) ∨
          (cbEnv b = false ∧ ∃ ep h p, r = .envelope ep h p)) →
        exec (.guestRequest die r) s = .next (guestRefused s die eMode)) ∧
      (cbMem b = true → ∀ a n,
        (∀ e, guestMemFault s die a.toNat n true false = some e →
          exec (.guestRequest die (.read a n)) s = .next (guestRefused s die e)) ∧
        (guestMemFault s die a.toNat n true false = none → exec (.guestRequest die (.read a n)) s =
          .next { s with out := s.out ++ [.guest die eOk (pkgRead s a.toNat n)] })) ∧
      (cbMem b = true → ∀ a d,
        (∀ e, guestMemFault s die a.toNat d.length false true = some e →
          exec (.guestRequest die (.write a d)) s = .next (guestRefused s die e)) ∧
        (guestMemFault s die a.toNat d.length false true = none → inStatus a.toNat = false →
          exec (.guestRequest die (.write a d)) s = .next { s with
            mem := (wrMem s a.toNat d).mem, out := s.out ++ [.guest die eOk []] })) ∧
      (cbMem b = true → ∀ a mop ty sat d, mop ≠ 0 →
        xferFormatBad true (mop ++ ty ++ BitVec.ofBool sat ++ (0 : BitVec 51)) = false → a.toNat + d.length ≤ 0x010000000000 →
        guestMemFault s die a.toNat d.length true true = none → ∃ k l, hubOfAddr s a.toNat = some k ∧
          exec (.guestRequest die (.mso a mop ty sat d)) s = .next { s with
            hubs := tput HubMem.reset s.hubs k { hubOf s k with msos := (hubOf s k).msos ++ l }
            out := s.out ++ [.guest die eOk []] } ∧
          l.length = d.length / 16 ∧ ∀ j m, l[j]? = some m → m.addr = a + BitVec.ofNat 48 (16 * j) ∧ m.mop = mop ∧ m.mtype = ty ∧
            m.sat = sat ∧ m.data = (d.drop (16 * j)).take 16) ∧
      (cbRcpt b = true → ∀ (ep : BitVec 4) (pkg : BitVec 15) (rc : BitVec 14) (inc : BitVec 64),
        let c : CoreId := BitVec.ofNat 17 (die.toNat * 4096 + ep.toNat)
        (∀ aw, (inc = 0 ∨ 2 ^ 31 ≤ inc.toNat) →
          exec (.guestRequest die (.rcptAdd ep aw pkg rc inc)) s = .next (guestRefused s die eRange)) ∧
        (0 < inc.toNat → inc.toNat < 2 ^ 31 → isEndpoint s c = true → mayAdd s c rc = false →
          exec (.guestRequest die (.rcptAdd ep false pkg rc inc)) s = .next (guestRefused s die eKey)) ∧
        (0 < inc.toNat → inc.toNat < 2 ^ 31 → isEndpoint s c = true → mayAdd s c rc = true →
          exec (.guestRequest die (.rcptAdd ep false pkg rc inc)) s = .next { s with
            rcpt := { s.rcpt with adds := s.rcpt.adds ++ [(rc, inc.setWidth 32, srcCore s c)] }
            out := s.out ++ [.guest die eOk []] })) ∧
      (cbEnv b = true → ∀ (ep : BitVec 4) (h : BitVec 512) (p : List Byte),
        let c : CoreId := BitVec.ofNat 17 (die.toNat * 4096 + ep.toNat)
        (∀ e, guestEnvFault s c h p = some e → exec (.guestRequest die (.envelope ep h p)) s = .next (guestRefused s die e)) ∧
        (guestEnvFault s c h p = none → ehDstPkg h = s.place.addr → exec (.guestRequest die (.envelope ep h p)) s =
          .next { s with flights := s.flights ++ [.env
            (putFld (putFld (putFld h 418 s.place.addr) 401 c) 256 (clock s (domHub (die.toNat / 8))))
            (p.take (ehLen h).toNat) 0 none] })))

/-- RECEIPT_ADD_APPLIED adds the increments of the oldest n adds on their way to a receipt to its count, together, and sends the
new count to each unit that subscribes, unless a rollback awaits its restore; COUNT_UPDATE gives the subscriber's copy the count
on its way to it where that is the oldest on its way from that hub. -/
def Obligations.ReceiptsCountAdds : Prop :=
  ∀ (s : State) (r : BitVec 14),
    ((∀ a ∈ s.rcpt.adds, a.1 ≠ r) → ∀ n, exec (.receiptAddApplied r n) s = .next s) ∧
    (∀ n, exec (.receiptAddApplied r 0) s = .next s ∧
      let l := (s.rcpt.adds.filter fun a => a.1 == r).take n
      let b := countOf s r + (l.map fun a => a.2.1).sum
      ∃ t, exec (.receiptAddApplied r n) s = .next t ∧
      (t.rcpt.adds.filter fun a => a.1 == r) = (s.rcpt.adds.filter fun a => a.1 == r).drop n ∧
      (t.rcpt.adds.filter fun a => a.1 != r) = (s.rcpt.adds.filter fun a => a.1 != r) ∧
      t.rcpt.copy = s.rcpt.copy ∧ { t with rcpt := s.rcpt, paths := s.paths } = s ∧
      (s.run.rolling.isSome = true → t.rcpt.count = s.rcpt.count ∧ t.rcpt.sends = s.rcpt.sends) ∧
      (s.run.rolling = none → l ≠ [] → t.rcpt.count = tput 0 s.rcpt.count r.toNat b ∧
        (b = countOf s r → t.rcpt.sends = s.rcpt.sends) ∧
        (b ≠ countOf s r → t.rcpt.sends = s.rcpt.sends ++
          ((List.range 36).filter fun i => (rcptSubs s r).getLsbD i).map fun i => (Fin.ofNat 36 i, r, b)))) ∧
    (∀ sub : Fin 36,
      (takeFirst (fun a => a.1 == sub && a.2.1.toNat / 4096 == r.toNat / 4096) s.rcpt.sends = none →
        exec (.countUpdate sub r) s = .next s) ∧
      ∀ a rest, takeFirst (fun a => a.1 == sub && a.2.1.toNat / 4096 == r.toNat / 4096) s.rcpt.sends = some (a, rest) →
        (a.2.1 ≠ r → exec (.countUpdate sub r) s = .next s) ∧
        (a.2.1 = r → ∃ t, exec (.countUpdate sub r) s = .next t ∧ t.rcpt = { s.rcpt with
            sends := rest, copy := tput 0 s.rcpt.copy (sub.val * 16384 + r.toNat) a.2.2 } ∧
          { t with rcpt := s.rcpt, out := s.out } = s ∧
          (t.out = s.out ∨ isGuestDie s sub.val = true ∧ t.out = s.out ++ [.guestCount (BitVec.ofNat 5 sub.val) r a.2.2])))

/-- CONSIGN_START, CONSIGN_DELIVERED, CONSIGN_RETURNED and REMOTE_POST_ACK: a booked COPY, COLLECT or ED_WRITE that may start
enters In transit, and so does a local POST; a COPY delivered writes its rows, makes its receipt add and is Idle; a COPY whose
destination or source refuses, and a remote POST that its destination refused, is Returned with the code, and `step_bad` of its
step is set; an acknowledged remote POST is Idle again. -/
def Obligations.ConsignmentsMoveThroughTheirStates : Prop :=
  ∀ (s : State) (n : BitVec 20),
    let i := n.toNat
    let p := planOf s i
    let c := consOf s i
    (schedRuns s = true → c.st = .booked → canStart s p = true → engineFree s (consHub i) = true →
      s.cons.any (startsBefore s i) = false → plRemote p = false → ∀ ecc,
      (plKind p = 1 ∨ plKind p = 3 ∨ plKind p = 5 →
        exec (.consignStart n ecc) s = .next { s with cons := tput Cons.reset s.cons i { c with st := .inTransit } }) ∧
      (plKind p = 2 → tabWf Cons.reset s.cons = true → ∃ t, exec (.consignStart n ecc) s = .next t ∧
        consOf t i = { c with st := .inTransit } ∧ { t with cons := s.cons, queues := s.queues, slots := s.slots } = s)) ∧
    (c.st ≠ .booked → ∀ ecc, exec (.consignStart n ecc) s = .next s) ∧
    (schedRuns s = true → c.st = .inTransit → plRemote p = false → consFault s i p = none → anyWaits s (consSpans s i p) = false →
      plKind p = 1 → plQuant p = false → c.again = none → ∀ ecc, ecc.outcome = .clean →
      ∃ t, exec (.consignDelivered n ecc) s = .next t ∧
        let w := putRows s ((List.range (plRowCount p)).map fun j => (dstRow s p j, readRow s p c.ed.toNat j))
        t.mem = w.mem ∧ t.rcpt.adds = w.rcpt.adds ++ [(plRcpt p, 1, consSrc s i)] ∧
        t.cons = tput Cons.reset s.cons i Cons.reset) ∧
    (∀ cause k, schedRuns s = true → c.st = .inTransit → plRemote p = false → plKind p = 1 →
      consFault s i p = some (causeErr cause) → ∃ t b, exec (.consignReturned n cause k) s = .next t ∧ b ≤ k ∧
      t.cons = tput Cons.reset s.cons i { c with st := .returned, err := causeErr cause, bytes := b } ∧
      t.run.stepBad.contains c.step = true) ∧
    (∀ cause k, schedRuns s = true → c.st = .inTransit → plRemote p = true → c.sent = true →
      cause ∈ [ReturnCause.linkDown, .range, .state] → ∃ t, exec (.consignReturned n cause k) s = .next t ∧
      t.cons = tput Cons.reset s.cons i { c with st := .returned, err := causeErr cause, bytes := k } ∧
      (tabWf E2e.reset s.e2e = true → ((e2eOf t (consHub i)).reqs.all fun r => r.for_ != .write n) = true) ∧ t.run.stepBad.contains c.step = true) ∧
    (∀ cause k, consFault s i p ≠ some (causeErr cause) → plRemote p = false →
      exec (.consignReturned n cause k) s = .next s) ∧
    (c.st = .inTransit → plRemote p = true → c.sent = true →
      ((e2eOf s (consHub i)).reqs.any fun r => r.for_ == .write n) = false → c.again = none → plQuant p = false →
      exec (.remotePostAck n) s = .next { s with cons := tput Cons.reset s.cons i Cons.reset })

/-! ### The update engines -/

/-- The next entry of a hub's table starts when its receipt has reached its target, at element 0 and word 0 with its block
registers as its program names them; an entry whose program has ended is done, and its done receipt is added to; a program
word is run only when the engine is at it. -/
def Obligations.UpdateEntriesRunInOrder : Prop :=
  ∀ (s : State) (h : Fin 4),
    let u := updOf s h.val
    (∀ i e, (hubEntries s h.val)[updDone s u]? = some (i, e) → schedRuns s = true → u.busy = false →
      rcReached (copyOf s (32 + h.val) (ueGo e)) (rcTarget s (ueGo e) (ueGoTarget e) s.run.step) = true → ∃ v,
      exec (.updateEntryStart h) s = .next { s with upd := tput UpdEng.reset s.upd h.val v } ∧
      v.busy = true ∧ v.ended = false ∧ v.step = s.run.step ∧ v.exp = s.commit.forceExp ∧ v.entry = i ∧ v.elem = 0 ∧ v.pcw = 0 ∧ v.e = [] ∧
      v.pass2 = false ∧ v.wbuf = [] ∧ v.b0 = blkStart s (ueProg (updEntry s i)).toNat 0 ∧
      v.b1 = blkStart s (ueProg (updEntry s i)).toNat 1) ∧
    (u.busy = true ∨ schedRuns s = false → exec (.updateEntryStart h) s = .next s) ∧
    (schedRuns s = true → u.busy = true → u.ended = true → exec (.updateEntryDone h) s = .next { s with
      upd := tput UpdEng.reset s.upd h.val { u with busy := false, done := u.done + 1 }
      rcpt := { s.rcpt with adds := s.rcpt.adds ++ [(ueDone (updEntry s u.entry), 1, srcUnit s 0xA8 h.val 0)] } }) ∧
    (schedRuns s = true → u.busy = true → u.ended = false →
      (uiOp (updWord s u) = 0x00 →
        exec (.upEnd h) s = .next { s with upd := tput UpdEng.reset s.upd h.val (afterEnd s u) }) ∧
      (uiOp (updWord s u) = 0x10 → ∃ t, exec (.upBar h) s = .next t ∧
        t.upd = tput UpdEng.reset s.upd h.val (afterBar s u).1 ∧ { t with upd := s.upd, ctxs := s.ctxs } = s)) ∧
    (∀ e, updEntry s u.entry = e → barAt s (ueProg e).toNat = none →
      (u.elem + 1 ≤ (ueElems e).toNat → afterEnd s u = { u with elem := u.elem + 1, pcw := 0, e := [] }) ∧
      ((ueElems e).toNat ≤ u.elem → afterEnd s u = { u with ended := true })) ∧
    (∀ i op ecc, (i, op) ∈ [(Instr.upEnd h, (0x00 : BitVec 6)), (.upLd h ecc, 0x01), (.upSt h ecc, 0x02), (.upAdd h, 0x03), (.upSub h, 0x04),
        (.upMul h, 0x05), (.upFma h, 0x06), (.upDiv h, 0x07), (.upSqrt h, 0x08), (.upMax h, 0x09), (.upMin h, 0x0A),
        (.upAbs h, 0x0B), (.upPows h, 0x0C), (.upRand h, 0x0D), (.upBsum h, 0x0E), (.upBmax h, 0x0F), (.upBar h, 0x10)] →
      (schedRuns s = false ∨ u.busy = false ∨ u.ended = true ∨ uiOp (updWord s u) ≠ op) → exec i s = .next s)

/-- The arithmetic instructions of an update program: the register named by `d` takes the exact result of the operands,
rounded once, and the engine goes to its next word; beside them only the flags, and the count of free values, can change.
LD takes the gradient of the element from memory or the element of array 1 to 4, and ST of a working array of E4M3 elements keeps
the element until its block of 32 is whole, while any other ST writes the element's bytes to the pending edition; either stops
the entry with the code of an access that fails. Arrays 5 to 7 do not exist: LD takes a free value and ST writes nothing (LOG 11).
BSUM and BMAX join their operand to a block register. -/
def Obligations.UpdateInstructions : Prop :=
  (∀ (s : State) (h : Fin 4),
    let u := updOf s h.val
    let w := updWord s u
    let z := updFtz s
    let a := (updVal s u (uiA w)).1
    let b := (updVal s u (uiB w)).1
    let c := (updVal s u (uiC w)).1
    let gives := fun (i : Instr) (op : BitVec 6) (v : BitVec 32) => uiOp w = op → ∃ t, exec i s = .next t ∧
      t.upd = tput UpdEng.reset s.upd h.val { u with e := tput 0 u.e (uiD w).toNat v, pcw := u.pcw + 1 } ∧
      { t with upd := s.upd, ctxs := s.ctxs, free := s.free } = s
    schedRuns s = true → u.busy = true → u.ended = false →
    gives (.upAdd h) 0x03 (BitVec.ofNat 32 (round32 z (addVal a b)).code) ∧
    gives (.upSub h) 0x04 (BitVec.ofNat 32 (round32 z (addVal a b.neg)).code) ∧
    gives (.upMul h) 0x05 (BitVec.ofNat 32 (round32 z (mulVal a b)).code) ∧
    gives (.upFma h) 0x06 (BitVec.ofNat 32 (round32 z (addVal (mulVal a b) c)).code) ∧
    gives (.upDiv h) 0x07 (BitVec.ofNat 32 (divVal z a b).code) ∧
    gives (.upSqrt h) 0x08 (BitVec.ofNat 32 (sqrtVal z a).code) ∧
    gives (.upMax h) 0x09 (BitVec.ofNat 32 (round32 z (maxVal a b)).code) ∧
    gives (.upMin h) 0x0A (BitVec.ofNat 32 (round32 z (minVal a b)).code) ∧
    gives (.upAbs h) 0x0B (BitVec.ofNat 32 (round32 z a.abs).code) ∧
    gives (.upPows h) 0x0C (BitVec.ofNat 32 (codeOf fFP32 (pows z a (u.step.toNat + 1)).1)) ∧
    gives (.upRand h) 0x0D
      (BitVec.ofNat 32 (round32 z (.fin false (updRandom s u ((uiImm w).extractLsb' 0 2).toNat).toNat (-32))).code)) ∧
  (∀ (s : State) (h : Fin 4),
    let u := updOf s h.val
    let w := updWord s u
    let e := updEntry s u.entry
    let i := ((uiImm w).extractLsb' 0 3).toNat
    let put := fun (v : BitVec 32) => tput UpdEng.reset s.upd h.val { u with e := tput 0 u.e (uiD w).toNat v, pcw := u.pcw + 1 }
    schedRuns s = true → u.busy = true → u.ended = false →
    let clean := fun (x : EccAt) => x.outcome = .clean ∧ (noArray i = true ∨ anyWaits s (elemAt s u i) = false)
    (∀ x err, uiOp w = 0x01 → clean x → (i = 0 ∧ accessFault s (ctxKey s (imgOwner s)) ((ueGrad e).toNat + 4 * u.elem) 4 true false =
        some err ∨ i ≠ 0 ∧ i ≤ 4 ∧ elemFault s u i false = some err) → ∃ t r, exec (.upLd h x) s = .next t ∧
      t.mem = s.mem ∧ t.stages = s.stages ∧
      t.upd = tput UpdEng.reset s.upd h.val
        { u with busy := false, done := u.done + 1, faulted := u.faulted ++ [u.entry], wbuf := [] } ∧
      t.paths = { s.paths with posted := s.paths.posted ++ [r] } ∧ r.code = evUpdateFault ∧ r.err = err) ∧
    (∀ x, uiOp w = 0x01 → clean x → i = 0 →
      accessFault s (ctxKey s (imgOwner s)) ((ueGrad e).toNat + 4 * u.elem) 4 true false = none → ∃ t,
      exec (.upLd h x) s = .next t ∧ t.mem = s.mem ∧ t.stages = s.stages ∧ t.rcpt = s.rcpt ∧
      t.upd = put (BitVec.ofNat 32 (codeOf fFP32
        (read32 (updFtz s) (leWord 32 (pkgRead s ((ueGrad e).toNat + 4 * u.elem) 4))).1))) ∧
    (∀ x, uiOp w = 0x01 → clean x → i ≠ 0 → i ≤ 4 → elemFault s u i false = none → ∃ t, exec (.upLd h x) s = .next t ∧
      t.upd = put (code32 (updFtz s) (loadElem s u i).1) ∧ { t with upd := s.upd, ctxs := s.ctxs } = s) ∧
    (∀ x, uiOp w = 0x02 → clean x → i ≠ 0 → i ≤ 4 → ∀ err, elemFault s u i true = some err → ∃ t r,
      exec (.upSt h x) s = .next t ∧ t.mem = s.mem ∧ t.stages = s.stages ∧
      t.upd = tput UpdEng.reset s.upd h.val
        { u with busy := false, done := u.done + 1, faulted := u.faulted ++ [u.entry], wbuf := [] } ∧
      t.paths = { s.paths with posted := s.paths.posted ++ [r] } ∧ r.code = evUpdateFault ∧ r.err = err) ∧
    (∀ x, uiOp w = 0x02 → clean x → i = 1 → elemFault s u 1 true = none → ueWFmt e = 4 → u.elem % 32 ≠ 31 → ∃ t,
      exec (.upSt h x) s = .next t ∧
      t.upd = tput UpdEng.reset s.upd h.val { u with
        wbuf := tput (0, none) u.wbuf (u.pcw * 32 + u.elem % 32) (updOperand s u (uiA w), stRandom s u w), pcw := u.pcw + 1 } ∧
      { t with upd := s.upd, free := s.free } = s) ∧
    (∀ x d n s1 s2, tabWf UpdEng.reset s.upd = true → uiOp w = 0x02 → clean x → i ≠ 0 → i ≤ 4 → ¬(i = 1 ∧ (arrayOf e i).2 = 4) → readsFree u [uiA w] = false →
      elemFault s u i true = none → edDesc s (ueStage e).toNat = some d →
      pendFor (modUpd s h.val fun _ => { u with pcw := u.pcw + 1 }) (ueStage e).toNat d u.step = some (s1, n) →
      edWrite s1 (ueStage e).toNat d n (elemOff (arrayOf e i) u.elem)
        (natBytes (fmtBits (arrayOf e i).2 / 8)
          (convElem (arrayOf e i).2 (match stRandom s u w with | some r => .random r | none => .nearest)
            ((uiImm w).getLsbD 3) (updFtz s) (updVal s u (uiA w)).1).code) = (s2, none) → ∃ t, exec (.upSt h x) s = .next t ∧
        t.mem = s2.mem ∧ t.stages = s2.stages ∧
        t.upd = tput UpdEng.reset s.upd h.val { u with pcw := u.pcw + 1 }) ∧
    (4 < i → ∀ x, (uiOp w = 0x01 → ∃ t, exec (.upLd h x) s = .next t ∧
        t.upd = put ((Config.freeWord s.free).extractLsb' 0 32) ∧ { t with upd := s.upd, free := s.free } = s) ∧
      (uiOp w = 0x02 → ∃ t, exec (.upSt h x) s = .next t ∧
        t.upd = tput UpdEng.reset s.upd h.val { u with pcw := u.pcw + 1 } ∧ { t with upd := s.upd, free := s.free } = s)) ∧
    (∀ b, (uiOp w = 0x0E → (uiImm w).getLsbD 0 = b → ∃ t x, exec (.upBsum h) s = .next t ∧
        x = (joinBlk (updFtz s) true (updVal s u (uiA w)).1 ((Config.freeWord (s.free + 2)).extractLsb' 0 32)
          (if b then u.b1 else u.b0)).1 ∧
        t.upd = tput UpdEng.reset s.upd h.val { u with
          b0 := if b then u.b0 else x, b1 := if b then x else u.b1, pcw := u.pcw + 1 } ∧
        { t with upd := s.upd, ctxs := s.ctxs, free := s.free } = s) ∧
      (uiOp w = 0x0F → (uiImm w).getLsbD 0 = b → ∃ t x, exec (.upBmax h) s = .next t ∧
        x = (joinBlk (updFtz s) false (updVal s u (uiA w)).1 ((Config.freeWord (s.free + 2)).extractLsb' 0 32)
          (if b then u.b1 else u.b0)).1 ∧
        t.upd = tput UpdEng.reset s.upd h.val { u with
          b0 := if b then u.b0 else x, b1 := if b then x else u.b1, pcw := u.pcw + 1 } ∧
        { t with upd := s.upd, ctxs := s.ctxs, free := s.free } = s)))

/-! ### Commit, rollback and checkpoint -/

/-- The deadlines of a commit round. An open round whose step is bad aborts when it is judged, and an open one that V passes,
a voted one that V passes, and one in doubt that D passes are rolled back: the round closes, its outcome is kept, the schedule
stops and the step, or an earlier one, awaits its restore. A member that is ready before V votes; a confirmed one that C
passes is in doubt. Before its deadline, or in another phase, nothing happens. -/
def Obligations.CommitRoundsEndByTheirDeadlines : Prop :=
  ∀ (s : State),
    (commitRec s = none → ∀ i ∈ [Instr.memberReady, .voteWindowExpiry, .confirmDeadline, .doubtDeadline],
      exec i s = .next s) ∧
    ∀ r, commitRec s = some r →
    let rolls := fun (i : Instr) => ∃ t j, exec i s = .next t ∧ t.commit.phase = .closed ∧
      t.commit.closed = s.commit.closed + 1 ∧ t.commit.waiting = none ∧
      t.commit.outcomes = tput .notVoted s.commit.outcomes (s.commit.closed + 1).toNat .rolledBack ∧
      t.sched = .stopped ∧ t.evicts = [] ∧ t.run.rolling = some j ∧ j.toNat ≤ s.commit.step.toNat
    let bad := s.run.stepBad.contains s.commit.step
    let before := fun (d : Pm) => pmLt (hub0Pm s) d
    (s.commit.phase = .open_ → bad = true → rolls .memberReady) ∧
    (∀ i, s.commit.phase = .open_ → bad = false → readyRcpt s r s.commit.step = true → before (voteEnd s r) = true →
      memberPos s r s.place.addr = some i → s.commit.votes ||| BitVec.ofNat 64 (2 ^ i) ≠ fullMask r → ∃ t,
      exec .memberReady s = .next t ∧
      t.commit = { s.commit with phase := .voted, votes := s.commit.votes ||| BitVec.ofNat 64 (2 ^ i) }) ∧
    (s.commit.phase = .closed ∨ s.commit.phase = .doubt ∨
        (s.commit.phase = .open_ ∧ bad = false ∧ (readyRcpt s r s.commit.step = false ∨ before (voteEnd s r) = false)) →
      exec .memberReady s = .next s) ∧
    (before (voteEnd s r) = false → (s.commit.phase = .open_ ∨ s.commit.phase = .voted) → rolls .voteWindowExpiry) ∧
    (before (voteEnd s r) = true ∨ (s.commit.phase ≠ .open_ ∧ s.commit.phase ≠ .voted) →
      exec .voteWindowExpiry s = .next s) ∧
    (before (confirmEnd s r) = false → s.commit.phase = .confirmed → ∃ t, exec .confirmDeadline s = .next t ∧
      t.commit = { s.commit with phase := .doubt, answers := 0 } ∧ t.run = s.run ∧ t.mem = s.mem) ∧
    (before (confirmEnd s r) = true ∨ s.commit.phase ≠ .confirmed → exec .confirmDeadline s = .next s) ∧
    (before (doubtEnd s r) = false → s.commit.phase = .doubt → rolls .doubtDeadline) ∧
    (before (doubtEnd s r) = true ∨ s.commit.phase ≠ .doubt → exec .doubtDeadline s = .next s)

/-- ROLLBACK_RESTORE waits for the round that is open and for the engines; then the step to be rerun, its exponent, its
rerun count and the receipts' counts, but for the commit unit's own, are those of its boundary, every consignment is Idle, no add is on its way, no later step is bad or overflowed,
and the rollback is over. -/
def Obligations.RollbackRestoresTheBoundary : Prop :=
  ∀ (s : State),
    ((s.run.rolling = none ∨ s.commit.phase ≠ .closed ∨ agentsStopped s = false) → exec .rollbackRestore s = .next s) ∧
    ∀ k b, s.run.rolling = some k → s.commit.phase = .closed → agentsStopped s = true →
      s.run.bounds.find? (fun x => x.step == k) = some b → ∃ t, exec .rollbackRestore s = .next t ∧
        t.run.rolling = none ∧ t.run.step = k ∧ t.run.reruns = b.reruns ∧
        (∀ r, r ∉ commitRcpts s → countOf t r = tget 0 b.counts r.toNat) ∧
        t.run.stepBad = s.run.stepBad.filter (fun j => decide (j.toNat < k.toNat)) ∧
        t.run.ovf = s.run.ovf.filter (fun j => decide (j.toNat < k.toNat)) ∧
        t.run.bounds = s.run.bounds.filter (fun x => decide (x.step.toNat ≤ k.toNat)) ∧
        t.commit = { s.commit with forceExp := b.forceExp } ∧ t.cons = [] ∧ t.upd = [] ∧ t.rcpt.adds = [] ∧
        t.sched = s.sched ∧ t.evicts = s.evicts ∧ t.ctxs = s.ctxs ∧ t.links = s.links

/-- LOCAL_WRITE_COMPLETE ends the local write of a cut once and begins its copy; GENERATION_SEALED marks the newer generation
sealed when the copy has been acknowledged, adds to the checkpoint's receipt and posts ckpt.done. Neither acts while the
schedule does not run. -/
def Obligations.CheckpointsAreWrittenThenSealed : Prop :=
  ∀ (s : State),
    ((s.ckpt.writing = false ∨ s.sched ≠ .running ∨ ckptRec s = none) →
      exec .localWriteComplete s = .next s ∧ exec .generationSealed s = .next s) ∧
    (s.ckpt.localDone = true → exec .localWriteComplete s = .next s) ∧
    (s.ckpt.localDone = false → exec .generationSealed s = .next s) ∧
    ∀ r, ckptRec s = some r → s.ckpt.writing = true → s.sched = .running →
      (s.ckpt.localDone = false → ∃ t, exec .localWriteComplete s = .next t ∧
        t.ckpt = { s.ckpt with localDone := true, heldBits := [] } ∧ t.mem = s.mem ∧ t.run = s.run ∧ t.rcpt = s.rcpt ∧
        (s.ckpt.heldBits = [] → t.slots = s.slots)) ∧
      (∀ g, s.ckpt.localDone = true → s.ckpt.newer = some g → (e2eOf s 0).reqs.any (fun x => x.for_ == .ckpt) = false → ∃ t x,
        exec .generationSealed s = .next t ∧
        t.ckpt = { s.ckpt with writing := false, newer := some { g with sealed_ := true, hdr := putBit g.hdr 501 true } } ∧
        t.rcpt.adds = s.rcpt.adds ++ [(ckDone r, 1, ckptSrc s)] ∧
        t.paths = { s.paths with posted := s.paths.posted ++ [x] } ∧ x.code = evCkptDone ∧
        { t with ckpt := s.ckpt, rcpt := s.rcpt, paths := s.paths } = s)

/-! ### Collectives and die interfaces -/

/-- COLLECTIVE_STARTS: the earliest armed collective of the office starts once every earlier one has started or failed, fewer
than 8 are active, the office runs and no memory it reaches is being re-keyed; a station that begins no piece of its own and holds none only becomes active.
COLL_TIMEOUT: an armed collective that has not started at its timeout fails with E_COLL_ORDER, its held pieces leave and
coll.order is posted; before it, nothing happens. -/
def Obligations.CollectivesStartInOrderOrFail : Prop :=
  ∀ (s : State) (h : Fin 4),
    let o := officeOf s h.val
    (∀ c met, earliest (o.colls.filter fun x => x.st = .armed) = some c → tabWf Office.reset s.offices = true →
      (officeRuns s c = true → mustWait s h.val (collKey c) = false → (o.colls.filter fun x => x.st = .active).length < 8 →
        met.lane = none → met.ecc.outcome = .clean → anyWaits s (collSpans c.entry) = false → o.lanesLive ≠ 0 →
        exec (.collectiveStarts h met) s = .next (startColl s h.val c) ∧
        ((if isReduce c.entry then isFirst c.entry else isRoot c.entry) = false → heldOf o (collKey c) = [] →
          startColl s h.val c = { s with offices := tput Office.reset s.offices h.val { o with
            colls := o.colls.map fun x => if collKey x == collKey c then { c with st := .active } else x
            held := o.held.filter fun x => !(phStart x.ph == c.start && phId x.ph == coId c.entry) } })) ∧
      ((officeRuns s c = false ∨ mustWait s h.val (collKey c) = true ∨
          8 ≤ (o.colls.filter fun x => x.st = .active).length ∨ anyWaits s (collSpans c.entry) = true) →
        exec (.collectiveStarts h met) s = .next s)) ∧
    (o.colls.filter (fun x => x.st = .armed) = [] → ∀ met, exec (.collectiveStarts h met) s = .next s) ∧
    (∀ id c, tabWf Office.reset s.offices = true → o.colls.find? (fun c => coId c.entry == id && (c.st = .armed || c.st = .listed)) = some c →
      (collLate s h.val c.start c.entry = false → exec (.collTimeout h id) s = .next s) ∧
      (collLate s h.val c.start c.entry = true → ∃ t, exec (.collTimeout h id) s = .next t ∧
        t.offices = tput Office.reset s.offices h.val { o with
          colls := o.colls.map fun x => if collKey x == collKey c then { c with st := .failed } else x
          held := o.held.filter fun x => !(phId x.ph == coId c.entry && phStart x.ph == c.start)
          collFailed := satInc o.collFailed } ∧
        (∃ r rest, t.paths.posted = s.paths.posted ++ r :: rest ∧ r.code = evCollOrder ∧ r.err = eCollOrder) ∧
        t.mem = s.mem ∧ t.rcpt = s.rcpt ∧ t.run = s.run))

/-- HDI_FRAME_RECEIVED: a port whose turn it is not, or that is not live or retrains, does nothing. A failing frame hands nothing
on and asks for a replay, and what follows it is discarded until then; the sender of the failing frame goes back to it when a good
frame brings the negative acknowledgement, and at the fourth replay of the same frame the port retrains and hdi.retrain is posted; a
good frame after replays counts one and posts hdi.replay. A unit that a port has a credit for, with nothing before it, crosses in
the next good frame. HDI_RETRAIN_DONE: a port whose failing wires each find a spare is in service again; one with a bad clock or
too few spares is retired, with hdi.port_retired. -/
def Obligations.HdiPortsReplayRetrainAndRetire : Prop :=
  ∀ (s : State) (b : Fin 40) (p : Fin 4), tabWf HdiPort.reset s.hdi = true → tabWf HdiFlow.reset s.bundles = true →
    let n := b.val * 4 + p.val
    let x := hdiOf s n
    let put := fun (y : HdiPort) => tput HdiPort.reset s.hdi n y
    (∀ up ok us, nextPort s b.val up ≠ some p.val → exec (.hdiFrameReceived b p up ok us) s = .next s) ∧
    (x.live = false ∨ x.retraining = true → ∀ up, nextPort s b.val up ≠ some p.val) ∧
    (∀ up ok us, nextPort s b.val up = some p.val → (ok = false ∨ (wayOf x up).discard = true) → ∃ t,
      exec (.hdiFrameReceived b p up ok us) s = .next t ∧ (wayOf (hdiOf t n) up).discard = true ∧
      ((wayOf x up).discard = false → (wayOf (hdiOf t n) up).nak = true) ∧ wayOf (hdiOf t n) (!up) = wayOf x (!up) ∧
      (flowOf t b.val up).low = (flowOf s b.val up).low ∧ (flowOf t b.val up).held = (flowOf s b.val up).held ∧
      { t with hdi := s.hdi, bundles := s.bundles } = s) ∧
    (∀ up us, nextPort s b.val up = some p.val → (wayOf x up).discard = false → (wayOf x (!up)).nak = true → ∃ t,
      exec (.hdiFrameReceived b p up true us) s = .next t ∧ t.mem = s.mem ∧
      ((wayOf x (!up)).tries < 3 → (wayOf (hdiOf t n) (!up)).tries = (wayOf x (!up)).tries + 1 ∧
        (wayOf (hdiOf t n) (!up)).next = 0 ∧ (wayOf (hdiOf t n) (!up)).nak = false ∧
        (wayOf (hdiOf t n) (!up)).discard = false ∧ (hdiOf t n).retraining = false) ∧
      (3 ≤ (wayOf x (!up)).tries → (hdiOf t n).live = true ∧ (hdiOf t n).retraining = true ∧ (hdiOf t n).up = HdiWay.reset ∧
        (hdiOf t n).down = HdiWay.reset ∧ ∃ l r, t.paths.posted = s.paths.posted ++ l ++ [r] ∧ r.code = evHdiRetrain)) ∧
    (∀ up us, nextPort s b.val up = some p.val → (wayOf x up).discard = false → (wayOf x (!up)).nak = false →
      (wayOf x up).tries ≠ 0 → ∃ t r rest, exec (.hdiFrameReceived b p up true us) s = .next t ∧
      (hdiOf t n).replays = x.replays + 1 ∧ (hdiOf t n).transient = x.transient + 1 ∧ (wayOf (hdiOf t n) up).tries = 0 ∧
      t.paths.posted = s.paths.posted ++ r :: rest ∧ r.code = evHdiReplay ∧ t.mem = s.mem) ∧
    (∀ up u, nextPort s b.val up = some p.val → (wayOf x up).discard = false → (wayOf x (!up)).nak = false → b.val < 36 →
      0 < frameUnits s b.val p.val up → (wayOf x up).replay = [] → (wayOf x up).next = 0 →
      (wayOf x up).credits.get u.chan ≠ 0 → (flowOf s b.val up).waiting = ⟨[], [], []⟩ →
      (flowOf s b.val up).transit = ⟨[], [], []⟩ → (flowOf s b.val up).moved = [] → (flowOf s b.val up).held = [] →
      (flowOf s b.val up).low = (flowOf s b.val up).seq → ∃ t rest, exec (.hdiFrameReceived b p up true [u]) s = .next t ∧
      t.out = s.out ++ .unit b.val up u :: rest ∧ (flowOf t b.val up).seq = (flowOf s b.val up).seq + 1 ∧
      (flowOf t b.val up).low = (flowOf s b.val up).low + 1 ∧ t.mem = s.mem) ∧
    (∀ bad clk, x.live = false ∨ x.retraining = false → exec (.hdiRetrainDone b p bad clk) s = .next s) ∧
    (∀ bad clk, x.live = true → x.retraining = true →
      (clk = true ∨ sparesEnough x bad.dedup = false → ∃ t r rest, exec (.hdiRetrainDone b p bad clk) s = .next t ∧
        t.hdi = put { x with live := false, retraining := false, up := HdiWay.reset, down := HdiWay.reset } ∧
        t.paths.posted = s.paths.posted ++ r :: rest ∧ r.code = evHdiPortRetired) ∧
      (clk = false → sparesEnough x bad.dedup = true → exec (.hdiRetrainDone b p bad clk) s =
          .next (spareWires { s with hdi := put { x with retraining := false } } b.val p.val bad.dedup)) ∧
      (clk = false → sparesEnough x [] = true → exec (.hdiRetrainDone b p [] clk) s =
        .next { s with hdi := put { x with retraining := false } }))

/-! ### Torus links -/

/-- Flits, replays and fast retrains of a link that is up. A flit that is not sound, or that is out of sequence, is discarded, counts
nothing received and sets `nak`; one in sequence is counted and clears it, and moves `rx_seq` on unless it is idle; a packet of one
unit that it carries stands in its pool, or is dropped with link.pkt_bad. ACK_TIMEOUT 1 us after the oldest unacknowledged flit
sends all of them again, a fast retrain begins after the fourth replay in vain, and a later eighth takes the link Down.
RETRAIN_DONE within 40 us at the link's rate with every lane passing replays what is unacknowledged under a new epoch; with no lane
passing it tries the next lower rate; an outcome that comes later, and RETRAIN_TIMEOUT, take the link Down with link.down. -/
def Obligations.LinksReplayAndRetrain : Prop :=
  ∀ (s : State) (l : Fin 12), tabWf Link.reset s.links = true → tabWf LinkCtr.reset s.linkCtr = true →
    let k := linkOf s l.val
    let c := tget LinkCtr.reset s.linkCtr l.val
    let ctr := fun (t : State) => tget LinkCtr.reset t.linkCtr l.val
    let now := fun (t : State) => linkOf t l.val
    let up := k.st = .up ∨ k.st = .replaying
    let downs := fun (i : Instr) (cause : BitVec 4) => ∃ t r, exec i s = .next t ∧ (now t).st = .down ∧
      (now t).downCause = cause ∧ r ∈ t.paths.posted ∧ r.code = evLinkDown ∧ r.err = eLinkDown ∧
      linkChannel l.val ∈ t.sh.retired ∧ t.mem = s.mem
    (¬ up → ∀ f, exec (.flitReceived l f) s = .next s ∧ exec (.ackTimeout l) s = .next s) ∧
    (up → ∀ f,
      ((flitSound k f = false ∨ fhSeq f.hdr ≠ k.rxSeq + 1) → ∃ t, exec (.flitReceived l f) s = .next t ∧
        (now t).rxSeq = k.rxSeq ∧ (now t).nak = true ∧ (now t).pool = k.pool ∧ (now t).st = k.st ∧
        (ctr t).flitsRx = c.flitsRx ∧ (ctr t).fecCorr = satAdd c.fecCorr f.fecFix ∧
        (ctr t).fecUncorr = (if f.fecOk then c.fecUncorr else satInc c.fecUncorr) ∧ t.paths = s.paths ∧ t.mem = s.mem) ∧
      (flitSound k f = true → fhSeq f.hdr = k.rxSeq + 1 → fhNak f.hdr = false →
        ∃ t, exec (.flitReceived l f) s = .next t ∧ (now t).nak = false ∧ (ctr t).flitsRx = satInc c.flitsRx ∧
          (fhKind f.hdr = 1 → (now t).rxSeq = k.rxSeq) ∧ (fhKind f.hdr ≠ 1 → (now t).rxSeq = fhSeq f.hdr) ∧
          (fhKind f.hdr ≠ 0 → (now t).pool = k.pool) ∧ t.mem = s.mem) ∧
      (∀ u rest, flitSound k f = true → fhSeq f.hdr = k.rxSeq + 1 → fhNak f.hdr = false → fhKind f.hdr = 0 →
        f.slots = u :: rest → slotVc f.hdr 1 ≠ 0 → (fhSopMap f.hdr).getLsbD 0 = true →
        (∀ n, 2 ≤ n → n ≤ 7 → slotVc f.hdr n = 0) → pkCount (packetOf [u]).hdr = 1 →
        tget [] k.rxPart ((slotVc f.hdr 1 - 1) * 2 + b2n (slotClass f.hdr 1)) = [] → ∃ t, exec (.flitReceived l f) s = .next t ∧
          (packetGood (packetOf [u]) (slotVc f.hdr 1) = true →
            (now t).pool = k.pool ++ [(slotClass f.hdr 1, packetOf [u])]) ∧
          (packetGood (packetOf [u]) (slotVc f.hdr 1) = false → (now t).pool = k.pool ∧ (ctr t).pktBad = satInc c.pktBad ∧
            ∃ r ∈ t.paths.posted, r.code = evLinkPktBad ∧ r.err = eFormat))) ∧
    (up → (k.replay = [] ∨ s.ns < k.ackNs + 1000) → exec (.ackTimeout l) s = .next s) ∧
    (k.replay ≠ [] → k.ackNs + 1000 ≤ s.ns →
      (∀ n, ((k.st = .up ∧ n = 0) ∨ (k.st = .replaying ∧ n = k.n ∧ (n < 4 ∨ (n = 4 ∧ k.retrained = true) ∨ (4 < n ∧ n < 8)))) →
        ∃ t, exec (.ackTimeout l) s = .next t ∧ (now t).st = .replaying ∧ (now t).n = n + 1 ∧ (now t).replay = k.replay ∧
          (∀ f ∈ k.replay, Out.flit l f.hdr f.slots ∈ t.out) ∧ (ctr t).replays = satInc c.replays ∧ t.mem = s.mem) ∧
      (k.st = .replaying → k.n = 4 → k.retrained = false → ∃ t r, exec (.ackTimeout l) s = .next t ∧
        t.links = tput Link.reset s.links l.val { k with st := .retraining, stNs := s.ns, wanted := none, crossed := false } ∧
        t.linkCtr = tput LinkCtr.reset s.linkCtr l.val { c with retrains := satInc c.retrains } ∧
        t.paths = { s.paths with posted := s.paths.posted ++ [r] } ∧ r.code = evLinkRetrain) ∧
      (k.st = .replaying → 8 ≤ k.n → downs (.ackTimeout l) 1)) ∧
    (∀ ok rate g, (k.st ≠ .retraining ∨ rate ≠ k.rate) → exec (.retrainDone l ok rate g) s = .next s) ∧
    (∀ ok g, k.st = .retraining → k.stNs + 40000 < s.ns → downs (.retrainDone l ok k.rate g) 2) ∧
    (∀ ok, k.st = .retraining → s.ns ≤ k.stNs + 40000 → k.live &&& ok ≠ 0 → k.live &&& ~~~ok = 0 →
      (widthFor (laneCount (k.live &&& ok))).toNat ≤ k.lanes.toNat → k.lanes.toNat ≤ (minLanes s).toNat → ∃ t,
      exec (.retrainDone l ok k.rate (s.regs.gcmEn.getLsbD l.val)) s = .next t ∧
      (k.replay = [] → (now t).st = .up) ∧
      (k.replay ≠ [] → (now t).st = .replaying ∧ (now t).n = 5 ∧ (now t).retrained = true ∧
        ∀ f ∈ k.replay, Out.flit l f.hdr f.slots ∈ t.out) ∧
      (now t).gcm = s.regs.gcmEn.getLsbD l.val ∧ (now t).live = k.live ∧ (now t).lanes = k.lanes ∧ (now t).rate = k.rate ∧
      (now t).keyEpoch = (if s.regs.gcmEn.getLsbD l.val then k.keyEpoch + 1 else k.keyEpoch) ∧ t.mem = s.mem) ∧
    (∀ ok g, k.st = .retraining → s.ns ≤ k.stNs + 40000 → k.live &&& ok = 0 → k.rate.toNat < 2 →
      k.rate.toNat < (minRate s).toNat → ∃ t r, exec (.retrainDone l ok k.rate g) s = .next t ∧
      t.links = tput Link.reset s.links l.val { k with rate := k.rate + 1 } ∧
      t.paths = { s.paths with posted := s.paths.posted ++ [r] } ∧ r.code = evAdaptLinkWidth) ∧
    ((k.st ≠ .retraining ∨ s.ns < k.stNs + 40000) → exec (.retrainTimeout l) s = .next s) ∧
    (k.st = .retraining → k.stNs + 40000 ≤ s.ns → downs (.retrainTimeout l) 2)

/-- Training, changes of width, control frames and key epochs. A link that waits for its peer sends its identity and trains when the
peer answers; training that finds lanes, wiring, authentication and encryption right within 150 ms brings it Up with full stamps;
one that finds other wiring or a wrong authentication holds it Down with link.miswire or link.auth_fail; one that takes longer
fails with link.down. An agreed change of width completes, or becomes a fast retrain; a request or an answer of the peer changes
the width, its notices retrain the link or take it Down; after 2^40 flits a new key epoch begins. -/
def Obligations.LinksTrainAndChangeWidth : Prop :=
  ∀ (s : State) (l : Fin 12), tabWf Link.reset s.links = true →
    let k := linkOf s l.val
    let put := fun (x : Link) => tput Link.reset s.links l.val x
    let now := fun (t : State) => linkOf t l.val
    let wired := fun (r : TrainResult) => r.lanesOk ≠ 0 ∧ r.framing = true ∧ r.peerAddr = peerPkg s l.val ∧
      r.peerLink.toNat = peerLinkNo l.val
    let timely := k.st = .training ∧ s.ns ≤ k.stNs + 150000000
    let fails := fun (i : Instr) => ∃ t r, exec i s = .next t ∧ (now t).st = .down ∧ (now t).downCause = 3 ∧
      r ∈ t.paths.posted ∧ r.code = evLinkDown ∧ r.err = eLinkDown ∧ linkChannel l.val ∈ t.sh.retired
    (k.st = .down → k.waitPeer = true → s.place.set = true → k.authHeld = false → exec (.trainingStart l) s =
      .next { s with links := put { k with st := .training, stNs := s.ns, gcm := s.regs.gcmEn.getLsbD l.val }
                     out := s.out ++ [.train l s.place.addr (BitVec.ofNat 4 l.val) idPart (idRev.setWidth 16)] }) ∧
    ((k.st ≠ .down ∨ k.waitPeer = false ∨ s.place.set = false ∨ k.authHeld = true) →
      exec (.trainingStart l) s = .next s) ∧
    (k.st ≠ .training → ∀ r, exec (.trainingDone l r) s = .next s ∧ exec (.trainingTimeout l) s = .next s) ∧
    (∀ r, timely → wired r → authStep s r = 0 → r.gcmPeer = k.gcm →
      (widthFor (laneCount r.lanesOk)).toNat ≤ (minLanes s).toNat → ∃ t l' x, exec (.trainingDone l r) s = .next t ∧
      (now t).st = .up ∧ (now t).live = r.lanesOk ∧ (now t).lanes = widthFor (laneCount r.lanesOk) ∧ (now t).rate = 0 ∧
      (now t).keyEpoch = 0 ∧ (now t).flSeq = 0 ∧ (now t).ackSeq = 0xFFFF ∧ (now t).rxSeq = 0xFFFF ∧ (now t).replay = [] ∧
      (now t).peerAddr = r.peerAddr ∧ (now t).secret = r.secret ∧
      (now t).stamps = [(0, 2048), (1, 512), (2, 2048), (3, 512)] ∧ linkChannel l.val ∉ t.sh.retired ∧
      t.paths.posted = s.paths.posted ++ l' ++ [x] ∧ x.code = evLinkUp) ∧
    (∀ r, timely → wired r → authStep s r ≠ 0 → ∃ t x, exec (.trainingDone l r) s = .next t ∧ (now t).st = .down ∧
      (now t).downCause = 5 ∧ (now t).authHeld = true ∧ x ∈ t.paths.posted ∧ x.code = evLinkAuthFail ∧ x.err = eKey) ∧
    (∀ r, timely → r.lanesOk ≠ 0 → r.framing = true → (r.peerAddr ≠ peerPkg s l.val ∨ r.peerLink.toNat ≠ peerLinkNo l.val) →
      ∃ t x, exec (.trainingDone l r) s = .next t ∧ (now t).st = .down ∧ (now t).downCause = 4 ∧ x ∈ t.paths.posted ∧
      x.code = evLinkMiswire ∧ x.err = eLinkDown) ∧
    (∀ r, k.st = .training → k.stNs + 150000000 < s.ns → fails (.trainingDone l r)) ∧
    (k.st = .training → s.ns < k.stNs + 150000000 → exec (.trainingTimeout l) s = .next s) ∧
    (k.st = .training → k.stNs + 150000000 ≤ s.ns → fails (.trainingTimeout l)) ∧
    (∀ ok, k.st ≠ .changing → exec (.widthChangeDone l ok) s = .next s) ∧
    (∀ w, k.st = .changing → k.wanted = some w → ∃ t, exec (.widthChangeDone l true) s = .next t ∧ (now t).st = .up ∧
      (now t).lanes = w.1 ∧ (now t).rate = w.2 ∧ (now t).wanted = none ∧
      (∀ f ∈ k.replay, Out.flit l f.hdr f.slots ∈ t.out) ∧ t.mem = s.mem) ∧
    (k.st = .changing → ∃ t, exec (.widthChangeDone l false) s = .next t ∧
      t.links = put { k with st := .retraining, stNs := s.ns, wanted := none, crossed := false }) ∧
    (∀ ok kind lanes rate, (laneUp s = false ∨ ok = false ∨ 4 ≤ kind.toNat) → exec (.linkCtl l ok kind lanes rate) s = .next s) ∧
    (laneUp s = true → (k.st = .up ∨ k.st = .replaying) → ∀ lanes rate : BitVec 2,
      (rate ≠ 3 → k.wanted = none →
        let b := named s l.val lanes rate
        ∃ t, exec (.linkCtl l true 0 lanes rate) s = .next t ∧ t.mem = s.mem ∧
        (widthFor (laneCount k.live)).toNat ≤ b.1.toNat ∧ (now t).lanes = k.lanes ∧ (now t).rate = k.rate ∧
        (b = (k.lanes, k.rate) → (now t).st = k.st ∧ (now t).wanted = none) ∧
        (b ≠ (k.lanes, k.rate) → (now t).st = .changing ∧ (now t).wanted = some b)) ∧
      (∃ t, exec (.linkCtl l true 1 lanes rate) s = .next t ∧
        t.links = put { k with st := .retraining, stNs := s.ns, wanted := none, crossed := false }) ∧
      (∀ w, rate ≠ 3 → k.wanted = some w → k.crossed = false → (widthFor (laneCount k.live)).toNat ≤ lanes.toNat →
        exec (.linkCtl l true 3 lanes rate) s = .next { s with links := put (if lanes = k.lanes ∧ rate = k.rate
          then { k with wanted := none, crossed := false }
          else { k with st := .changing, wanted := some (lanes, rate), crossed := false }) })) ∧
    (laneUp s = true → k.st ≠ .down → ∀ lanes rate, ∃ t, exec (.linkCtl l true 2 lanes rate) s = .next t ∧
      (now t).st = .down ∧ (now t).downCause = 8 ∧
      (k.st ≠ .training → ∃ x ∈ t.paths.posted, x.code = evLinkFailover)) ∧
    (k.gcm = true → (k.st = .up ∨ k.st = .replaying) → 2 ^ 40 ≤ k.epochFlits → exec (.newEpoch l) s =
      .next { s with links := put { k with keyEpoch := k.keyEpoch + 1, epochFlits := 0 } }) ∧
    ((k.gcm = false ∨ k.epochFlits < 2 ^ 40 ∨ (k.st ≠ .up ∧ k.st ≠ .replaying)) → exec (.newEpoch l) s = .next s)

/-! ### The end-to-end layer -/

/-- A request of another package arrives at its hub: one for another place, of another kind than its command, behind an older
packet of its pool, or for memory that is being re-keyed, does nothing yet; in a package that is not Ready it is answered E_STATE,
and with no window free E_BUSY; one whose sequence number lies below the window, or has been executed, is not executed again,
whatever it asks, and one that is held already is not held twice. -/
def Obligations.RequestsAreExecutedOnce : Prop :=
  ∀ (s : State) (h : Fin 4) (p : Packet) (met m : PieceMet) (i : Instr) (t : BitVec 4) (kind : Bool),
    (i, t, kind, m) ∈ [(.writePacket h p, 1, !anyWaits s (writeSpan s p), pieceClean), (.envelopePacket h p, 2, true, pieceClean),
      (.rcptAddPacket h p, 3, true, pieceClean), (.commitVote h p, 4, commitKind p == 1, pieceClean),
      (.commitConfirm h p, 4, commitKind p == 2, pieceClean), (.commitAbort h p, 4, commitKind p == 3, pieceClean),
      (.commitQuery h p, 4, commitKind p == 4, pieceClean), (.collAbort h p, 5, isAbort p, pieceClean),
      (.piece h p met, 5, !isAbort p && !anyWaits s (metSpans s h p), met)] →
    let here := pkPtype p.hdr = t ∧ pkDstPkg p.hdr = s.place.addr ∧ (pkDstHub p.hdr).toNat = h.val ∧ pkRsv p.hdr = true ∧
      kind = true ∧ notFirst s p = false
    let e := e2eOf s h.val
    let u := leavePool s p
    let say := fun (c : Err) => sendRsp u h.val (pkSrcPkg p.hdr) (pkSrcHub p.hdr) (pkSeq p.hdr) (pkFlow p.hdr) c []
    (¬ here → exec i s = .next s) ∧
    (here → exec i s = .next (arrive u h p m)) ∧
    (here → s.dev ≠ .ready → exec i s = .next (say eState)) ∧
    (here → s.dev = .ready → findWin e (pkSrcPkg p.hdr) (pkSrcHub p.hdr) = none → 8192 ≤ e.wins.length →
      exec i s = .next (say eBusy)) ∧
    (∀ w, here → s.dev = .ready → findWin e (pkSrcPkg p.hdr) (pkSrcHub p.hdr) = some w →
      let w1 := { advanceWin w (pkAck p.hdr) with lastNs := s.ns }
      ((∀ x ∈ e.wins, x.held = []) → (seqLt (pkSeq p.hdr) w1.low = true ∨ w1.done.any (fun d => d.1 == pkSeq p.hdr) = true) →
        ∃ v, exec i s = .next v ∧
          { v with e2e := s.e2e, links := s.links, linkCtr := s.linkCtr, out := s.out, paths := s.paths } = s) ∧
      (seqLt (pkSeq p.hdr) w1.low = false → inReach w1 (pkSeq p.hdr) = true → w1.done.any (fun d => d.1 == pkSeq p.hdr) = false →
        w1.held.any (fun x => pkSeq x.1.hdr == pkSeq p.hdr) = true →
        exec i s = .next (runAll (modE2e (modE2e u h.val fun y => putWin y w1) h.val fun y =>
          { y with dupReq := satInc y.dupReq }) h)))

/-- The first request of a new stream, first in its pool, with the package Ready and no other request held: RCPT_ADD adds to an
open receipt and is refused on a closed one with rcpt.refused; ENVELOPE sets its envelope on the way to its core; WRITE writes its
bytes into the slot it names and claims it, and no add, write or claim is made while a rollback has acted; a vote, confirm or abort
counts only in the current round, and an abort rolls an open round back; a query changes nothing; a piece for an armed collective
is held while a slot is free, and an abort fails its collective. -/
def Obligations.FirstRequestsHaveTheirEffect : Prop :=
  ∀ (s : State) (h : Fin 4) (p : Packet) (t : BitVec 4), pkPtype p.hdr = t → pkDstPkg p.hdr = s.place.addr →
    (pkDstHub p.hdr).toNat = h.val → pkRsv p.hdr = true → s.dev = .ready → notFirst s p = false →
    tabWf E2e.reset s.e2e = true → tabWf Office.reset s.offices = true → (∀ w ∈ (e2eOf s h.val).wins, w.held = []) →
    findWin (e2eOf s h.val) (pkSrcPkg p.hdr) (pkSrcHub p.hdr) = none → (e2eOf s h.val).wins.length < 8192 →
    pkSeq p.hdr = pkAck p.hdr + 1 → storeUsed (e2eOf s h.val) < 2 ^ 20 →
    let stops := s.sched = .stopped ∨ s.run.rolling.isSome = true
    let rc : BitVec 14 := BitVec.ofNat 14 (dataNat p 0 2)
    let src := (pkSrcPkg p.hdr).setWidth 32 <<< 17
    (t = 3 → stops → ∃ u, exec (.rcptAddPacket h p) s = .next u ∧ u.rcpt = s.rcpt ∧ u.mem = s.mem) ∧
    (t = 3 → ¬ stops → rcptOpen s rc = true → ∃ u, exec (.rcptAddPacket h p) s = .next u ∧ u.mem = s.mem ∧
      u.rcpt = { s.rcpt with adds := s.rcpt.adds ++ [(rc, BitVec.ofNat 32 (dataNat p 2 4),
        src ||| BitVec.ofNat 32 (rc.toNat / 4096 * 4096 + 0xA90))] }) ∧
    (t = 3 → ¬ stops → rcptOpen s rc = false → ∃ u r rest, exec (.rcptAddPacket h p) s = .next u ∧ u.rcpt = s.rcpt ∧
      u.paths.posted = s.paths.posted ++ r :: rest ∧ r.code = evRcptRefused ∧ r.err = eKey) ∧
    (t = 2 → let hd : BitVec 512 := BitVec.ofNat 512 (dataNat p 0 64)
      ∃ u o, exec (.envelopePacket h p) s = .next u ∧ u.mem = s.mem ∧
        u.flights = s.flights ++ [.env hd ((p.data.drop 64).take (ehLen hd).toNat) 0 (some o)] ∧
        o = { hub := h, pkg := pkSrcPkg p.hdr, shub := pkSrcHub p.hdr, seq := pkSeq p.hdr, flow := pkFlow p.hdr }) ∧
    (t = 1 →
      let pl : BitVec 256 := BitVec.ofNat 256 (dataNat p 0 32)
      let off := dataNat p 48 8
      let len := dataNat p 38 2
      (stops → ∃ u, exec (.writePacket h p) s = .next u ∧ u.mem = s.mem ∧ u.slots = s.slots ∧ u.rcpt = s.rcpt) ∧
      (∀ d a, ¬ stops → plKind pl ≠ 0 → queueDesc s (plQueue pl).toNat = some d →
        a = slotAddr d (slotIdx d (plMb pl).toNat) + off → off < 2 ^ 63 → (qdProducer d).toNat = dataNat p 36 2 →
        postAccepts (slotOf s (plQueue pl).toNat (slotIdx d (plMb pl).toNat)) (plMb pl) = true →
        permitted s (ctxKey s (imgOwner s)) a len false true = true → touchesRetired s a len = false →
        touchesPoison s a len true = false → inStatus a = false → anyWaits s (writeSpan s p) = false →
        ∃ u, exec (.writePacket h p) s = .next u ∧ u.mem = (wrMem s a ((p.data.drop 56).take len)).mem ∧
          u.slots = (claimSlot s (plQueue pl).toNat d (plMb pl)).slots ∧ u.rcpt = s.rcpt)) ∧
    (t = 4 → commitKind p = 4 → ∃ u, exec (.commitQuery h p) s = .next u ∧
      { u with e2e := s.e2e, links := s.links, linkCtr := s.linkCtr, out := s.out, paths := s.paths } = s) ∧
    (∀ r j, t = 4 → commitRec s = some r → memberPos s r (pkSrcPkg p.hdr) = some j →
      let cur := BitVec.ofNat 32 (dataNat p 1 4) = s.commit.closed + 1
      let bit : BitVec 64 := BitVec.ofNat 64 (2 ^ j)
      (commitKind p = 1 → cur → pkSrcPkg p.hdr ≠ s.place.addr → s.commit.votes ||| bit ≠ fullMask r →
        s.commit.phase ≠ .confirmed →
        ∃ u, exec (.commitVote h p) s = .next u ∧ u.commit = { s.commit with votes := s.commit.votes ||| bit }) ∧
      (commitKind p = 2 → cur → pkSrcPkg p.hdr ≠ s.place.addr → s.commit.confirms ||| bit ≠ fullMask r →
        s.commit.phase ≠ .voted →
        ∃ u, exec (.commitConfirm h p) s = .next u ∧ u.commit = { s.commit with confirms := s.commit.confirms ||| bit }) ∧
      (commitKind p = 3 → cur → pkSrcPkg p.hdr ≠ s.place.addr → s.commit.phase ≠ .closed →
        ∃ u k, exec (.commitAbort h p) s = .next u ∧ u.commit.phase = .closed ∧ u.commit.closed = s.commit.closed + 1 ∧
          u.sched = .stopped ∧ u.run.rolling = some k ∧ k.toNat ≤ s.commit.step.toNat) ∧
      (∀ i, (i, commitKind p) ∈ [(Instr.commitVote h p, 1), (.commitConfirm h p, 2), (.commitAbort h p, 3)] → ¬ cur →
        ∃ u st, exec i s = .next u ∧ u.commit = { s.commit with stale := st } ∧ u.run = s.run ∧ u.rcpt = s.rcpt)) ∧
    (∀ met, t = 5 → isAbort p = false →
      let ph : BitVec 384 := BitVec.ofNat 384 (dataNat p 0 48)
      let o := officeOf s h.val
      collState s h.val (phStart ph, phId ph) = some .armed → (heldPieces o).length < holdSlots s h.val →
      (heldPieces o).contains (phId ph, phStart ph, phPiece ph, phRound ph) = false →
        ∃ u, exec (.piece h p met) s = .next u ∧ u.mem = s.mem ∧ u.offices = tput Office.reset s.offices h.val
          { o with held := o.held ++ [⟨ph, p.data.drop 48⟩], piecesHeld := satInc o.piecesHeld }) ∧
    (∀ c, t = 5 → isAbort p = true →
      let ph : BitVec 384 := BitVec.ofNat 384 (dataNat p 0 48)
      let o := officeOf s h.val
      findColl o (phStart ph, phId ph) = some c → (c.st = .armed ∨ c.st = .active) →
        ∃ u, exec (.collAbort h p) s = .next u ∧ u.mem = s.mem ∧ u.offices = tput Office.reset s.offices h.val { o with
          colls := o.colls.map fun x => if collKey x == collKey c then { c with st := .failed } else x
          held := o.held.filter fun x => !(phId x.ph == coId c.entry && phStart x.ph == c.start)
          collFailed := satInc o.collFailed })

/-- Responses, acknowledgements, packets in transit and the timers of the end-to-end layer. A response without its request is
counted as a duplicate; E_BUSY leaves its request to be resent after 1 us; any other completes it, and an answer that the round
was committed settles a member in doubt. An acknowledgement advances its window. A packet in transit leaves by its next link with
one hop more, and is discarded at 255 hops with link.misroute. A request unanswered for 2 ms completes with E_LINK_DOWN; a stream
whose acknowledgement was not told for 2 us sends it; an idle window is freed after 1 ms. -/
def Obligations.ResponsesTransitAndTimers : Prop :=
  ∀ (s : State) (h : Fin 4) (p : Packet), notFirst s p = false → tabWf E2e.reset s.e2e = true →
    let e := e2eOf s h.val
    let u := leavePool s p
    let put := fun (x : E2e) => tput E2e.reset s.e2e h.val x
    let match_ := fun (r : Req) => ofStream (pkSrcPkg p.hdr) (pkSrcHub p.hdr) r && r.seq == pkSeq p.hdr
    let plain := ackless (pkStatus p.hdr) = true ∨ findWin e (pkSrcPkg p.hdr) (pkSrcHub p.hdr) = none
    (isFor s h 8 p = false → exec (.rsp h p) s = .next s ∧ exec (.commitQueryAnswer h p) s = .next s) ∧
    (isFor s h 8 p = true → isQueryAnswer s h p = false → plain →
      (e.reqs.find? match_ = none → exec (.rsp h p) s = .next { u with e2e := put { e with dupRsp := satInc e.dupRsp } }) ∧
      (∀ r, e.reqs.find? match_ = some r →
        (pkStatus p.hdr = eBusy → exec (.rsp h p) s = .next { u with e2e := put { e with
          reqs := e.reqs.map fun x => if x == r then { x with busy := true, sentNs := s.ns } else x } }) ∧
        (pkStatus p.hdr = eOk → (∃ n, r.for_ = .write n) → covered e r eOk = [] →
          exec (.rsp h p) s = .next (dropReq u h.val r)) ∧
        (∀ c rc, pkStatus p.hdr = eLinkDown → r.for_ = .rcptAdd c rc → isGuestDie s (dieOf c) = false → ∃ t x,
          exec (.rsp h p) s = .next t ∧ t.e2e = (dropReq u h.val r).e2e ∧
          t.paths.posted = (dropReq u h.val r).paths.posted ++ [x] ∧
          x.code = evRcptLost ∧ x.err = eLinkDown ∧ t.run.stepBad.contains s.run.step = true ∧ t.rcpt = s.rcpt))) ∧
    (∀ r q n i, isFor s h 8 p = true → plain → pkStatus p.hdr = eOk → e.reqs.find? match_ = some r → r.for_ = .commit 4 n →
      commitRec s = some q → s.commit.phase = .doubt → n = s.commit.closed + 1 → pmLt (hub0Pm s) (doubtEnd s q) = true →
      memberPos s q r.dstPkg = some i → outcomeFrom (p.data.headD 3) = .committed → s.commit.waiting = none → ∃ t,
      exec (.commitQueryAnswer h p) s = .next t ∧ t.commit.phase = .closed ∧ t.commit.closed = s.commit.closed + 1 ∧
      t.commit.outcomes = tput .notVoted s.commit.outcomes (s.commit.closed + 1).toNat .committed ∧
      t.run.settled = s.commit.step + 1) ∧
    (∀ w, isFor s h 6 p = true → findWin e (pkSrcPkg p.hdr) (pkSrcHub p.hdr) = some w → (∀ x ∈ e.wins, x.held = []) →
      exec (.e2eAck h p) s = .next { u with e2e := put (putWin e { advanceWin w (pkAck p.hdr) with lastNs := s.ns }) }) ∧
    (isFor s h 6 p = true → findWin e (pkSrcPkg p.hdr) (pkSrcHub p.hdr) = none → exec (.e2eAck h p) s = .next u) ∧
    (isFor s h 6 p = false → exec (.e2eAck h p) s = .next s) ∧
    (∀ (l : Fin 12) (cls : Bool),
      let n := (pkHops p.hdr).toNat + 1
      let hdr := putFld p.hdr 31 (BitVec.ofNat 8 n)
      ((pkDstPkg p.hdr = s.place.addr ∨ pkRsv p.hdr = false ∨ knownType p = false ∨ mayTransit s l.val cls p = false) →
        exec (.packetTransit l cls p) s = .next s) ∧
      (pkDstPkg p.hdr ≠ s.place.addr → pkRsv p.hdr = true → knownType p = true → mayTransit s l.val cls p = true →
        (lowPower s = true → exec (.packetTransit l cls p) s = .next (dormantAnswer u p)) ∧
        (lowPower s = false → 255 ≤ n → ∃ r, exec (.packetTransit l cls p) s =
          .next { u with paths := { s.paths with posted := s.paths.posted ++ [r] } } ∧ r.code = evLinkMisroute) ∧
        (∀ k way, lowPower s = false → n < 255 → pkDstPkg hdr ≠ s.place.addr →
          routeTo u (flowEnt s (pkFlow hdr)) (pkDstPkg hdr) (pkWay hdr) (some l.val) (l.val % 2) = some (k, way, false) →
          exec (.packetTransit l cls p) s = .next (putOnLink u k
            (cls && l.val / 4 == k / 4 && l.val / 2 % 2 != k / 2 % 2) (putBit hdr 39 way) p.data)) ∧
        (lowPower s = false → n < 255 → routePacket u hdr p.data (some (l.val, cls)) = none →
          exec (.packetTransit l cls p) s = .next (noWay u p)))) ∧
    (∀ i r, e.reqs[i]? = some r →
      ((r.unsent = true ∨ s.ns < r.sentNs + 2000000) → exec (.requestTimeout h i) s = .next s) ∧
      (r.unsent = false → r.sentNs + 2000000 ≤ s.ns → exec (.requestTimeout h i) s = .next (completeReq s h.val r eLinkDown [])) ∧
      ((r.unsent = true ∨ r.busy = false ∨ s.ns < r.sentNs + 1000) → exec (.busyResendTimer h i) s = .next s) ∧
      (∀ t, r.unsent = false → r.busy = true → r.sentNs + 1000 ≤ s.ns →
        let o := outStream e r.dstPkg r.dstHub
        let r1 := { r with hdr := putFld r.hdr 58 o.ack, unsent := false, busy := false, sentNs := s.ns }
        let v := { s with e2e := put (putStream { e with reqs := e.reqs.map fun x => if x == r then r1 else x }
          { o with told := o.ack }) }
        routePacket v r1.hdr r.data none = some t → exec (.busyResendTimer h i) s = .next t)) ∧
    (∀ i o, e.outs[i]? = some o →
      ((o.ack = o.told ∨ s.ns < o.ackNs + 2000) → exec (.e2eAckTimer h i) s = .next s) ∧
      (∀ v, o.ack ≠ o.told → o.ackNs + 2000 ≤ s.ns →
        routePacket s (mkPk 6 o.dstPkg s.place.addr o.dstHub (BitVec.ofNat 2 h.val) 0 o.ack 1 (Config.unitFlow 0) eOk)
          (padUnits []) none = some v →
        exec (.e2eAckTimer h i) s = .next { v with e2e := put (putStream e { o with told := o.ack }) })) ∧
    (∀ i w, e.wins[i]? = some w →
      (w.lastNs + 1000000 ≤ s.ns → w.done = [] → w.held = [] →
        exec (.streamWindowIdle h i) s = .next { s with e2e := put { e with wins := e.wins.eraseIdx i } }) ∧
      ((s.ns < w.lastNs + 1000000 ∨ w.done ≠ [] ∨ w.held ≠ []) → exec (.streamWindowIdle h i) s = .next s))

/-! ### Timebase and courier lanes -/

/-- The timebase. A follower that takes time from a lane steps forward to the frame's postmark and the path's delay, and never
back: where it is ahead it keeps how far; another beat period leaves it Unlocked with tb.mismatch; a root that hears another root
posts tb.dual_root. A root sends a timing frame on every lane each 2 us, a follower probes its source each millisecond and averages
the delays that the answers give. At a pulse each counter loads the postmark, steps forward to it, or stops while it is ahead.
TB_LOCK locks; a root that has no beat count places beat 0, one with TB_IN within the next second (LOG 48). TB_IN lost at role 2 is
Holdover, or Unlocked without a beat count; a Holdover that outlasts the image's bound posts tb.lost once. -/
def Obligations.TimebaseLocksFollowsAndHolds : Prop :=
  ∀ (s : State) (l : Fin 12) (root : BitVec 15) (period : BitVec 26) (pm : Pm), tabWf Link.reset s.links = true →
    let b := s.tb
    let goal : Pm := pm + BitVec.ofNat 64 (b.delayPs.toNat * 2 ^ 24 / (b.beatPeriod.toNat * 1000))
    let root_ := b.role = 1 ∨ b.role = 2
    let frame := fun (t : State) (k : Nat) (f : BitVec 8 × BitVec 224) => f ∈ (linkOf t k).lane.ready ∨
      ∃ n crc, Out.frame (Fin.ofNat 12 k) f.1 n f.2 crc ∈ t.out
    (∀ ok, (laneUp s = false ∨ ok = false) → exec (.timing l ok root period pm) s = .next s ∧
      exec (.probe l ok pm) s = .next s ∧ ∀ t2 t3, exec (.probeReply l ok pm t2 t3) s = .next s) ∧
    ((linkOf s l.val).lane.lost = true → exec (.timing l true root period pm) s = .next s) ∧
    (laneUp s = true → (linkOf s l.val).lane.lost = false → ∃ t, exec (.timing l true root period pm) s = .next t ∧ t.mem = s.mem ∧
      (b.role = 0 → follows s l.val = true → period = b.beatPeriod →
        ((pmLt b.now goal = true ∨ b.hasCount = false) → t.tb = { b with
          rootAddr := root, source := BitVec.ofNat 4 l.val, now := goal, ahead := 0
          st := if b.st = .locked then .locked else .acquiring }) ∧
        (pmLt b.now goal = false → b.hasCount = true → t.tb = { b with
          rootAddr := root, source := BitVec.ofNat 4 l.val, ahead := (b.now - goal).toNat
          st := if b.st = .locked then .locked else .acquiring })) ∧
      (b.role = 0 → follows s l.val = true → period ≠ b.beatPeriod → t.tb = { b with st := .unlocked } ∧
        ∃ r, r ∈ t.paths.posted ∧ r.code = evTbMismatch ∧ r.err = eRange) ∧
      (root_ → t.tb = b ∧ (root ≠ s.place.addr → ∃ r, r ∈ t.paths.posted ∧ r.code = evTbDualRoot ∧ r.err = eState))) ∧
    (powered s = true → root_ → (∀ n, b.sentNs = some n → n + 2000 ≤ s.ns) → ∃ t, exec .timingFrameSend s = .next t ∧
      t.tb = { b with sentNs := some s.ns } ∧ t.mem = s.mem ∧
      ∀ k : Fin 12, frame t k.val (0x01, (0 : BitVec 119) ++ s.place.addr ++ b.beatPeriod ++ b.now)) ∧
    ((powered s = false ∨ ¬ root_ ∨ ∃ n, b.sentNs = some n ∧ s.ns < n + 2000) → exec .timingFrameSend s = .next s) ∧
    (powered s = true → b.role = 0 → b.source ≠ 0xF → (∀ n, b.probeNs = some n → n + 1000000 ≤ s.ns) → ∃ t,
      exec .probeSend s = .next t ∧ t.mem = s.mem ∧
      t.tb = { b with probeT1 := some (clock s (domCourier b.source.toNat)), probeNs := some s.ns } ∧
      frame t b.source.toNat (0x02, (clock s (domCourier b.source.toNat)).setWidth 224)) ∧
    ((powered s = false ∨ b.role ≠ 0 ∨ b.source = 0xF ∨ ∃ n, b.probeNs = some n ∧ s.ns < n + 1000000) →
      exec .probeSend s = .next s) ∧
    (laneUp s = true → ∃ t, exec (.probe l true pm) s = .next t ∧ t.tb = b ∧ t.mem = s.mem ∧
      frame t l.val (0x03, (0 : BitVec 32) ++ pm ++ clock s (domCourier l.val) ++ clock s (domCourier l.val))) ∧
    (∀ t2 t3, laneUp s = true → b.role = 0 → b.source = BitVec.ofNat 4 l.val → b.probeT1 = some pm →
      exec (.probeReply l true pm t2 t3) s = .next (takeDelay s (probeDelay s pm t2 t3 (clock s (domCourier l.val))))) ∧
    (∀ t2 t3, (b.role ≠ 0 ∨ b.source ≠ BitVec.ofNat 4 l.val ∨ b.probeT1 ≠ some pm) →
      exec (.probeReply l true pm t2 t3) s = .next s) ∧
    (∀ d, (takeDelay s d).tb.probeT1 = none ∧ (b.delays = [] → (takeDelay s d).tb.delayPs = BitVec.ofNat 24 (min 0xFFFFFF d)) ∧
      (b.delays.length = 16 → (takeDelay s d).tb.delays = b.delays.drop 1 ++ [d] ∧
        (takeDelay s d).tb.delayPs = BitVec.ofNat 24 (min 0xFFFFFF (((b.delays.drop 1).sum + d) / 16)))) ∧
    (b.hasCount = true → (pmLt b.lastPulse (pulsePm s) = true ∨ b.lastPulse = 0) → ∃ t, exec .correctionPulse s = .next t ∧
      t.clk = s.clk.map (ctrPulse (pulsePm s) b.now) ∧ t.tb = { b with lastPulse := pulsePm s } ∧
      { t with clk := s.clk, tb := b, out := s.out } = s) ∧
    ((b.hasCount = false ∨ (pmLt b.lastPulse (pulsePm s) = false ∧ b.lastPulse ≠ 0)) → exec .correctionPulse s = .next s) ∧
    (∀ (c : Ctr) (p : Pm), c.on = true →
      (c.loaded = false → ctrPulse p b.now c = { c with pm := p, loaded := true, paused := false }) ∧
      (c.loaded = true → (pmLt c.pm p = true → (ctrPulse p b.now c).pm = p) ∧ (pmLt c.pm p = false → (ctrPulse p b.now c).pm = c.pm) ∧
        (ctrPulse p b.now c).paused = pmLt b.now c.pm ∧ (c.pm = p → pmLt b.now p = false → ctrPulse p b.now c = { c with paused := false }))) ∧
    (canLock s = true → ∃ t r, exec .tbLock s = .next t ∧ t.tb.st = .locked ∧
      (b.hasCount = true ∨ b.role = 0 → t.tb = { b with st := .locked, hasCount := true }) ∧
      (b.hasCount = false → b.role = 1 → t.tb = { b with st := .locked, hasCount := true, now := 0, acc := 0 }) ∧
      (b.hasCount = false → b.role = 2 → ∃ d, t.tb = { b with st := .locked, ppsDue := some d } ∧ s.ns < d ∧
        d ≤ s.ns + 1000000000) ∧
      t.paths = { s.paths with posted := s.paths.posted ++ [r] } ∧ r.code = evTbLock) ∧
    (canLock s = false → exec .tbLock s = .next s) ∧
    (b.tbInOk = false → exec .tbInLoss s = .next s) ∧ (b.tbInOk = true → exec .tbInReturn s = .next s) ∧
    (b.tbInOk = true → b.role ≠ 2 → exec .tbInLoss s = .next { s with tb := { b with tbInOk := false } }) ∧
    (b.tbInOk = true → b.role = 2 → b.hasCount = true → (b.st = .locked ∨ b.st = .acquiring) → ∃ r, exec .tbInLoss s =
      .next { s with
        tb := { b with tbInOk := false, st := .holdover, holdSince := b.now, source := 0xF }
        paths := { s.paths with posted := s.paths.posted ++ [r] } } ∧ r.code = evTbHoldover) ∧
    (b.tbInOk = true → b.role = 2 → b.hasCount = false → b.st ≠ .holdover → exec .tbInLoss s =
      .next { s with tb := { b with tbInOk := false, st := .unlocked, source := 0xF } }) ∧
    (b.tbInOk = false → exec .tbInReturn s = .next { s with tb := { b with
      tbInOk := true, st := if b.role = 2 ∧ b.st ≠ .locked ∧ powered s = true then .acquiring else b.st } }) ∧
    (b.st = .holdover → b.lost = false → imageRuns s = true →
      (latHoldover (latitude s)).toNat * 2 ^ 24 < (b.now - b.holdSince).toNat → ∃ r, exec .holdoverExpiry s =
        .next { s with tb := { b with lost := true }, paths := { s.paths with posted := s.paths.posted ++ [r] } } ∧
        r.code = evTbLost) ∧
    ((b.lost = true ∨ b.st ≠ .holdover ∨ imageRuns s = false ∨
        (b.now - b.holdSince).toNat ≤ (latHoldover (latitude s)).toNat * 2 ^ 24) → exec .holdoverExpiry s = .next s)

/-- STOP and QUIESCE frames: one that fails its CRC, or whose stop id has been seen, does nothing; a new one is kept, sent on every
other lane that is not lost, and acts where the package has power and is in its scope: a running schedule is quiesced, or stops to
roll back its unsettled steps, and sched.urgent is posted. -/
def Obligations.UrgentFramesActOnceInScope : Prop :=
  ∀ (s : State) (l : Fin 12) (o : BitVec 15) (n : BitVec 16) (pm : Pm) (scope : BitVec 2), tabWf Link.reset s.links = true →
    let id := stopId o n
    let acts := inScope s o scope.toNat = true ∧ powered s = true
    let frame := fun (t : State) (k : Nat) (f : BitVec 8 × BitVec 224) => f ∈ (linkOf t k).lane.ready ∨
      ∃ n crc, Out.frame (Fin.ofNat 12 k) f.1 n f.2 crc ∈ t.out
    let sent := fun (t : State) (ty : BitVec 8) => ∀ k : Fin 12, k ≠ l → (linkOf s k.val).lane.lost = false →
      frame t k.val (ty, (0 : BitVec 126) ++ id ++ BitVec.ofNat 2 scope.toNat ++ pm)
    let kept := { s.regs with stopsSeen := s.regs.stopsSeen ++ [id] }
    (∀ ok, (laneUp s = false ∨ ok = false ∨ s.regs.stopsSeen.contains id = true) →
      exec (.stop l ok o n pm scope) s = .next s ∧ exec (.quiesce l ok o n pm scope) s = .next s) ∧
    (laneUp s = true → s.regs.stopsSeen.contains id = false →
      (¬ acts → (∃ t, exec (.quiesce l true o n pm scope) s = .next t ∧ t.regs = kept ∧ t.sched = s.sched ∧ t.run = s.run ∧
          t.mem = s.mem ∧ sent t 0x11) ∧
        (∃ t, exec (.stop l true o n pm scope) s = .next t ∧ t.regs = kept ∧ t.sched = s.sched ∧ t.run = s.run ∧
          t.mem = s.mem ∧ sent t 0x10)) ∧
      (acts → ∃ t r, exec (.quiesce l true o n pm scope) s = .next t ∧ sent t 0x11 ∧
        t.sched = (if s.sched = .running then .quiesced else s.sched) ∧ t.mem = s.mem ∧ t.run = s.run ∧
        t.regs = { kept with urgCount := n, urgOrigin := o, urgKind := false, urgPm := hub0Pm s
                             urgAfter := BitVec.ofNat 3 (schedCode t.sched) } ∧
        t.paths.posted = s.paths.posted ++ [r] ∧ r.code = evSchedUrgent) ∧
      (acts → ∃ t, exec (.stop l true o n pm scope) s = .next t ∧ sent t 0x10 ∧
        t.regs.stopsSeen = s.regs.stopsSeen ++ [id] ∧ t.regs.urgKind = true ∧ t.mem = s.mem ∧
        (∃ r ∈ t.paths.posted, r.code = evSchedUrgent) ∧
        ((s.sched = .running ∨ s.sched = .quiesced) → t.sched = .stopped ∧ t.evicts = [] ∧
          ∃ k, t.run.rolling = some k ∧ k.toNat ≤ s.run.settled.toNat) ∧
        (s.sched ≠ .running → s.sched ≠ .quiesced → t.sched = s.sched ∧ t.run = s.run)))

/-- ALARM, LOG and TRACE frames carry records of another package toward the root, in three parts: a part is kept until its record is
whole, a whole alarm is acknowledged on its lane, and an acknowledgement ends the wait for one. A package that is no root keeps an
alarm in its forwarding store and a log or trace in its lane's queue while it has no lane up, and sends it on in a free slot of the
upstream lane; a root hands an alarm to Shordo's queue and a log to its buffer. COURIER_LOST after 8 us without timing marks the
lane lost with link.courier_down, and a follower leaves it. -/
def Obligations.RecordsTravelToTheRoot : Prop :=
  ∀ (s : State) (l : Fin 12) (x : BitVec 224), tabWf Link.reset s.links = true →
    let frame := fun (t : State) (k : Nat) (f : BitVec 8 × BitVec 224) => f ∈ (linkOf t k).lane.ready ∨
      ∃ n crc, Out.frame (Fin.ofNat 12 k) f.1 n f.2 crc ∈ t.out
    let three : List (Instr × BitVec 8 × EvClass) := [(.alarm l true x, 0x20, .alarm), (.log l true x, 0x40, .log),
      (.trace l true x, 0x41, .trace)]
    (∀ ok, (laneUp s = false ∨ ok = false) →
      exec (.alarm l ok x) s = .next s ∧ exec (.log l ok x) s = .next s ∧ exec (.trace l ok x) s = .next s) ∧
    (laneUp s = true → (fld x 0 2 : BitVec 2) = 3 → exec (.alarm l true x) s = .next { s with paths := { s.paths with
      sentAlarms := s.paths.sentAlarms.filter fun a =>
        !(a.lane == l.val && a.seq == fld x 2 15 && fld a.record.source 17 15 == (fld x 17 15 : BitVec 15)) } }) ∧
    (laneUp s = true → (fld x 0 2 : BitVec 2) ≠ 3 → ∀ i ∈ three,
      (takePart (linkOf s l.val).lane i.2.1 x).2 = none → exec i.1 s = .next { s with
        links := tput Link.reset s.links l.val { linkOf s l.val with lane := (takePart (linkOf s l.val).lane i.2.1 x).1 } }) ∧
    (laneUp s = true → (fld x 0 2 : BitVec 2) ≠ 3 → ∀ i ∈ three, ∀ w, (takePart (linkOf s l.val).lane i.2.1 x).2 = some w →
      (recFrom w).cls = i.2.2 →
      let r := recFrom w
      let u := s.tb.upstream.toNat
      ∃ t, exec i.1 s = .next t ∧ t.mem = s.mem ∧
      (r.cls = .alarm → frame t l.val (ackFrame (fld x 17 15) (fld x 2 15))) ∧
      (s.tb.role = 1 → (r.cls = .alarm → t.paths.pldmQ = pldmAdd s.paths.pldmQ r) ∧
        (r.cls = .log → t.paths.shordoLog = (s.paths.shordoLog ++ [r]).drop (s.paths.shordoLog.length + 1 - 256))) ∧
      (s.tb.role = 0 → upLane s = none →
        (r.cls = .alarm → s.paths.sentAlarms.length < 1024 →
          t.paths.fwdStore = storePlain s.paths.fwdStore (1024 - s.paths.sentAlarms.length) r) ∧
        (r.cls ≠ .alarm → (tget [] s.paths.courierQ u).length < 64 →
          t.paths.courierQ = tput [] s.paths.courierQ u (tget [] s.paths.courierQ u ++ [r]))) ∧
      (∀ k, s.tb.role = 0 → upLane s = some k → s.paths.fwdStore = [] → s.paths.sentAlarms = [] →
        tget [] s.paths.courierQ k = [] → (linkOf s k).lane.ready = [] → (linkOf s k).lane.nextSlot ≤ s.ns →
        (r.cls = .alarm → k ≠ l.val) → ∃ f crc rest, recFrames r s.paths.recSeq = f :: rest ∧
          Out.frame (Fin.ofNat 12 k) f.1 frameBody f.2 crc ∈ t.out ∧ (linkOf t k).lane.ready = rest ∧
          t.paths.recSeq = s.paths.recSeq + 1 ∧
          (r.cls = .alarm → t.paths.sentAlarms = [{ record := r, seq := s.paths.recSeq, lane := k, ns := s.ns }]))) ∧
    (∀ k, k = linkOf s l.val →
      ((k.courier = false ∨ s.ns < k.lastTiming + 8000) → exec (.courierLost l) s = .next s) ∧
      (k.courier = true → k.lastTiming + 8000 ≤ s.ns → ∃ t y rest, exec (.courierLost l) s = .next t ∧
        t.links = tput Link.reset s.links l.val { k with courier := false, lane := { k.lane with lost := true } } ∧
        t.paths.posted = s.paths.posted ++ y :: rest ∧ y.code = evLinkCourierDown ∧ y.err = eLinkDown ∧
        ((s.tb.role ≠ 0 ∨ s.tb.source ≠ BitVec.ofNat 4 l.val) → t.tb = s.tb ∧ rest = []) ∧
        (s.tb.role = 0 → s.tb.source = BitVec.ofNat 4 l.val → t.tb.source ≠ s.tb.source ∨ s.tb.st = .holdover)))

/-! ### Records, rings and doorbell pages -/

/-- RECORD_RELEASE releases the first posted record in architectural order once it has settled, to the rings that take it, to
Shordo and up the courier. RECORD_DELIVERY writes the first held record of a ring into its next free slot, 64 bytes at its
tail with the phase of the pass, and the tail goes on by one. INTERRUPT_GAP_EXPIRY signals what a gap held back, once. -/
def Obligations.RecordsReachTheRings : Prop :=
  ∀ (s : State) (c : Fin 64),
    let d := doorOf s c.val
    (s.paths.posted = [] → exec .recordRelease s = .next s) ∧
    (∀ r, firstRec s.paths.posted = some r → settled s r = false → exec .recordRelease s = .next s) ∧
    (∀ r, firstRec s.paths.posted = some r → settled s r = true → ∃ t, exec .recordRelease s = .next t ∧
      t.paths.posted = s.paths.posted.erase r ∧ t.mem = s.mem ∧
      (takers s r = [] → t.hostMem = s.hostMem ∧ t.doors = s.doors ∧ t.paths.alarmStore = s.paths.alarmStore) ∧
      (r.cls = .alarm → t.paths.pldmQ = pldmAdd s.paths.pldmQ (fillPeak s r))) ∧
    ((d.evEn = false ∨ ringFree d = 0 ∨ heldFor s c = []) → exec (.recordDelivery c) s = .next s) ∧
    (∀ r, d.evEn = true → 0 < ringFree d → firstRec (heldFor s c) = some r → d.newLogs + d.newTraces = 0 → d.irqEn = false →
      d.owed.contains r = true → ∃ t, exec (.recordDelivery c) s = .next t ∧
      t.hostMem = memWrite s.hostMem (d.evBase.toNat + d.evTail.toNat % 2 ^ d.evSize.toNat * 64)
        (leBytes 64 (recBits r (!(d.evTail.getLsbD d.evSize.toNat)))) ∧
      t.doors = tput Door.reset (tput Door.reset s.doors c.val { d with owed := d.owed.erase r }) c.val
        { d with owed := d.owed.erase r, evTail := d.evTail + 1 } ∧
      { t with hostMem := s.hostMem, doors := s.doors } = s) ∧
    ((d.irqWait = false ∨ d.irqEn = false) → exec (.interruptGapExpiry c) s = .next s) ∧
    (d.irqWait = true → d.irqEn = true →
      ((∀ at_, d.lastIrq = some at_ → at_ + d.irqGap.toNat * 1000 ≤ s.ns) → exec (.interruptGapExpiry c) s = .next { s with
        doors := tput Door.reset s.doors c.val { d with lastIrq := some s.ns, irqWait := false }
        out := s.out ++ [.irq d.evPort c.val] }) ∧
      (∀ at_, d.lastIrq = some at_ → s.ns < at_ + d.irqGap.toNat * 1000 → exec (.interruptGapExpiry c) s = .next s))

/-- The doorbell page of a context. MB_TAIL and EV_HEAD take a value that keeps their index within its window, and answer any
other with host.doorbell_bad, the index unchanged; a mailbag whose next descriptor cannot be read is disabled with host.mb_fault. MB_CTL enables a mailbag only with a valid context, an aligned base and a
size of 6 to 16, its indexes at 0; clearing `en` waits for a descriptor in progress. EV_CTL likewise, up to size 20, and an
enabled ring keeps its port and size. With no function ready, nothing happens. -/
def Obligations.DoorbellPagesKeepTheirWindows : Prop :=
  ∀ (s : State) (c : Fin 64) (port : Bool) (v : BitVec 32),
    let d := doorOf s c.val
    let put := fun (x : Door) => { s with doors := tput Door.reset s.doors c.val x }
    (fnReady s port = false → (∀ bad, exec (.mbDoorbell c port v bad) s = .next s) ∧ exec (.evHeadWrite c port v) s = .next s) ∧
    (fnReady s port = true →
      ((v - d.mbHead).toNat ≤ 2 ^ d.mbSize.toNat → (v - d.mbTail).toNat ≤ 2 ^ d.mbSize.toNat →
        exec (.mbDoorbell c port v false) s = .next (put { d with mbTail := v }) ∧
        (tabWf Door.reset s.doors = true →
          (takeable (put { d with mbTail := v }) c.val = false → exec (.mbDoorbell c port v true) s = .next (put { d with mbTail := v })) ∧
          (takeable (put { d with mbTail := v }) c.val = true → ∃ r, exec (.mbDoorbell c port v true) s = .next { s with
            doors := tput Door.reset s.doors c.val { d with mbTail := v, mbEn := false }
            paths := { s.paths with posted := s.paths.posted ++ [r] } } ∧ r.code = evHostMbFault ∧ r.err = eInternal))) ∧
      (2 ^ d.mbSize.toNat < (v - d.mbHead).toNat ∨ 2 ^ d.mbSize.toNat < (v - d.mbTail).toNat → ∃ r,
        exec (.mbDoorbell c port v false) s = .next { s with paths := { s.paths with posted := s.paths.posted ++ [r] } } ∧
        r.code = evHostDoorbellBad) ∧
      ((v - d.evHead).toNat ≤ (d.evTail - d.evHead).toNat →
        exec (.evHeadWrite c port v) s = .next (put { d with evHead := v })) ∧
      ((d.evTail - d.evHead).toNat < (v - d.evHead).toNat → ∃ r,
        exec (.evHeadWrite c port v) s = .next { s with paths := { s.paths with posted := s.paths.posted ++ [r] } } ∧
        r.code = evHostDoorbellBad)) ∧
    (bar0Up s = false → exec (.mbCtlWrite c v) s = .next s ∧ exec (.evCtlWrite c v) s = .next s) ∧
    (bar0Up s = true →
      exec (.mbCtlWrite c v) s = .next (put (mbCtl (cfgValid (ctxOf s c.val).cfg) d v)) ∧
      exec (.evCtlWrite c v) s = .next (put (evCtl (cfgValid (ctxOf s c.val).cfg) d v))) ∧
    (∀ ok, (d.mbEn = true → v.getLsbD 31 = true → mbCtl ok d v = d) ∧
      (d.mbEn = true → v.getLsbD 31 = false → mbCtl ok d v =
        if d.mbBusy then { d with mbStop := true } else { d with mbEn := false }) ∧
      (d.mbEn = false → (mbCtl ok d v).mbEn = (v.getLsbD 31 && ok && decide (d.mbBase.toNat % 4096 = 0) &&
        decide (6 ≤ v.toNat % 32 ∧ v.toNat % 32 ≤ 16)) ∧ (mbCtl ok d v).mbSize = v.extractLsb' 0 5 ∧
        (mbCtl ok d v).mbPort = v.getLsbD 30 ∧
        ((mbCtl ok d v).mbEn = true → (mbCtl ok d v).mbHead = 0 ∧ (mbCtl ok d v).mbTail = 0)) ∧
      (d.evEn = true → (evCtl ok d v).evEn = v.getLsbD 31 ∧ (evCtl ok d v).evSize = d.evSize ∧
        (evCtl ok d v).evPort = d.evPort ∧ (evCtl ok d v).evHead = d.evHead ∧ (evCtl ok d v).evTail = d.evTail) ∧
      (d.evEn = false → (evCtl ok d v).evEn = (v.getLsbD 31 && ok && decide (d.evBase.toNat % 4096 = 0) &&
        decide (6 ≤ v.toNat % 32 ∧ v.toNat % 32 ≤ 20)) ∧
        ((evCtl ok d v).evEn = true → (evCtl ok d v).evHead = 0 ∧ (evCtl ok d v).evTail = 0)) ∧
      (evCtl ok d v).irqGap = v.extractLsb' 8 8 ∧ (evCtl ok d v).irqEn = v.getLsbD 28)

/-! ### The mailbag -/

/-- The command unit. A mailbag whose turn has not come waits, and a long command waits while 16 run. A command fails with the
code of its first failing check, in the order of R346, and completes with a record of its tag, opcode, index and code and with
nothing else changed; the descriptor is what stood in host memory at the mailbag's head (LOG 6). -/
def Obligations.MailbagsAnswerTheFirstFailingCheck : Prop :=
  ∀ (s : State) (c : Fin 64) (d : BitVec 504) (img again : Image) (entry : BitVec 512) (beat : BitVec 40) (g : BuddyData),
    let door := doorOf s c.val
    let lk := pkgLocked s
    let e := rgEntry d
    let link := judge s c d 0x0A (bodyZero d 366) true anySched (lk || linksLocked s (lkMask d)) (linkCmdErr s d)
    let state := judge s c d 0x10 (bodyZero d 382) true [.none] lk
    let rows : List (Instr × BitVec 8 × Bool × Bool × Option Err) := [
      (.mbNop c d, 0x01, true, false, judge s c d 0x01 (bodyZero d 384) false anySched false none),
      (.mbCopy c d, 0x02, true, true, judge s c d 0x02 (copyRsvOk d) false anySched
        (lk || rangeLocked s ((cpRanges d).map fun x => (x.1, x.2.1))) (copyErr s c d)),
      (.mbLoad c d img again, 0x03, true, true, judge s c d 0x03 (bodyZero d 288) true [.none] lk
        (if (d.extractLsb' 320 64).toNat % 4096 ≠ 0 ∨ (d.extractLsb' 288 32).toNat % 64 ≠ 0 then some eAlign else none)),
      (.mbUnload c d, 0x04, true, false, judge s c d 0x04 (bodyZero d 384) true [.loaded, .stopped] lk none),
      (.mbStart c d, 0x05, true, false,
        judge s c d 0x05 (stStep d == 0 && bodyZero d 304) true [.loaded] lk (startErr s (stBeat d))),
      (.mbResume c d, 0x06, !(s.sched == .stopped && s.run.rolling.isSome), false,
        judge s c d 0x06 (bodyZero d 304) true [.quiesced, .stopped] lk (resumeErr s (stBeat d) (stStep d))),
      (.mbRegion c d, 0x07, true, false, judge s c d 0x07 (!rgRemove d && d.extractLsb' 128 243 == 0 && rgRsv e) true anySched
        lk (regionErr s (rgHub d) (rgIndex d) e)),
      (.mbGuaranteeAdd c d, 0x08, !rgRemove d, false, judge s c d 0x08 (guarRsvOk d) true anySched lk
        (if badGuarantee s.run.flows e = true then some eRange
         else if badClass s (umbels s) (imgOwner s) s.run.flows e = true then some eGuarantee
         else if notAdmitted s (allGuars s ++ [e]) = true then some eGuarantee else none)),
      (.mbGuaranteeRemove c d, 0x08, rgRemove d, false, judge s c d 0x08 (guarRsvOk d) true anySched lk
        (if (allGuars s).any (sameGuarantee e) = true then none else some eRange)),
      (.mbColl c d entry beat, 0x09, true, false,
        judge s c d 0x09 (bodyZero d 319) false [.loaded, .running, .quiesced] false (collCmdErr s d entry beat)),
      (.mbLinkDown c d, 0x0A, lkAction d == 0, true, link), (.mbLinkRetrain c d, 0x0A, lkAction d == 1, true, link),
      (.mbLinkSetWidth c d, 0x0A, lkAction d == 2, true, link), (.mbLinkCourierRetrain c d, 0x0A, lkAction d == 3, true, link),
      (.mbCkptHdr c d, 0x0B, true, false, judge s c d 0x0B (bodyZero d 320) false withImage false
        (if (ckptRec s).isNone = true then some eState else if (d.extractLsb' 320 64).toNat % 64 ≠ 0 then some eAlign else none)),
      (.mbBuddyLost c d, 0x0C, true, false, judge s c d 0x0C (bodyZero d 384) true withImage lk
        (if (ckptRec s).isNone = true then some eState else none)),
      (.mbRestoreLocal c d, 0x0D, rsSource d != 1, true, judge s c d 0x0D
        (bodyZero d 327 && (rsSource d != 0 || rsReplica d == 0)) true [.loaded, .stopped] lk
        (if rsSource d = 0 then localErr s (rsStep d) else some eRange)),
      (.mbRestoreBuddy c d g, 0x0D, rsSource d == 1, true,
        judge s c d 0x0D (bodyZero d 327) true [.loaded, .stopped] lk (buddyErr s (rsStep d) (rsReplica d) g)),
      (.mbConsignReset c d, 0x0E, true, false, judge s c d 0x0E (bodyZero d 364) true withImage lk
        (if plKind (planOf s (d.extractLsb' 364 20).toNat) = 0 then some eRange
         else if (consOf s (d.extractLsb' 364 20).toNat).st ≠ .returned then some eState else none)),
      (.mbCoreClear c d, 0x0F, !d.getLsbD 366, false, judge s c d 0x0F (bodyZero d 366) true withImage lk
        (if coInvalid s d = true then some eRange else if (coreOf s (coCore d)).phase ≠ .faulted then some eState else none)),
      (.mbCoreRetire c d, 0x0F, d.getLsbD 366, false, judge s c d 0x0F (bodyZero d 366) true withImage lk
        (if coInvalid s d = true then some eRange else none)),
      (.mbStateReady c d, 0x10, d.extractLsb' 382 2 != 1, !(s.dev == .ready && d.extractLsb' 382 2 == 0),
        if s.dev = .ready ∧ d.extractLsb' 382 2 = 0 then state none else state (stateErr s d)),
      (.mbStateDormant c d, 0x10, d.extractLsb' 382 2 == 1, s.dev != .dormant,
        if s.dev = .dormant then state none else state (stateErr s d))]
    (∀ i op row long why, (i, op, row, long, why) ∈ rows →
      ((myTurn s c = false ∨ row = false ∨ (long = true ∧ 16 ≤ s.paths.longs.length)) → exec i s = .next s) ∧
      (∀ err, myTurn s c = true → row = true → (long = true → s.paths.longs.length < 16) → why = some err →
        door.mbMute = false → exec i s = .next { s with
          hostMem := memWrite s.hostMem (dscAddr door) (leBytes 64 (op ++ d))
          doors := tput Door.reset s.doors c.val
            { door with mbBusy := false, mbHead := door.mbHead + 1, mbEn := door.mbEn && !door.mbStop, mbStop := false }
          paths := { s.paths with
            lastCtx := c.val
            posted := s.paths.posted ++ [completion s c (dscTag d) (dscIrq d) door.mbHead op err 0] } })) ∧
    (∀ op ok pkg states locked own, judge s c d op ok pkg states locked own =
      if starting s = true ∧ op ≠ 0x01 then some eState
      else if dscVersion d ≠ 1 then some eRange
      else if dscRsv d = false ∨ ok = false then some eReserved
      else if pkg = true ∧ cfgPkgCtl (ctxOf s c.val).cfg = false then some eKey
      else if (s.dev = .dormant ∨ s.dev = .haltedCoolant) ∧ op ≠ 0x01 ∧ op ≠ 0x10 then some eState
      else if states.contains s.sched = false then some eState
      else if locked = true then some eBusy else own)

/-- The commands that are not long, when their turn has come and no check fails: each has its effect and completes with E_OK.
MB_UNLOAD leaves no image; MB_START begins step 0 at its beat; MB_RESUME goes on, from Stopped at the beat and step it names;
MB_REGION writes one region entry; MB_GUARANTEE adds or removes one guarantee; MB_COLL arms the collective whose entry stands in host memory (LOG 6); MB_CKPT_HDR writes
the headers to host memory; MB_BUDDY_LOST makes the next generation a base; MB_CONSIGN_RESET leaves the consignment Idle;
MB_CORE clears a faulted core or retires one. -/
def Obligations.ShortCommandsHaveTheirEffect : Prop :=
  ∀ (s : State) (c : Fin 64) (d : BitVec 504) (entry : BitVec 512) (beat : BitVec 40),
    let s0 := fun (op : BitVec 8) => served s c op d
    let e := rgEntry d
    let ends := fun (t : State) (op : BitVec 8) =>
      (Host.Outcome.next (completeCmd t c (dscTag d) (dscIrq d) (doorOf s c.val).mbHead op eOk 0) :
        Host.Outcome State Fault Refusal)
    let ok := fun (op : BitVec 8) (rsv pkg : Bool) (st : List Sched) (lk : Bool) (own : Option Err) =>
      judge s c d op rsv pkg st lk own = none
    let lk := pkgLocked s
    myTurn s c = true →
    (ok 0x01 (bodyZero d 384) false anySched false none → exec (.mbNop c d) s = ends (s0 0x01) 0x01) ∧
    (ok 0x04 (bodyZero d 384) true [.loaded, .stopped] lk none → ∃ t, exec (.mbUnload c d) s = ends t 0x04 ∧
      t.sched = .none ∧ t.run.image = none ∧ t.cons = [] ∧ t.slots = [] ∧ t.stages = [] ∧ t.upd = [] ∧ t.rcpt = Rcpts.reset ∧
      t.commit = { Commit.reset with stale := s.commit.stale } ∧ t.evicts = [] ∧ t.mem = s.mem ∧ t.links = s.links) ∧
    (ok 0x05 (stStep d == 0 && bodyZero d 304) true [.loaded] lk (startErr s (stBeat d)) → ∃ t,
      exec (.mbStart c d) s = ends t 0x05 ∧ t.sched = .running ∧ t.run.startBeat = stBeat d ∧ t.run.step = 0 ∧
      t.run.settled = 0 ∧ t.ckpt = { s.ckpt with older := none, newer := none } ∧
      t.commit = { s.commit with forceExp := s.commit.settledExp } ∧ t.cores = s.cores) ∧
    (¬(s.sched = .stopped ∧ s.run.rolling.isSome = true) →
      ok 0x06 (bodyZero d 304) true [.quiesced, .stopped] lk (resumeErr s (stBeat d) (stStep d)) →
      (s.sched = .quiesced → exec (.mbResume c d) s = ends { s0 0x06 with sched := .running } 0x06) ∧
      (s.sched = .stopped → ∃ t, exec (.mbResume c d) s = ends t 0x06 ∧ t.sched = .running ∧ t.run.startBeat = stBeat d ∧
        t.run.step = stStep d ∧ t.run.settled = s.run.settled ∧ t.run.verify = false)) ∧
    (ok 0x07 (!rgRemove d && d.extractLsb' 128 243 == 0 && rgRsv e) true anySched lk (regionErr s (rgHub d) (rgIndex d) e) →
      exec (.mbRegion c d) s = ends { s0 0x07 with
        hubs := tput HubMem.reset s.hubs (rgHub d)
          { hubOf s (rgHub d) with regions := tput 0 (hubOf s (rgHub d)).regions (rgIndex d) e } } 0x07) ∧
    (rgRemove d = false → badGuarantee s.run.flows e = false → badClass s (umbels s) (imgOwner s) s.run.flows e = false →
      notAdmitted s (allGuars s ++ [e]) = false → ok 0x08 (guarRsvOk d) true anySched lk none →
      exec (.mbGuaranteeAdd c d) s = ends (addGuar (s0 0x08) e) 0x08) ∧
    (rgRemove d = true → (allGuars s).any (sameGuarantee e) = true → ok 0x08 (guarRsvOk d) true anySched lk none →
      exec (.mbGuaranteeRemove c d) s = ends (setRates { s0 0x08 with
        hubs := tput HubMem.reset s.hubs (guHub e).toNat
          { hubOf s (guHub e).toNat with guars := (hubOf s (guHub e).toNat).guars.filter fun x => !sameGuarantee e x.ent } }
        (guHub e).toNat) 0x08) ∧
    (ok 0x09 (bodyZero d 319) false [.loaded, .running, .quiesced] false (collCmdErr s d entry beat) →
      findColl (officeOf s (coHub entry).toNat) (beat, coId entry) = none → ∃ x,
      exec (.mbColl c d entry beat) s = ends { s0 0x09 with
        hostMem := memWrite (s0 0x09).hostMem (d.extractLsb' 320 64).toNat (leBytes 64 entry)
        offices := tput Office.reset s.offices (coHub entry).toNat
          { officeOf s (coHub entry).toNat with colls := (officeOf s (coHub entry).toNat).colls ++ [x] } } 0x09 ∧
      x.entry = entry ∧ x.start = beat ∧ x.st = .armed ∧ x.isHost = true ∧
      x.notify = if d.getLsbD 319 then some c else none) ∧
    ((ckptRec s).isSome = true → (d.extractLsb' 320 64).toNat % 64 = 0 → ok 0x0B (bodyZero d 320) false withImage false none →
      exec (.mbCkptHdr c d) s =
        ends { s0 0x0B with hostMem := memWrite (s0 0x0B).hostMem (d.extractLsb' 320 64).toNat (headerBytes s) } 0x0B) ∧
    ((ckptRec s).isSome = true → ok 0x0C (bodyZero d 384) true withImage lk none →
      exec (.mbBuddyLost c d) s = ends { s0 0x0C with ckpt := { s.ckpt with nextBase := true } } 0x0C) ∧
    (∀ n, n = (d.extractLsb' 364 20).toNat →
      plKind (planOf s n) ≠ 0 → (consOf s n).st = .returned → (consOf s n).again = none →
      ok 0x0E (bodyZero d 364) true withImage lk none →
      exec (.mbConsignReset c d) s = ends { s0 0x0E with cons := tput Cons.reset s.cons n Cons.reset } 0x0E) ∧
    (d.getLsbD 366 = false → coInvalid s d = false → (coreOf s (coCore d)).phase = .faulted →
      ok 0x0F (bodyZero d 366) true withImage lk none →
      exec (.mbCoreClear c d) s = ends { s0 0x0F with
        cores := tput Core.reset s.cores (coCore d).toNat { coreOf s (coCore d) with
          phase := .idle, hold := .none, loops := [], handler := none, stream := none, startQ := [] } } 0x0F) ∧
    (d.getLsbD 366 = true → coInvalid s d = false → ok 0x0F (bodyZero d 366) true withImage lk none →
      ((coreOf s (coCore d)).phase = .retired → exec (.mbCoreRetire c d) s = ends (s0 0x0F) 0x0F) ∧
      ((coreOf s (coCore d)).phase ≠ .retired → ∃ cause, exec (.mbCoreRetire c d) s =
        ends (retireCore { s0 0x0F with free := s.free + 1 } (coCore d) cause eRetired) 0x0F))

/-- The long commands. One whose turn has come and whose checks pass is started: it joins the list with its lock, its mailbag
busy, and what it begins at once is begun. LONG_COMMAND_COMPLETE ends it: a copy has moved its bytes, or those moved before an
access failed; a load applies its image, or ends with the image's code, or with E_IMAGE where the second reading differs;
a link command once its links are up or down; a
restore as the cut it names, or with E_INTERNAL and ckpt.restore_fail; a change of state when it is reached. CMD_TIMEOUT ends one that overran its
bound with E_TIMEOUT and host.cmd_timeout.
A mailbag after its command has completed: no longer busy, its head past the descriptor, disabled if a stop was asked; a
mailbag that was reset while the command ran takes no record. -/
def Obligations.LongCommandsStartAndEnd : Prop :=
  (∀ (s : State) (c : Fin 64) (d : BitVec 504) (img again : Image) (g : BuddyData),
    let door := doorOf s c.val
    let lk := pkgLocked s
    let began := fun (op : BitVec 8) (k : Lock) (cmd : LongCmd) => { s with
      hostMem := memWrite s.hostMem (dscAddr door) (leBytes 64 (op ++ d))
      doors := tput Door.reset s.doors c.val { door with mbBusy := true }
      paths := { s.paths with
        lastCtx := c.val
        longs := s.paths.longs ++ [⟨c, dscTag d, dscIrq d, door.mbHead, op, k, cmd, s.ns⟩] } }
    let link := judge s c d 0x0A (bodyZero d 366) true anySched (lk || linksLocked s (lkMask d)) (linkCmdErr s d) = none
    let links := fun (act : State → Nat → State) => (Host.Outcome.next
      ((lkLinks (lkMask d)).foldl act (began 0x0A (.links (lkMask d)) (.link (lkAction d) (lkMask d)))) :
        Host.Outcome State Fault Refusal)
    (myTurn s c = true → s.paths.longs.length < 16 →
      (judge s c d 0x02 (copyRsvOk d) false anySched (lk || rangeLocked s ((cpRanges d).map fun x => (x.1, x.2.1)))
          (copyErr s c d) = none → exec (.mbCopy c d) s = .next (began 0x02 (.ranges ((cpRanges d).map fun x => (x.1, x.2.1)))
            (.copy (cpDir d) (cpSrc d) (cpDst d) (cpHost d) (cpLen d)))) ∧
      ((d.extractLsb' 320 64).toNat % 4096 = 0 → (d.extractLsb' 288 32).toNat % 64 = 0 →
        judge s c d 0x03 (bodyZero d 288) true [.none] lk none = none → exec (.mbLoad c d img again) s =
          .next (began 0x03 .package (.load (d.extractLsb' 288 32).toNat img again))) ∧
      (rsSource d = 0 → rsReplica d = 0 → judge s c d 0x0D (bodyZero d 327) true [.loaded, .stopped] lk (localErr s (rsStep d)) =
        none → exec (.mbRestoreLocal c d) s = .next (began 0x0D .package (.restore false ((rsStep d).setWidth 64) none))) ∧
      (rsSource d = 1 → judge s c d 0x0D (bodyZero d 327) true [.loaded, .stopped] lk (buddyErr s (rsStep d) (rsReplica d) g) =
        none → exec (.mbRestoreBuddy c d g) s = .next (began 0x0D .package (.restore true ((rsStep d).setWidth 64) (some g)))) ∧
      (d.extractLsb' 382 2 = 0 → s.dev ≠ .ready → judge s c d 0x10 (bodyZero d 382) true [.none] lk (stateErr s d) = none →
        exec (.mbStateReady c d) s = .next (beginReturn (began 0x10 .package (.toState false)))) ∧
      (d.extractLsb' 382 2 = 1 → s.dev ≠ .dormant → judge s c d 0x10 (bodyZero d 382) true [.none] lk (stateErr s d) = none →
        exec (.mbStateDormant c d) s = .next (began 0x10 .package (.toState true))) ∧
      (link → (lkAction d = 0 → exec (.mbLinkDown c d) s = links fun s l =>
          if (linkOf s l).st = .down then { s with links := tput Link.reset s.links l { linkOf s l with waitPeer := false } }
          else goDown (sendLinkCtl s l 2 0 0) l 8) ∧
        (lkAction d = 1 → exec (.mbLinkRetrain c d) s = links fun s l =>
          if linkUp s l then startRetrain (sendLinkCtl s l 1 0 0) l
          else if (linkOf s l).st = .down then trainAgain s l (linkOf s l).downCause else s) ∧
        (lkAction d = 2 → exec (.mbLinkSetWidth c d) s = links fun s l => askWidth s l (lkLanes d) (lkRate d)) ∧
        (lkAction d = 3 → exec (.mbLinkCourierRetrain c d) s = links fun s l =>
          if s.sh.retired.contains (courierChannel l) then s
          else { s with links := tput Link.reset s.links l { linkOf s l with lane := { (linkOf s l).lane with
            retried := (linkOf s l).lane.retried || (linkOf s l).lane.lost, lost := false } } }))) ∧
    (∀ i err n ecc, s.paths.longs[i]? = none → exec (.longCommandComplete i err n ecc) s = .next s) ∧
    (∀ i err n ecc l, s.paths.longs[i]? = some l →
      (∀ dir src dst host len, l.cmd = .copy dir src dst host len → lowPower s = false →
        let spans := (copyRanges dir src dst len).map fun x => (x.1, x.2.1)
        (anyWaits s spans = true → exec (.longCommandComplete i err n ecc) s = .next s) ∧
        (anyWaits s spans = false →
          (ecc.outcome = .clean → copyRetired s (copyRanges dir src dst len) = false →
            exec (.longCommandComplete i eOk n ecc) s = .next (endLong (copyBytes s dir src dst host len) i l eOk len)) ∧
          (n ≤ len → (err = eRetired ∨ dir ≠ 2 ∧ (err = eTimeout ∨ err = eKey)) → exec (.longCommandComplete i err n ecc) s =
            .next (endLong (copyBytes s dir src dst host n) i l err n)) ∧
          (len < n → err ≠ eOk → exec (.longCommandComplete i err n ecc) s = .next s))) ∧
      (∀ len im im2, l.cmd = .load len im im2 → lowPower s = false →
        (∀ e, loadErr s im l.ctx len = some e → exec (.longCommandComplete i eOk n ecc) s = .next (endLong s i l e 0)) ∧
        ((err = eTimeout ∨ err = eKey) → exec (.longCommandComplete i err n ecc) s = .next (endLong s i l err 0)) ∧
        (loadErr s im l.ctx len = none → Config.imageDigest im = Config.imageDigest im2 → ∃ t,
          exec (.longCommandComplete i eOk n ecc) s = .next (endLong t i l eOk 0) ∧ t.sched = .loaded ∧ t.run.image = some im ∧
          t.run.imgCtx = l.ctx ∧ t.cons = [] ∧ t.slots = [] ∧ t.evicts = []) ∧
        (loadErr s im l.ctx len = none → Config.imageDigest im ≠ Config.imageDigest im2 → ∃ r,
          exec (.longCommandComplete i eOk n ecc) s = .next (endLong { s with
            paths := { s.paths with posted := s.paths.posted ++ [r] } } i l eImage 0) ∧ r.code = evHostLoadChanged)) ∧
      (∀ a m, l.cmd = .link a m →
        let done := (lkLinks m).all fun k => linkUp s k || decide ((linkOf s k).st = .down)
        (done = false → exec (.longCommandComplete i err n ecc) s = .next s) ∧
        (done = true → a ≠ 3 → exec (.longCommandComplete i err n ecc) s = .next (endLong s i l eOk (upMask s m))) ∧
        (done = true → (lkLinks m).all (fun k => (linkOf s k).courier) = true →
          exec (.longCommandComplete i err n ecc) s = .next (endLong s i l eOk (upMask s m)))) ∧
      (∀ b cut x, l.cmd = .restore b cut x →
        ((lowPower s = true ∨ s.run.image = none) → exec (.longCommandComplete i err n ecc) s = .next (endLong s i l eState 0)) ∧
        (lowPower s = false → s.run.image.isSome = true → ∃ r, exec (.longCommandComplete i eInternal n ecc) s =
          .next (endLong { s with
            paths := { s.paths with posted := s.paths.posted ++ [r] }, ckpt := { s.ckpt with invalid := true } } i l eInternal 0) ∧
          r.code = evCkptRestoreFail) ∧
        (lowPower s = false → s.run.image.isSome = true → err ≠ eInternal → ∃ t e res,
          exec (.longCommandComplete i err n ecc) s = .next (endLong t i l e res) ∧ (t, e, res) = finishRestore s b cut x l.began)) ∧
      (l.cmd = .toState true → s.dev = .ready → ∃ t, exec (.longCommandComplete i err n ecc) s = .next (endLong t i l eOk 0) ∧
        t.dev = .dormant) ∧
      (l.cmd = .toState false → s.dev = .ready → exec (.longCommandComplete i err n ecc) s = .next (endLong s i l eOk 0))) ∧
    (∀ i l, s.paths.longs.findIdx? (fun l => l.ctx = c) = some i → s.paths.longs[i]? = some l →
      (longBound s l.cmd = none → exec (.cmdTimeout c) s = .next s) ∧
      (∀ b, longBound s l.cmd = some b → s.ns ≤ l.began + b → exec (.cmdTimeout c) s = .next s) ∧
      (∀ b, longBound s l.cmd = some b → l.began + b < s.ns → ∃ t r, exec (.cmdTimeout c) s = .next t ∧
        t.paths.longs = s.paths.longs.eraseIdx i ∧ r ∈ t.paths.posted ∧ r.code = evHostCmdTimeout ∧ r.err = eTimeout ∧
        t.mem = s.mem)) ∧
    (s.paths.longs.findIdx? (fun l => l.ctx = c) = none → exec (.cmdTimeout c) s = .next s)) ∧
  (∀ (s : State) (i : Nat) (l : Long) (err : Err) (res : Nat),
    let door := doorOf s l.ctx.val
    (door.mbMute = false → ∃ r, endLong s i l err res = { s with
        doors := tput Door.reset s.doors l.ctx.val
          { door with mbBusy := false, mbHead := l.index + 1, mbEn := door.mbEn && !door.mbStop, mbStop := false }
        paths := { s.paths with
          longs := s.paths.longs.eraseIdx i
          posted := s.paths.posted ++ [r] } } ∧
      r.cls = .completion ∧ r.code = 0 ∧ r.err = err ∧ r.ctx = BitVec.ofNat 6 l.ctx.val ∧ r.irq = l.irq ∧
      r.body.extractLsb' 320 32 = l.tag ∧ r.body.extractLsb' 312 8 = l.op ∧ r.body.extractLsb' 280 32 = l.index ∧
      r.body.extractLsb' 216 64 = BitVec.ofNat 64 res) ∧
    (door.mbMute = true → endLong s i l err res = { s with
      doors := tput Door.reset s.doors l.ctx.val { door with mbBusy := false, mbMute := false }
      paths := { s.paths with longs := s.paths.longs.eraseIdx i } }))

/-- The host's urgent doorbell and the BAR2 window. URGENT_QUIESCE and URGENT_STOP act on this package at once; with a scope
they go out under a new stop id of this package too. BAR2 reads what memory holds, all ones where a
check refuses the piece, and writes nothing there; a refusal is counted. -/
def Obligations.HostWindowsActAtOnce : Prop :=
  ∀ (s : State),
    (bar0Up s = false → ∀ sc w off len data ecc, exec (.urgentQuiesce sc) s = .next s ∧ exec (.urgentStop sc) s = .next s ∧
      exec (.bar2Access w off len data ecc) s = .next s) ∧
    (bar0Up s = true →
      (∃ t r, exec (.urgentQuiesce 0) s = .next t ∧ t.sched = (if s.sched = .running then .quiesced else s.sched) ∧
        t.regs = { s.regs with
          urgCount := s.regs.stopSent
          urgOrigin := s.place.addr
          urgKind := false
          urgPm := hub0Pm s
          urgAfter := BitVec.ofNat 3 (schedCode t.sched) } ∧
        t.out = s.out ++ [.irq false 64, .irq true 64] ∧ t.paths = { s.paths with posted := s.paths.posted ++ [r] } ∧
        r.code = evSchedUrgent ∧ { t with sched := s.sched, regs := s.regs, out := s.out, paths := s.paths } = s) ∧
      (∀ sc : BitVec 2, sc ≠ 0 → ∃ t, exec (.urgentQuiesce sc) s = .next t ∧ t.regs.stopSent = s.regs.stopSent + 1 ∧
        t.regs.stopsSeen = s.regs.stopsSeen ++ [stopId s.place.addr (s.regs.stopSent + 1)] ∧
        t.sched = (if s.sched = .running then .quiesced else s.sched) ∧ t.mem = s.mem) ∧
      (∀ sc : BitVec 2, ∃ t, exec (.urgentStop sc) s = .next t ∧ t.mem = s.mem ∧ t.regs.urgKind = true ∧
        ((s.sched = .running ∨ s.sched = .quiesced) → t.sched = .stopped ∧
          ∃ k, t.run.rolling = some k ∧ k.toNat ≤ s.run.settled.toNat) ∧
        (s.sched ≠ .running → s.sched ≠ .quiesced → t.sched = s.sched ∧ t.run = s.run)) ∧
      (∀ off len data w ecc, 0 < len → off.toNat + len ≤ 2 ^ 33 → off.toNat % 8 + len ≤ 8 → (w = true → data.length = len) →
        let a := s.regs.bar2Base.toNat * 65536 + off.toNat
        let why := if s.regs.bar2En = false ∨ s.dev ≠ .ready then some eState
          else accessFault s s.regs.bar2Key a len (!w) w
        let quiet := (s.regs.bar2En = true ∧ s.dev = .ready) → anyWaits s [(a, len)] = false ∧ ecc.outcome = .clean
        (s.regs.bar2En = true → s.dev = .ready → anyWaits s [(a, len)] = true → exec (.bar2Access w off len data ecc) s = .next s) ∧
        (why = none → quiet → w = false → exec (.bar2Access w off len data ecc) s =
          .next { s with out := s.out ++ [.bar2 (pkgRead s a len)] }) ∧
        (why = none → quiet → w = true →
          exec (.bar2Access w off len data ecc) s = .next (pkgWrite s a data)) ∧
        (∀ e, why = some e → quiet → ∃ r, r.code = evHostBar2Refused ∧ r.err = e ∧
          exec (.bar2Access w off len data ecc) s = .next { s with
          regs := { s.regs with bar2Refused := s.regs.bar2Refused + 1 }
          paths := { s.paths with posted := s.paths.posted ++ [r] }
          out := s.out ++ if w then [] else [.bar2 (List.replicate len 0xFF)] })))

/-- The setup lock and the setup registers. SETUP_LOCK sets `lock` once `done` is set, and meets a locked field before. A write
that would change a locked field of SYS.PLACE or HUB.LLM_MODE changes nothing and is counted, the first with its offset and
port; LOCK_HIT_CLEAR clears the report. SYS.PLACE is taken whole, with every link Down at cause 9 once links are powered, or not at all. CTX_CFG_WRITE
keeps reserved bits zero, locked fields as they are, and the binding while an image is scheduled. HUB.LLM_MODE acts only in
Ready with no image, and a slice that changes starts empty. The sticky clears clear one queue's or receipt's record. -/
def Obligations.SetupRegistersKeepTheirRules : Prop :=
  ∀ (s : State) (port : Bool) (v : BitVec 64) (w : BitVec 32) (c : Fin 64) (q : BitVec 12) (r : BitVec 14),
    let met := fun (off : Nat) => { s.regs with
      lockHit := true
      lockWrites := if s.regs.lockWrites = 0xFFFF then 0xFFFF else s.regs.lockWrites + 1
      firstOff := if s.regs.lockHit then s.regs.firstOff else BitVec.ofNat 25 off
      firstPort := if s.regs.lockHit then s.regs.firstPort else port }
    let len := fun (i : Nat) => (v.extractLsb' i 6).toNat + 1
    let pos := fun (i : Nat) => (v.extractLsb' i 6).toNat
    let bad := len 18 = 1 ∨ len 24 = 1 ∨ len 30 = 1 ∨ 32768 < len 18 * len 24 * len 30 ∨
      len 18 ≤ pos 0 ∨ len 24 ≤ pos 6 ∨ len 30 ≤ pos 12
    let held := s.place.lenS ++ s.place.lenD ++ s.place.lenP ++ s.place.s ++ s.place.d ++ s.place.p
    let old := (ctxOf s c.val).cfg
    let busy := s.sched = .running ∨ s.sched = .quiesced ∨ s.sched = .stopped
    (fnReady s port = false → exec (.setupLock port) s = .next s ∧ exec (.sysPlaceWrite port v) s = .next s ∧
      exec (.llmModeWrite port w) s = .next s ∧ exec (.ctxCfgWrite port c v) s = .next s) ∧
    (fnReady s port = true →
      (s.start.done = true → exec (.setupLock port) s = .next { s with regs := { s.regs with lock := true } }) ∧
      (s.start.done = false → exec (.setupLock port) s = .next { s with regs := met 0x10030 }) ∧
      (s.regs.lock = true → v.extractLsb' 0 36 = held → exec (.sysPlaceWrite port v) s = .next s) ∧
      (s.regs.lock = true → v.extractLsb' 0 36 ≠ held →
        exec (.sysPlaceWrite port v) s = .next { s with regs := met 0x40000 }) ∧
      (s.regs.lock = false → bad → exec (.sysPlaceWrite port v) s = .next s) ∧
      (s.regs.lock = false → ¬bad → s.place.set = true → v.extractLsb' 0 36 = held →
        s.place.addr = BitVec.ofNat 15 (pos 0 + len 18 * (pos 6 + len 24 * pos 12)) →
        exec (.sysPlaceWrite port v) s = .next s) ∧
      (s.regs.lock = false → ¬bad → (s.place.set = false ∨ v.extractLsb' 0 36 ≠ held) →
        ∃ t, exec (.sysPlaceWrite port v) s = .next t ∧ t.place.set = true ∧
          t.place.addr.toNat = pos 0 + len 18 * (pos 6 + len 24 * pos 12) ∧
          t.place.lenS ++ t.place.lenD ++ t.place.lenP ++ t.place.s ++ t.place.d ++ t.place.p = v.extractLsb' 0 36 ∧
          (tabWf Link.reset s.links = true → ∀ l : Fin 12, (linkOf t l.val).downCause = 9 ∧
            (linksPowered s = true → (linkOf t l.val).st = .down) ∧
            (linksPowered s = false → (linkOf t l.val).st = (linkOf s l.val).st)) ∧
          { t with out := s.out, place := s.place, paths := s.paths, links := s.links, linkCtr := s.linkCtr } = s) ∧
      (s.regs.lock = true → w = s.regs.llmMode → exec (.llmModeWrite port w) s = .next s) ∧
      (s.regs.lock = true → w ≠ s.regs.llmMode → exec (.llmModeWrite port w) s = .next { s with regs := met 0x50000 }) ∧
      (s.regs.lock = false → s.dev ≠ .ready ∨ s.sched ≠ .none → exec (.llmModeWrite port w) s = .next s) ∧
      (s.regs.lock = false → s.dev = .ready → s.sched = .none → ∃ t, exec (.llmModeWrite port w) s = .next t ∧
        t.regs = { s.regs with llmMode := w } ∧ { t with mem := s.mem, regs := s.regs } = s ∧
        ∀ a, tget 0 t.mem a =
          if 0x010000000000 ≤ a ∧ a < 0x010080000000 ∧
            w.getLsbD ((a - 0x010000000000) / 0x04000000) ≠ s.regs.llmMode.getLsbD ((a - 0x010000000000) / 0x04000000)
          then 0 else tget 0 s.mem a) ∧
      (∃ x g, exec (.ctxCfgWrite port c v) s =
          .next { s with ctxs := tput Ctx.reset s.ctxs c.val x, regs := g } ∧
        x.cfg.extractLsb' 0 26 = 0 ∧ x.cfg.extractLsb' 59 2 = v.extractLsb' 59 2 ∧
        (s.regs.lock = true → x.cfg.extractLsb' 61 3 = old.extractLsb' 61 3 ∧ x.cfg.extractLsb' 26 16 = old.extractLsb' 26 16) ∧
        (s.regs.lock = false → x.cfg.extractLsb' 61 3 = v.extractLsb' 61 3 ∧ x.cfg.extractLsb' 26 16 =
          if 0xFF00 ≤ (v.extractLsb' 26 16).toNat then old.extractLsb' 26 16 else v.extractLsb' 26 16) ∧
        (busy → x.cfg.extractLsb' 42 17 = old.extractLsb' 42 17) ∧
        (¬busy → x.cfg.extractLsb' 42 17 = v.extractLsb' 42 17) ∧
        (old.getLsbD 63 = true ∨ x.cfg.getLsbD 63 = false → x = { ctxOf s c.val with cfg := x.cfg }) ∧
        (old.getLsbD 63 = false → x.cfg.getLsbD 63 = true → x.waitTotal = 0 ∧ x.waitCount = 0 ∧ x.preemptCount = 0 ∧
          x.preemptLost = 0 ∧ x.waitHist = []) ∧
        g = if s.regs.lock = true ∧ (v.extractLsb' 61 3 ≠ old.extractLsb' 61 3 ∨ v.extractLsb' 26 16 ≠ old.extractLsb' 26 16)
          then met (0x20000 + c.val * 0x100) else s.regs)) ∧
    (bar0Up s = false → exec .lockHitClear s = .next s) ∧
    (bar0Up s = true → exec .lockHitClear s = .next { s with
      regs := { s.regs with lockHit := false, lockWrites := 0, firstOff := 0, firstPort := false } }) ∧
    (s.dev ≠ .ready → exec (.hiStickyClear q) s = .next s ∧ exec (.loStickyClear q) s = .next s ∧
      exec (.wmStickyClear r) s = .next s) ∧
    (s.dev = .ready →
      (∀ x, x = { queueOf s q.toNat with hiSticky := false, hiCount := 0, hiPeak := 0 } →
        exec (.hiStickyClear q) s = .next { s with queues := tput Queue.reset s.queues q.toNat x }) ∧
      (∀ x, x = { queueOf s q.toNat with loSticky := false, loCount := 0, loTrough := 0 } →
        exec (.loStickyClear q) s = .next { s with queues := tput Queue.reset s.queues q.toNat x }) ∧
      (∀ x y, x = tput false s.rcpt.sticky r.toNat false → y = tput 0 s.rcpt.wmCount r.toNat 0 →
        exec (.wmStickyClear r) s = .next { s with rcpt := { s.rcpt with sticky := x, wmCount := y } }))

/-- The timebase registers, any BAR0 write, and the resets of the PCIe functions. A field of TB.CFG or TB.UPSTREAM out of its
range stays; a change of TB.CFG unlocks the timebase, which is Acquiring at once where the source of its role is valid, and a new beat
period gives every clock its rate; a change of `upstream` switches a follower's source. A BAR0 write of
another size than 4 or 8, or not aligned, is dropped and counted; one at a reserved offset does nothing. PCIE_RESET disables
the port's mailbags and rings and lets a descriptor in progress end without a record. A read of another size returns all ones
and is counted; the identity registers read their values, a reserved offset zero, and PWR.CAP what was written. -/
def Obligations.RegisterWritesAndPortResets : Prop :=
  ∀ (s : State) (port : Bool) (v : BitVec 64) (w : BitVec 32) (off : BitVec 25) (size : Nat),
    let period := v.extractLsb' 32 26
    let newPeriod := if 8000 ≤ period.toNat ∧ period.toNat ≤ 65000000 ∧ s.sched = .none then period else s.tb.beatPeriod
    let newRole := if v.extractLsb' 0 2 = 3 then s.tb.role else v.extractLsb' 0 2
    let up := if 12 ≤ w.toNat % 16 then s.tb.upstream else w.extractLsb' 0 4
    let alt := if 12 ≤ w.toNat / 256 % 16 then s.tb.altUpstream else w.extractLsb' 8 4
    let sound := (newRole = 1 ∧ s.pins.sysclk = true) ∨ (2 ≤ newRole.toNat ∧ s.tb.tbInOk = true)
    let clocks := if newPeriod = s.tb.beatPeriod then s.clk
      else s.clk.map fun c => { c with rate := BitVec.ofNat 64 (2 ^ 56 * 80 / (newPeriod.toNat * c.clk.toNat)) }
    let write := exec (.registerWrite port off size v) s
    let disabled := fun (d : Door) => { d with
      mbEn := d.mbEn && d.mbPort != port
      mbStop := d.mbStop && d.mbPort != port
      mbMute := d.mbMute || (d.mbPort == port && d.mbBusy)
      evEn := d.evEn && d.evPort != port }
    (bar0Up s = false → exec (.tbCfgWrite v) s = .next s ∧ exec (.tbUpstreamWrite w) s = .next s) ∧
    (bar0Up s = true →
      (newPeriod = s.tb.beatPeriod → newRole = s.tb.role → exec (.tbCfgWrite v) s = .next s) ∧
      (newPeriod ≠ s.tb.beatPeriod ∨ newRole ≠ s.tb.role → exec (.tbCfgWrite v) s = .next { s with
        tb := { s.tb with
          beatPeriod := newPeriod
          role := newRole
          st := if sound then .acquiring else .unlocked
          source := 0xF
          probeT1 := none
          delays := []
          ahead := 0
          ppsDue := none }
        clk := clocks }) ∧
      (up = s.tb.upstream ∨ s.tb.role ≠ 0 ∨ s.tb.st = .unlocked →
        exec (.tbUpstreamWrite w) s = .next { s with tb := { s.tb with upstream := up, altUpstream := alt } }) ∧
      (up ≠ s.tb.upstream → s.tb.role = 0 → s.tb.st ≠ .unlocked → (linkOf s up.toNat).courier = true →
        exec (.tbUpstreamWrite w) s = .next { s with tb := { s.tb with
          upstream := up
          altUpstream := alt
          source := up
          probeT1 := none
          delays := [] } }) ∧
      (up ≠ s.tb.upstream → s.tb.role = 0 → s.tb.st ≠ .unlocked → (linkOf s up.toNat).courier = false →
        alt ≠ up → (linkOf s alt.toNat).courier = true → exec (.tbUpstreamWrite w) s = .next { s with tb := { s.tb with
          upstream := up
          altUpstream := alt
          source := alt } }) ∧
      (∃ t, exec (.tbUpstreamWrite w) s = .next t ∧ { t with tb := s.tb, paths := s.paths } = s ∧ t.tb.upstream = up ∧
        t.tb.altUpstream = alt)) ∧
    (fnReady s port = false → write = .next s) ∧
    (fnReady s port = true →
      ((size ≠ 4 ∧ size ≠ 8) ∨ off.toNat % size ≠ 0 →
        write = .next { s with regs := { s.regs with bar0Bad := s.regs.bar0Bad + 1 } }) ∧
      (size = 8 → off = 0x10030 → s.start.done = true → v = 1 →
        write = .next { s with regs := { s.regs with lock := true } }) ∧
      (size = 8 → off = 0x40000 → write = exec (.sysPlaceWrite port v) s) ∧
      (size = 4 → off = 0x40000 → write = .next s) ∧
      (size = 8 → off = 0x60000 → write = exec (.tbCfgWrite v) s) ∧
      (size = 4 → off = 0x60008 → write = exec (.tbUpstreamWrite (v.extractLsb' 0 32)) s) ∧
      (size = 4 → off = 0x50000 → write = exec (.llmModeWrite port (v.extractLsb' 0 32)) s) ∧
      (∀ c : Fin 64, size = 4 → off.toNat = 0x0100000C + c.val * 0x1000 →
        write = exec (.mbDoorbell c port (v.extractLsb' 0 32) false) s) ∧
      (∀ c : Fin 64, size = 4 → off.toNat = 0x01000020 + c.val * 0x1000 →
        write = exec (.evCtlWrite c (v.extractLsb' 0 32)) s) ∧
      (∀ c : Fin 64, size = 8 → off.toNat = 0x20000 + c.val * 0x100 → write = exec (.ctxCfgWrite port c v) s) ∧
      (size = 8 → off = 0x70000 → s.regs.lock = false → write = .next { s with
        sec := { s.sec with peerMinSvn := v.extractLsb' 40 8 } }) ∧
      (size = 8 → off = 0x00800000 → ∃ r, write = .next { s with regs := r } ∧ r = { s.regs with
        traceShift := v.extractLsb' 12 4
        fwdTraces := v.getLsbD 3
        fwdLogs := v.getLsbD 2
        fwdAlarms := v.getLsbD 1
        traceEn := v.getLsbD 0 }) ∧
      (size = 4 → off = 0x30000 → ¬(600 ≤ v.toNat % 2048 ∧ v.toNat % 2048 ≤ 1400) → write = .next s) ∧
      (size = 4 → off = 0x30000 → 600 ≤ v.toNat % 2048 → v.toNat % 2048 ≤ 1400 →
        ∃ t, write = .next t ∧ t.pwr.cap.toNat = v.toNat % 2048 ∧ t.mem = s.mem) ∧
      (size = 4 → off = 0x30004 → 16 ≤ v.toNat % 64 → v.toNat % 64 ≤ 60 →
        ∃ t, write = .next t ∧ t.pwr.fSet.toNat = v.toNat % 64) ∧
      (size = 4 → off = 0x50008 → s.regs.lock = false → ∃ r, write = .next { s with regs := r } ∧ r.imbEn = v.getLsbD 0 ∧
        r.imbThresh = if v.toNat / 256 % 256 < 17 then s.regs.imbThresh else v.extractLsb' 8 8) ∧
      (size = 8 → off.toNat < 0x10000 → off.toNat % 8 = 0 → write = .next s) ∧
      (size = 4 → 0x00080000 ≤ off.toNat → off.toNat < 0x00800000 → off.toNat % 4 = 0 → write = .next s)) ∧
    (∀ t, t = { s with pins := if port then { s.pins with perstN1 := false } else { s.pins with perstN0 := false } } →
      (perstHigh s port = false → exec (.pcieReset port true) s = .next s) ∧
      (perstHigh s port = true → exec (.pcieReset port true) s = .next { t with
        doors := tmap Door.reset (fun _ d => disabled d) s.doors }) ∧
      (fnReady s port = false → exec (.pcieReset port false) s = .next s) ∧
      (fnReady s port = true → exec (.pcieReset port false) s = .next { s with
        doors := tmap Door.reset (fun _ d => disabled d) s.doors })) ∧
    (size ≠ 4 → size ≠ 8 → barRead s off.toNat size =
      ({ s with regs := { s.regs with bar0Bad := s.regs.bar0Bad + 1 } }, BitVec.allOnes 64)) ∧
    ((barRead s 0 4).2 = 0x54553336 ∧ (barRead s 4 4).2 = 0x4101 ∧ (barRead s 8 4).2 = 0x36010C41 ∧
      (barRead s 0x10 8).2 = s.regs.serial ∧ (barRead s 0x40020 8).2 = 0) ∧
    (fnReady s port = true → 600 ≤ v.toNat % 2048 → v.toNat % 2048 ≤ 1400 → ∃ t,
      exec (.registerWrite port 0x30000 4 v) s = .next t ∧ (barRead t 0x30000 4).2.toNat = v.toNat % 2048) ∧
    (perstHigh s port = true → exec (.perstnDeassert port) s = .next s) ∧
    (∀ t, t = { s with pins := if port then { s.pins with perstN1 := true } else { s.pins with perstN0 := true } } →
      (perstHigh s port = false → fnReady t port = false → exec (.perstnDeassert port) s = .next t) ∧
      (perstHigh s port = false → fnReady t port = true →
        exec (.perstnDeassert port) s = .next { t with out := s.out ++ [.ready port] }))

/-- Input power, reset and rails. An input outside its range, or PWRGD low, shuts every phase: the package is Off and only the
pins, the flash and the host's memory are left. A blade overcurrent leaves Standby, RST_N low leaves Standby with Shordo held;
either way HBM, the schedule and the long commands are lost. A blade lost is recorded once. A rail that trips at its soft start
shuts the groups of its tile that ramp, and retries 5 ms later; a retry that succeeds is a transient fault, and in soft start the
tile's groups ramp again; one that fails retires the rail's group, and a hub tile's group, or a site's transit or standby group,
leaves the package Failed, a core group its site failed. In service a VCL rail that trips stops its cluster's cores with core
faults and retries; any other rail is retired at once. A cluster is retired core by core, unless a spare may take its place at
once. -/
def Obligations.PowerFaultsShutWhatTheyName : Prop :=
  ∀ (s : State) (tile : Fin 40) (rail : Rail) (cl : BitVec 8) (die : BitVec 5),
    let lost := fun (o : Host.Outcome State Fault Refusal) (p : Pins) => ∃ t, o = .next t ∧ t.dev = .off ∧ t.mem = [] ∧
      t.hostMem = s.hostMem ∧ t.ns = s.ns ∧ t.pending = s.pending ∧ t.regs = State.reset.regs ∧ t.ckpt = Ckpt.reset ∧
      t.pins = { p with peRdy0 := false, peRdy1 := false } ∧ t.sh.fwA = s.sh.fwA ∧ t.sh.fwB = s.sh.fwB ∧
      t.sh.keys = s.sh.keys ∧ t.sh.repair = s.sh.repair ∧ s.out <+: t.out
    let down := fun (t : State) => t.dev = .standby ∧ t.sched = .none ∧ t.mem = [] ∧ t.cores = [] ∧ t.run = Run.reset ∧
      t.ckpt = Ckpt.reset ∧ t.paths.longs = [] ∧ t.regs = s.regs ∧ t.hostMem = s.hostMem ∧ t.pins.peRdy0 = false ∧
      t.pins.peRdy1 = false ∧ t.start.stage = 0
    let key := railKey tile.val rail
    let off := { s.pwr with rails := tput .off s.pwr.rails key .retrying, retryNs := tput 0 s.pwr.retryNs key s.ns }
    let has := railRuns s tile.val rail = true
    let due := tget .off s.pwr.rails key = .retrying ∧ tget 0 s.pwr.retryNs key + 5000000 ≤ s.ns
    let retry := fun (ok : Bool) => exec (.railRetry tile rail ok) s
    let trips := exec (.phaseOvercurrent tile rail) s
    let stays := s.sched = .running ∨ s.sched = .quiesced ∨ s.run.rolling.isSome = true ∨ mayReplace s latSpareCluster = false
    let cores := fun (t : State) (d k : Nat) => ∀ i : Fin 16,
      (coreOf t (BitVec.ofNat 17 (d * 4096 + k * 16 + i.val))).phase = .retired
    let gone := fun (o : Host.Outcome State Fault Refusal) => ∃ t, o = .next t ∧
      tget .off t.pwr.rails (groupKey tile.val rail) = .retired ∧ (∃ r, r ∈ t.paths.posted ∧ r.code = evPwrRailRetired) ∧
      (36 ≤ tile.val → t.dev = .failed ∧ (s.start.stage ≠ 0 → t.start.failCause = 1 ∧ t.start.failStage = s.start.stage)) ∧
      (tile.val < 36 → railGroup rail ≠ 2 → t.dev = .failed ∧
        (s.start.stage ≠ 0 → t.start.failCause = 2 ∧ t.start.failStage = s.start.stage)) ∧
      (tile.val < 36 → railGroup rail = 2 → t.dev = s.dev ∧ (siteOf t tile.val).failed = true)
    (s.dev = .off → exec .inputUndervolt s = .next s ∧ exec .inputOvervolt s = .next s) ∧
    (s.dev ≠ .off → lost (exec .inputUndervolt s) s.pins ∧ lost (exec .inputOvervolt s) s.pins) ∧
    (s.pins.pwrgd = false → exec .pwrgdLow s = .next s) ∧
    (s.pins.pwrgd = true → s.dev = .off →
      exec .pwrgdLow s = .next { s with pins := { s.pins with pwrgd := false } }) ∧
    (s.pins.pwrgd = true → s.dev ≠ .off → lost (exec .pwrgdLow s) { s.pins with pwrgd := false }) ∧
    (powered s = false → s.dev ≠ .failed → exec .bladeOvercurrent s = .next s) ∧
    (powered s = true ∨ s.dev = .failed → ∃ t r, exec .bladeOvercurrent s = .next t ∧ down t ∧
      r ∈ t.paths.posted ∧ r.code = evPwrOvercurrent ∧ t.pins.rstN = s.pins.rstN) ∧
    (∀ b, (powered s = false ∨ s.pwr.bladeLost = true → exec (.bladeLost b) s = .next s) ∧
      (powered s = true → s.pwr.bladeLost = false → ∃ r, r.code = evPwrBladeLost ∧ exec (.bladeLost b) s = .next { s with
        pwr := { s.pwr with bladeLost := true }
        paths := { s.paths with posted := s.paths.posted ++ [r] } })) ∧
    (s.pins.rstN = false → exec .rstNLow s = .next s) ∧
    (s.pins.rstN = true → s.dev = .off → exec .rstNLow s = .next { s with pins := { s.pins with rstN := false } }) ∧
    (s.pins.rstN = true → s.dev ≠ .off → ∃ t, exec .rstNLow s = .next t ∧ down t ∧ t.pins.rstN = false ∧
      t.start.shordo = .down ∧ t.pins.pwrgd = s.pins.pwrgd) ∧
    (∀ b, (s.pins.rstN = true → exec (.rstNHigh b) s = .next s) ∧
      (s.pins.rstN = false → s.dev = .off → exec (.rstNHigh b) s = .next { s with pins := { s.pins with rstN := true } }) ∧
      (s.pins.rstN = false → s.dev ≠ .off → exec (.rstNHigh b) s = .next { s with
        pins := { s.pins with rstN := true, autoOn := b }
        start := { s.start with autoOn := b, shordo := .boot } })) ∧
    (s.start.stage ≠ 3 → exec .sysclkLost s = .next { s with pins := { s.pins with sysclk := false } }) ∧
    (s.start.stage = 3 → ∃ t, exec .sysclkLost s = .next t ∧ t.dev = .failed ∧ t.start.failCause = 5 ∧ t.start.failStage = 3 ∧
      t.pins.sysclk = false) ∧
    (s.start.stage = 3 → has → ∃ p, exec (.softStartOvercurrent tile rail) s = .next { s with pwr := p } ∧
      { p with rails := off.rails } = off ∧ tget .off p.rails key = .retrying ∧
      (tabWf .off s.pwr.rails = true → ∀ x, x ≠ key → tget .off p.rails x =
        if x ∈ rampKeys s tile.val ∧ tget .off s.pwr.rails x ≠ .retired then .off else tget .off s.pwr.rails x)) ∧
    (s.start.stage ≠ 3 ∨ ¬has → exec (.softStartOvercurrent tile rail) s = .next s) ∧
    (¬due → ∀ ok, retry ok = .next s) ∧
    (due → ∃ t, retry true = .next t ∧ tget .off t.pwr.rails key = .on ∧
      { t.pwr with rails := s.pwr.rails } = { s.pwr with
        retryNs := tput 0 s.pwr.retryNs key 0
        railTransient := tput 0 s.pwr.railTransient key (tget 0 s.pwr.railTransient key + 1) } ∧
      (s.start.stage ≠ 3 → t.pwr.rails = tput .off s.pwr.rails key .on) ∧
      (s.start.stage = 3 → ∀ x ∈ rampKeys s tile.val, tget .off s.pwr.rails x ≠ .retired → tget .off t.pwr.rails x = .on) ∧
      { t with pwr := s.pwr, sh := s.sh, paths := s.paths } = s ∧
      tget 0 t.sh.chanTrans (railChannel tile.val rail).toNat = tget 0 s.sh.chanTrans (railChannel tile.val rail).toNat + 1) ∧
    (due → (∀ c, rail ≠ .vcl c) ∨ s.start.stage = 3 → gone (retry false)) ∧
    (due → s.start.stage ≠ 3 → ∀ c, rail = .vcl c → ∃ t, retry false = .next t ∧ tget .off t.pwr.rails key = .retired ∧
      t.dev = s.dev ∧ (∀ d k, s.start.stage ≠ 4 → clusterAt s tile.val c.toNat = some (d, k) → stays → cores t d k)) ∧
    (¬has → trips = .next s) ∧
    (has → (∀ c, rail ≠ .vcl c) → gone trips) ∧
    (has → ∀ c, rail = .vcl c → clusterAt s tile.val c.toNat = none → trips = .next { s with pwr := off }) ∧
    (has → ∀ c d k, rail = .vcl c → clusterAt s tile.val c.toNat = some (d, k) → ∃ t, trips = .next t ∧
      { t with paths := s.paths, cores := s.cores, run := s.run } = { s with pwr := off } ∧
      (∀ i : Fin 16, ∀ c, c = BitVec.ofNat 17 (d * 4096 + k * 16 + i.val) → (coreOf s c).phase ≠ .retired →
        (coreOf t c).phase = .faulted ∧ (coreOf t c).s = (coreOf s c).s)) ∧
    (s.dev ≠ .ready ∨ 160 ≤ cl.toNat → ∀ b, exec (.clusterClockLoss die cl b) s = .next s) ∧
    (s.dev = .ready → cl.toNat < 160 → ∃ t, exec (.clusterClockLoss die cl true) s = .next t ∧ t.cores = s.cores ∧
      tget 0 t.sh.chanTrans (clusterChannel s die.toNat cl.toNat).toNat =
        tget 0 s.sh.chanTrans (clusterChannel s die.toNat cl.toNat).toNat + 1) ∧
    (s.dev = .ready → cl.toNat < 160 → ∃ t, exec (.clusterClockLoss die cl false) s = .next t ∧
      (stays → cores t die.toNat cl.toNat))

/-- Frequencies and ceilings. CAP_PERIOD and CURRENT_PERIOD take their readings; a current past 200 A lowers the ceiling by four
steps from what binds, at 180 A or less it rises by one, never past 60 or under 16. DVFS_PERIOD chooses within the image's
latitude the highest level that the controller predicts to stay within the cap. A cluster switches up when its rail has slewed; a
droop halves its clock and doubles its rate value, until it recovers. Whatever changes a ceiling brings clusters down at once, and the accounting of reasons up to date. -/
def Obligations.FrequenciesFollowTheirCeilings : Prop :=
  ∀ (s : State) (pIn vIn i0 i1 : Nat) (die : BitVec 5) (cl : BitVec 8) (r : Fin 7),
    let k := domLogical s (die.toNat * 256 + cl.toNat)
    let cur := s.pwr.curCeil.toNat
    let ceil := if 2000 < max i0 i1 then max 16 (min cur (targetF s) - 4)
      else if max i0 i1 ≤ 1800 then min 60 (cur + 1) else cur
    let clocked := fun (t : State) (c : Nat) => setCtr t k { ctrOf s k with
      clk := BitVec.ofNat 7 c
      rate := BitVec.ofNat 64 (2 ^ 56 * 80 / (s.tb.beatPeriod.toNat * c)) }
    let left := s.pwr.drooped.erase k
    (s.dev ≠ .ready → exec (.capPeriod pIn vIn) s = .next s ∧ exec (.currentPeriod i0 i1) s = .next s ∧
      exec .dvfsPeriod s = .next s ∧ exec (.droop die cl) s = .next s ∧ exec (.vclSlewComplete die cl) s = .next s) ∧
    (s.dev = .ready →
      (∃ t c, exec (.capPeriod pIn vIn) s = .next t ∧ t.pwr.pIn = BitVec.ofNat 16 pIn ∧ t.pwr.vIn = BitVec.ofNat 8 vIn ∧
        t.pwr.capCeil = BitVec.ofNat 6 c ∧ 16 ≤ c ∧ c ≤ 60 ∧ t.mem = s.mem ∧ t.cores = s.cores) ∧
      (∃ t, exec (.currentPeriod i0 i1) s = .next t ∧ t.pwr.iPb0 = BitVec.ofNat 16 i0 ∧ t.pwr.iPb1 = BitVec.ofNat 16 i1 ∧
        t.pwr.curCeil = BitVec.ofNat 6 ceil ∧ t.pwr.capCeil = s.pwr.capCeil ∧ t.mem = s.mem ∧ t.cores = s.cores) ∧
      (dvfsOn s = false → exec .dvfsPeriod s = .next s) ∧
      (dvfsOn s = true → ∃ t, exec .dvfsPeriod s = .next t ∧ t.pwr.dvfs.toNat ≤ (latFMax (latitude s)).toNat ∧
        t.pwr.dvfs.toNat ≤ s.pwr.fSet.toNat ∧
        ((latFMin (latitude s)).toNat ≤ upperF s → (latFMin (latitude s)).toNat ≤ t.pwr.dvfs.toNat) ∧
        (∀ f, t.pwr.dvfs.toNat < f → f ≤ upperF s → effectiveCap s < Config.predictedPower s.free f + guestPower s) ∧
        ((latFMin (latitude s)).toNat < t.pwr.dvfs.toNat →
          Config.predictedPower s.free t.pwr.dvfs.toNat + guestPower s ≤ effectiveCap s) ∧
        (t.pwr.dvfs ≠ s.pwr.dvfs → ∃ r, r ∈ t.paths.posted ∧ r.code = evAdaptDvfs)) ∧
      (160 ≤ cl.toNat ∨ s.pwr.drooped.contains k = true → exec (.droop die cl) s = .next s) ∧
      (cl.toNat < 160 → s.pwr.drooped.contains k = false → exec (.droop die cl) s = .next (account (setCtr
        { s with pwr := { s.pwr with drooped := s.pwr.drooped ++ [k] } } k
        { ctrOf s k with clk := BitVec.ofNat 7 (freqOf s k), rate := (ctrOf s k).rate * 2 }))) ∧
      (160 ≤ cl.toNat ∨ wantOf s k ≤ freqOf s k → exec (.vclSlewComplete die cl) s = .next s) ∧
      (cl.toNat < 160 → freqOf s k < wantOf s k → k ≠ allClusters →
        exec (.vclSlewComplete die cl) s = .next (account (clocked
          { s with pwr := { s.pwr with freq := tput 0 s.pwr.freq k (BitVec.ofNat 6 (wantOf s k)) } }
          (if s.pwr.drooped.contains k then wantOf s k else 2 * wantOf s k)))) ∧
      (cl.toNat < 160 → freqOf s k < wantOf s k → ∃ t, exec (.vclSlewComplete die cl) s = .next t ∧
        { t with pwr := s.pwr, clk := s.clk, paths := s.paths, free := s.free } = s)) ∧
    (s.pwr.drooped.contains k = false → exec (.droopRecovery die cl) s = .next s) ∧
    (s.pwr.drooped.contains k = true → ∃ h q, { h with warnHits := s.sh.warnHits } = s.sh ∧
      exec (.droopRecovery die cl) s = .next (account { clocked { s with pwr := { s.pwr with drooped := left } }
        (if left.contains k then freqOf s k else 2 * freqOf s k) with sh := h } q)) ∧
    (∀ t, t = account s → t.dev = s.dev ∧ t.mem = s.mem ∧ t.pwr.drooped = s.pwr.drooped ∧ t.pwr.temps = s.pwr.temps ∧
      t.pwr.capCeil = s.pwr.capCeil ∧ t.pwr.curCeil = s.pwr.curCeil ∧ t.pwr.tempCeil = s.pwr.tempCeil ∧
      (0 < wantAll s → freqOf t allClusters ≤ wantAll s) ∧
      (s.dev = .ready → reasonOn t r.val = true → (tget none t.pwr.episodes r.val).isSome = true)) ∧
    (tget none s.pwr.episodes r.val = none → exec (.throttleOngoing r) s = .next s) ∧
    (∀ e, tget none s.pwr.episodes r.val = some e →
      (s.ns < e.lastRec + 1000000000 → exec (.throttleOngoing r) s = .next s) ∧
      (e.lastRec + 1000000000 ≤ s.ns → ∃ x, x.code = evPwrThrottle ∧ exec (.throttleOngoing r) s = .next { s with
        pwr := { s.pwr with episodes := tput none s.pwr.episodes r.val (some { e with lastRec := s.ns }) }
        paths := { s.paths with posted := s.paths.posted ++ [x] } }))

/-- Temperature and coolant. A sensor's level rises at 100 and 105 degrees and falls below 97 and 102; level 2 sets the lowest
ceiling, and each further 100 us at level 1 lowers it by four steps. A stack throttles at 85 and 95 and
recovers below 82 and 92. A critical temperature held, coolant flow lost for 2 ms, or the trip begins a halt: the schedule
is held, a STOP goes out, and the package ends in Halted-Coolant with HBM kept; a start-up before the end of stage 6 falls back to
Standby. A halt that has begun does not begin again. Flow that returns ends the reason after 100 us. -/
def Obligations.TemperaturesThrottleThenHalt : Prop :=
  ∀ (s : State) (sn : Sensor) (n : Nat) (st : Fin 16) (hbm : Bool),
    let k := sensorKey s sn
    let since := tget 0 s.pwr.levelNs k
    let old := (tget 0 s.pwr.level k).toNat
    let step := s.dev = .ready ∧ old = 1 ∧ 0 < since ∧ since - 1 + 100000 ≤ s.ns
    let new := if 105 ≤ n then 2 else if old = 0 then (if 100 ≤ n then 1 else 0)
      else if old = 1 then (if n < 97 then 0 else 1) else if n < 102 then 1 else 2
    let hub := hubOf s (st.val / 4)
    let was := (tget 0 hub.throttle (st.val % 4)).toNat
    let now := if 95 ≤ n then 2 else if was = 0 then (if 85 ≤ n then 1 else 0)
      else if was = 1 then (if n < 82 then 0 else 1) else if n < 92 then 1 else 2
    let held := s.pwr.critNs.any fun x => if hbm then decide (200000 ≤ x.1 ∧ x.2 - 1 + 1000000 ≤ s.ns)
      else decide (x.1 < 200000 ∧ x.2 - 1 + 100000 ≤ s.ns)
    let kept := fun (t : State) => t.dev = .haltedCoolant ∧ t.sched = .none ∧ t.queues = [] ∧ t.cons = [] ∧
      t.hostMem = s.hostMem ∧ t.mem = s.mem.filter (fun x => decide (x.1 < 0x010000000000) || decide (2 ^ 48 ≤ x.1))
    let halts := fun (o : Host.Outcome State Fault Refusal) (c : HaltCause) =>
      (s.pwr.halting = none → (s.start.stage = 0 ∧ s.dev = .ready) ∨ 6 < s.start.stage.toNat → ∃ t, o = .next t ∧
        t.dev = s.dev ∧ t.pwr.halting = some (c, s.ns) ∧
        t.sched = (if s.sched = .running then .quiesced else s.sched) ∧ t.regs.stopSent = s.regs.stopSent + 1 ∧
        t.mem = s.mem ∧ t.cores = s.cores) ∧
      (s.pwr.halting = none → s.start.stage = 0 → s.dev = .dormant → ∃ t, o = .next t ∧ t.dev = .haltedCoolant) ∧
      (s.pwr.halting = none → s.start.stage ≠ 0 → s.start.stage.toNat ≤ 6 → ∃ t, o = .next t ∧
        t.dev = .standby ∧ t.start.stage = 0 ∧ t.start.failStage = s.start.stage ∧ t.mem = []) ∧
      (s.pwr.halting.isSome = true → ∃ t, o = .next t ∧ t.dev = s.dev ∧ t.pwr.halting = s.pwr.halting ∧ t.sched = s.sched ∧
        t.regs = s.regs ∧ t.mem = s.mem)
    (s.dev = .off → exec (.sensorRead sn n) s = .next s) ∧
    (s.dev ≠ .off → ∃ t, exec (.sensorRead sn n) s = .next t ∧ t.pwr.level = tput 0 s.pwr.level k (BitVec.ofNat 2 new) ∧
      t.pwr.temps = tput 0 s.pwr.temps k n ∧ t.mem = s.mem ∧ t.cores = s.cores ∧
      t.pwr.tempCeil = tput 60 s.pwr.tempCeil k (if new = 0 then 60 else if new = 1 then tget 60 s.pwr.tempCeil k else 16) ∧
      (new = 1 → since = 0 → tget 0 t.pwr.levelNs k = s.ns + 1) ∧
      (criticalAt sn ≤ n → tget 0 s.pwr.critNs k = 0 → tget 0 t.pwr.critNs k = s.ns + 1)) ∧
    (¬step → exec (.level1Step sn) s = .next s) ∧
    (step → exec (.level1Step sn) s = .next (account { s with pwr := { s.pwr with
      levelNs := tput 0 s.pwr.levelNs k (since + 100000)
      tempCeil := tput 60 s.pwr.tempCeil k
        (BitVec.ofNat 6 (max 16 (min (tget 60 s.pwr.tempCeil k).toNat (targetF s) - 4))) } })) ∧
    (powered s = false → exec (.hbmTempReport st n) s = .next s) ∧
    (powered s = true → ∃ t, exec (.hbmTempReport st n) s = .next t ∧ t.mem = s.mem ∧ t.cores = s.cores ∧
      (0 < n → (hubOf t (st.val / 4)).throttle = tput 0 hub.throttle (st.val % 4) (BitVec.ofNat 2 now) ∧
        (hubOf t (st.val / 4)).temp = tput 0 hub.temp (st.val % 4) n) ∧
      (now ≠ was → ∃ r, r ∈ t.paths.posted ∧ r.code = evMemHbmThrottle)) ∧
    (powered s = false ∨ held = false → exec (.criticalTemperature hbm) s = .next s) ∧
    (powered s = true → held = true →
      halts (exec (.criticalTemperature hbm) s) (if hbm then .tempHbm else .tempDie)) ∧
    (s.dev = .off ∨ s.pwr.flowOk = false → exec .flowOkDeassert s = .next s) ∧
    (s.dev ≠ .off → s.pwr.flowOk = true → ∃ t, exec .flowOkDeassert s = .next t ∧ t.pwr.flowOk = false ∧
      t.pins.flowOk = false ∧ t.pwr.flowLostNs = some s.ns ∧ t.pwr.flowSince = none ∧ t.dev = s.dev ∧ t.mem = s.mem ∧
      (powered s = true → ∃ r, r ∈ t.paths.posted ∧ r.code = evPwrFlowLost)) ∧
    (s.dev = .off ∨ s.pwr.flowOk = true → exec .flowOkAssert s = .next s) ∧
    (s.dev ≠ .off → s.pwr.flowOk = false → exec .flowOkAssert s = .next (account { s with
      pins := { s.pins with flowOk := true }
      pwr := { s.pwr with flowOk := true, flowLostNs := none, flowSince := some s.ns } })) ∧
    (tget none s.pwr.episodes 5 = none ∨ s.pwr.flowSince = none ∨ s.pwr.flowOk = false →
      exec .coolantClear s = .next s) ∧
    (∀ e b, tget none s.pwr.episodes 5 = some e → s.pwr.flowSince = some b → s.pwr.flowOk = true →
      (s.ns < b + 100000 → exec .coolantClear s = .next s) ∧
      (b + 100000 ≤ s.ns → ∃ r, r.code = evPwrThrottle ∧ exec .coolantClear s = .next (account { s with
        pwr := { s.pwr with
          thrNs := tput 0 s.pwr.thrNs 5 (tget 0 s.pwr.thrNs 5 + (s.ns - e.startNs))
          episodes := tput none s.pwr.episodes 5 none }
        paths := { s.paths with posted := s.paths.posted ++ [r] } }))) ∧
    (s.pwr.flowLostNs = none → exec .flowLossTimeout s = .next s) ∧
    (∀ b, s.pwr.flowLostNs = some b → (s.ns < b + 2000000 → exec .flowLossTimeout s = .next s) ∧
      (b + 2000000 ≤ s.ns → halts (exec .flowLossTimeout s) .coolant)) ∧
    (s.dev = .off → ∀ b, exec (.thermalTrip b) s = .next s) ∧
    (s.dev ≠ .off → halts (exec (.thermalTrip true) s) .coolant) ∧
    (s.dev ≠ .off → exec (.thermalTrip false) s = .next { s with
      pins := { s.pins with thermTripN := true }
      pwr := { s.pwr with trip := false } }) ∧
    (s.pwr.halting = none → exec .haltComplete s = .next s) ∧
    (∀ c b, s.pwr.halting = some (c, b) → ∃ t r, exec .haltComplete s = .next t ∧ kept t ∧ t.pwr.halting = none ∧
      r ∈ t.paths.posted ∧ r.code = evPwrHalted)

/-- The memory units. A window is imbalanced when the mean occupancy is at least one request and the largest at least
`imb_thresh` sixteenths of it; a balanced one resets its group's run, and the 64th in a row asks for a re-key of that group and
resets it. A flush lets the hub's HBM accesses go on. A migration moves chunk by chunk and region by region, not in a shortfall
nor while quiesced; a region that has moved has its next key index, and the last posts mem.rekey_done. A shortfall that lasts
is posted each second. -/
def Obligations.MemoryUnitsWatchAndRekey : Prop :=
  ∀ (s : State) (h : Fin 4) (g : MonGroup) (total largest : Nat),
    let hub := hubOf s h.val
    let put := fun (x : HubMem) => { s with hubs := tput HubMem.reset s.hubs h.val x }
    let units := monUnits s h.val g
    let window := exec (.imbalanceWindow h g total largest) s
    let bad := units * 65536 ≤ total ∧ s.regs.imbThresh.toNat * total ≤ largest * 16 * units
    let run := fun (x : HubMem) => if g = .hbm then x.runHbm else x.runCache
    let others := s.run.rekeys.filter fun q => !(q.hub == h && q.hbm == (g == .hbm))
    let chunk := exec (.migrationChunkDone h) s
    (s.dev ≠ .ready ∨ s.regs.imbEn = false ∨ units = 0 → window = .next s) ∧
    (s.dev = .ready → s.regs.imbEn = true → units ≠ 0 →
      (¬bad → ∃ x, window = .next (put x) ∧ run x = 0) ∧
      (bad → run hub < 63 → ∃ x, window = .next (put x) ∧ run x = run hub + 1 ∧ x.regions = hub.regions ∧ x.guars = hub.guars) ∧
      (bad → 63 ≤ run hub → ∃ x q, window = .next { put x with run := { s.run with rekeys := others ++ [q] } } ∧ run x = 0 ∧
        q.hub = h ∧ q.hbm = (g == .hbm))) ∧
    (hub.flushing = false → exec (.llmFlushDone h) s = .next s) ∧
    (hub.flushing = true → exec (.llmFlushDone h) s = .next (put { hub with flushing := false })) ∧
    (hub.migr = none → chunk = .next s) ∧
    (∀ m, hub.migr = some m →
      (s.dev ≠ .ready ∨ s.sched = .quiesced ∨ hub.short.isSome = true → chunk = .next s) ∧
      (s.dev = .ready → s.sched ≠ .quiesced → hub.short = none → ∀ e, e = tget 0 hub.regions m.index →
        (m.chunk < (rgSize e).toNat →
          chunk = .next (put { hub with migr := some { m with chunk := m.chunk + 1, moved := m.moved + 65536 } })) ∧
        ((rgSize e).toNat ≤ m.chunk → ∃ x t f, chunk = .next t ∧
          x.regions = tput 0 hub.regions m.index f ∧ f.extractLsb' 42 2 = e.extractLsb' 42 2 + 1 ∧
          f.extractLsb' 44 84 = e.extractLsb' 44 84 ∧ f.extractLsb' 0 42 = e.extractLsb' 0 42 ∧
          x.guars = hub.guars ∧ x.pcDead = hub.pcDead ∧
          (∀ j l, regionsAfter hub m.index = j :: l → t = put x ∧
            x.migr = some { m with index := j, chunk := 0, moved := m.moved + 65536 }) ∧
          (regionsAfter hub m.index = [] → x.migr = none ∧ ∃ r, r.code = evMemRekeyDone ∧
            t = { put x with paths := { s.paths with posted := s.paths.posted ++ [r] } })))) ∧
    (hub.short = none → exec (.shortfallPeriodic h) s = .next s) ∧
    (∀ x, hub.short = some x →
      (s.dev ≠ .ready ∨ s.ns < x.lastNs + 1000000000 → exec (.shortfallPeriodic h) s = .next s) ∧
      (s.dev = .ready → x.lastNs + 1000000000 ≤ s.ns → ∃ r, r.code = evMemGuaranteeShortfall ∧
        exec (.shortfallPeriodic h) s = .next { put { hub with short := some { x with lastNs := s.ns } } with
          paths := { s.paths with posted := s.paths.posted ++ [r] } }))

/-- Start-up by its stages. Power makes the package Standby with AUTO_ON sampled. Stage 2 gives every register its reset value,
SEC.STATUS that of the firmware booted, drops the copies of the flash whose CRC fails, and goes on to stage 3 where AUTO_ON, or
STATE, asked. Stage 3 ramps, once flow has
stood for 1 s and SYSCLK is there; it waits for rails that retry. Stage 4 fails with cause 1 or 2 for a lost rail group, 3 for
the hubs' firmware, 4 for hubs cut apart; else each site takes the mode of its capability block, or is empty with no sound one.
Stage 5 builds the spare map; stage 6 spares the HBM lanes that fail, and retires the pseudo-channels that twice need more spares
than there are; stage 7 runs the self-test on the cores that serve, and retires the cores and adder lanes that fail. Stage 8 sets
SYS.PLACE from the placement record where the host has not, and the links wait for their peers; stage 9 waits for them. Stage 10
ends with `done` set, once the timebase is Locked or 5 s have passed. A stage's command does nothing out of its turn. -/
def Obligations.StartUpRunsItsStages : Prop :=
  ∀ (s : State) (auto fw : Bool) (b : BootRead) (blocks : List CapBlock) (ports : List (Nat × Nat))
    (wires : List (Nat × Nat × Bool × BitVec 10)) (lanes again : List (BitVec 2 × BitVec 8 × BitVec 6))
    (tr lasting : List (Nat × Nat × Nat)) (adders : List (Fin 4 × Nat × Nat)),
    let asked := s.start.shordo = .boot ∨ s.start.shordo = .bootAsked
    let ready := s.pwr.flowOk = true ∧ (∃ n, s.pwr.flowSince = some n ∧ n + 1000000000 ≤ s.ns) ∧ s.pins.thermTripN = true ∧
      s.pins.sysclk = true
    let ramps := s.dev = .standby ∧ s.start.shordo = .fresh ∧ s.start.stage = 0 ∧ ready
    let retrying := (s.pwr.rails.any fun x => x.2 = .retrying) = true
    let hdi := exec (.hdiStage fw blocks ports wires) s
    let at' := fun (t : State) (n : BitVec 4) => t.start.stage = n ∧ t.start.stageNs = s.ns ∧ t.dev = s.dev ∧ t.mem = s.mem
    let failed := fun (o : Host.Outcome State Fault Refusal) (c : BitVec 8) (n : BitVec 4) => ∃ t, o = .next t ∧ t.dev = .failed ∧
      t.start.failCause = c ∧ t.start.failStage = n ∧ t.mem = []
    (s.dev ≠ .off → exec (.powerGood auto) s = .next s) ∧
    (s.dev = .off → exec (.powerGood auto) s = .next { s with
      dev := .standby
      sh := { s.sh with standbyNs := s.ns }
      pins := { s.pins with pwrgd := true, autoOn := auto, sysclk := true, thermTripN := true }
      pwr := { s.pwr with
        flowOk := s.pins.flowOk
        flowSince := if s.pins.flowOk then some s.ns else none
        trip := false }
      start := { s.start with autoOn := auto, shordo := if s.pins.rstN then .boot else .down } }) ∧
    (s.dev ≠ .standby ∨ ¬asked → exec (.shordoBoot b) s = .next s) ∧
    (s.dev = .standby → asked → ∃ t, exec (.shordoBoot b) s = .next t ∧ t.dev = .standby ∧ t.doors = [] ∧
      t.ctxs = [(0, Ctx.reset0)] ∧ t.place = Place.reset ∧ t.tb = Timebase.reset ∧ t.caps = Caps.reset ∧
      t.regs = { Regs.reset with serial := t.sh.serial } ∧ t.start.done = false ∧ t.start.stage = 0 ∧
      t.start.failCause = s.start.failCause ∧ t.start.failStage = s.start.failStage ∧ t.start.autoOn = s.start.autoOn ∧
      t.sec = bootSec t.sh ∧ t.paths.longs = [] ∧ t.mem = s.mem ∧ t.sh.recovery = (bootSlot t.sh).isNone ∧
      t.start.shordo = (if (bootSlot t.sh).isSome = true ∧ (s.start.shordo = .bootAsked ∨ s.start.autoOn = true)
        then .fresh else .up) ∧
      (s.sh.known = true → t.sh.fwA = s.sh.fwA ∧ t.sh.fwB = s.sh.fwB ∧ t.sh.serial = s.sh.serial ∧
        t.sh.repair = dropBad b.crcBad 0 s.sh.repair ∧ t.sh.placeRec = dropBad b.crcBad 2 s.sh.placeRec ∧
        t.sh.keys = dropBad b.crcBad 4 s.sh.keys) ∧
      (s.sh.known = false → t.sh.fwA = some b.slotA ∧ t.sh.fwB = some b.slotB ∧ t.sh.serial = b.serial ∧
        t.sh.repair = dropBad b.crcBad 0 b.repair ∧ t.sh.placeRec = dropBad b.crcBad 2 b.place ∧
        t.sh.keys = dropBad b.crcBad 4 b.keys) ∧
      (newest t.sh.repair = none → ∃ r, r ∈ t.paths.posted ∧ r.code = evRepairWriteFail)) ∧
    (¬ramps → exec .railRamp s = .next s) ∧
    (ramps → ∃ t, exec .railRamp s = .next t ∧ at' t 3 ∧ t.pins = { s.pins with peRdy0 := true, peRdy1 := true } ∧
      t.start.done = false ∧ t.start.startNs = s.ns ∧ t.start.elapsedMs = 0 ∧ t.sh.retired = inForce s.sh ∧
      t.sh.active = activeSites (inForce s.sh) ∧ t.sec.debug = false) ∧
    (s.start.stage ≠ 3 ∨ retrying → hdi = .next s) ∧
    (s.start.stage = 3 → ¬retrying →
      ((∃ x ∈ s.pwr.rails, x.2 = .retired ∧ 36 * 1024 ≤ x.1) → failed hdi 1 3) ∧
      ((∀ x ∈ s.pwr.rails, x.2 = .retired → x.1 < 36 * 1024) →
        ((∃ x ∈ s.pwr.rails, x.2 = .retired ∧ x.1 % 1024 < 2) → failed hdi 2 3) ∧
        ((∀ x ∈ s.pwr.rails, x.2 = .retired → 2 ≤ x.1 % 1024) → (fw = false → failed hdi 3 4) ∧
          (fw = true → ∃ t, hdi = .next t ∧ ((t.dev = .failed ∧ t.start.failCause = 4 ∧ t.start.failStage = 4) ∨
            (at' t 4 ∧ t.sh.hubFwOk = true ∧ ∀ n : Fin 36, ∀ o, o = blocks.find? (fun x => x.site == n.val && x.crcOk) →
              (tabWf Site.reset s.sites = true → o = none ∨ (∃ x f, o = some x ∧ blockBad x.block = some f) →
                (siteOf t n.val).mode = .empty) ∧
              (∀ x, o = some x → blockBad x.block = none → (siteOf t n.val).mode = blockMode x.block ∧
                (siteOf t n.val).block = x.block ∧ (siteOf t n.val).rate = laneRate x.block))))))) ∧
    (s.start.stage ≠ 4 → exec .spareMapStage s = .next s) ∧
    (s.start.stage = 4 → ∃ t, exec .spareMapStage s = .next t ∧ at' t 5 ∧ t.sh.spareReq = [] ∧
      (∀ d : Fin 32, siteOfDie t d.val = siteFor s d.val)) ∧
    (s.start.stage ≠ 5 → exec (.hbmTraining lanes again) s = .next s) ∧
    (s.start.stage = 5 → ∃ t, exec (.hbmTraining lanes again) s = .next t ∧ at' t 6 ∧
      (∀ x ∈ lanes, hbmShort s lanes x.1 x.2.1 = false → t.sh.retired.contains (hbmLaneChannel x.1 x.2.1 x.2.2) = true) ∧
      (∀ x ∈ lanes, hbmShort s lanes x.1 x.2.1 = true → hbmShort s again x.1 x.2.1 = true →
        (hubOf t x.1.toNat).pcDead.contains x.2.1 = true)) ∧
    (s.start.stage ≠ 6 → exec (.selfTest tr lasting adders) s = .next s) ∧
    (s.start.stage = 6 → ∃ t, exec (.selfTest tr lasting adders) s = .next t ∧ at' t 7 ∧
      (∀ n ∈ servingCores t, (tget Core.reset t.cores n).phase = .retired ∨ tget Core.reset t.cores n = testCore) ∧
      (∀ x ∈ lasting, t.sh.retired.contains (physChannel x) = true) ∧
      (∀ x ∈ adders, t.sh.retired.contains (channel 0x0C (x.1.val * 2 ^ 22 + x.2.1 * 2 ^ 16 + x.2.2 * 2 ^ 11)) = true)) ∧
    (s.start.stage ≠ 7 → exec .linkStage s = .next s) ∧
    (s.start.stage = 7 → ∃ t, exec .linkStage s = .next t ∧ t.start.stage = 8 ∧ t.start.stageNs = s.ns ∧ t.dev = s.dev ∧
      t.mem = s.mem ∧ t.cores = retiredOnly s.cores ∧ (s.start.retMode = true ∨ s.place.set = true → t.place = s.place) ∧
      (s.start.retMode = false → t.place.set = true → ∀ l : Fin 12, (linkOf t l.val).waitPeer = true) ∧
      (s.start.retMode = false → s.place.set = false →
        (∀ p, inCopy s.sh.placeRec = some p → placeBad (p.setWidth 64) = false → t.place = placeFrom (p.setWidth 64)) ∧
        (inCopy s.sh.placeRec = none ∨ (∃ p, inCopy s.sh.placeRec = some p ∧ placeBad (p.setWidth 64) = true) →
          t.place = s.place ∧ t.links = s.links ∧ ∃ r, r ∈ t.paths.posted ∧ r.code = evSysUnplaced))) ∧
    (s.start.stage ≠ 8 ∨ s.start.retMode = true ∨ (∃ l : Fin 12, linkSettled s l.val = false) →
      exec .timebaseStage s = .next s) ∧
    (s.start.stage = 8 → s.start.retMode = false → (∀ l : Fin 12, linkSettled s l.val = true) →
      exec .timebaseStage s = .next { s with start := { s.start with stage := 9, stageNs := s.ns } }) ∧
    (∀ over', over' = ((s.start.stage = 9 ∧ (s.tb.st = .locked ∨ s.start.stageNs + 5000000000 ≤ s.ns)) ∨
        (s.start.stage = 8 ∧ s.start.retMode = true)) →
      (¬over' → exec .hostStage s = .next s) ∧
      (over' → ∃ t, exec .hostStage s = .next t ∧ t.dev = .ready ∧ t.sched = .none ∧ t.start.done = true ∧ t.start.stage = 0 ∧
        t.start.failCause = 0 ∧ t.start.failStage = 0 ∧ t.caps = finalCaps s ∧ t.mem = s.mem ∧
        t.sh.svnFused.toNat = max s.sh.svnFused.toNat s.sec.svnFw.toNat))

/-- Management. Every answer goes out by its request's code; nothing answers while Shordo is down. A command that fails a check
is answered with the first check's code and changes nothing. Otherwise: the placement record is read and written, a repair
entry read or marked cleared, the external ceiling set, a key kept or dropped under a root signature, each write of the
flash going to the older copy; STATE takes the package to Ready or Standby; a debug unlock is challenged, then granted to a key that is not revoked. A firmware package that is
verified takes the slot that did not boot. SMBus takes over after 1 s of Standby. The boundary-scan instructions act in Standby and Failed alone. -/
def Obligations.ManagementCommandsAreAnswered : Prop :=
  ∀ (s : State) (i key sig agent : Nat) (place : BitVec 36) (v : BitVec 8) (slot : BitVec 2) (gone : Bool) (pkg : FwSlot),
    let up := s.dev ≠ .off ∧ (s.start.shordo = .up ∨ s.start.shordo = .fresh)
    let run := s.sched = .running ∨ s.sched = .quiesced
    let tells := fun (t : State) (c : Nat) (e : Err) (x : Nat) =>
      (Host.Outcome.next { t with out := t.out ++ [.answer c e x] } : Host.Outcome State Fault Refusal)
    let len := fun (n : Nat) => (place.extractLsb' n 6).toNat + 1
    let pos := fun (n : Nat) => (place.extractLsb' n 6).toNat
    let bad := len 18 = 1 ∨ len 24 = 1 ∨ len 30 = 1 ∨ 32768 < len 18 * len 24 * len 30 ∨
      len 18 ≤ pos 0 ∨ len 24 ≤ pos 6 ∨ len 30 ≤ pos 12
    let signed := ∃ n : Fin 4, s.sh.revoked.getLsbD n.val = false ∧ Config.signed n.val (2 * key + if gone then 1 else 0) sig = true
    let kept := fun (l : List Nat) => tells { s with sh := { s.sh with keys := writeCopy s.sh.keys l } } 6 eOk 0
    let tap := fun (x : Tap) => { s with sh := { s.sh with tap := x } }
    let scan := if s.dev = .standby ∨ s.dev = .failed then id else fun _ => Tap.bypass
    let good := pkg.accepted = true ∧ s.sh.revoked.getLsbD pkg.keySlot.toNat = false ∧ s.sh.svnFused.toNat ≤ pkg.svn.toNat
    (¬up ∨ s.sh.recovery = true → exec .placeRead s = .next s ∧ exec (.placeWrite place) s = .next s ∧
      exec (.repairRead i) s = .next s ∧ exec (.repairClear i) s = .next s ∧ exec (.extLimit v) s = .next s ∧
      exec (.keystoreWrite key gone sig) s = .next s ∧ exec .stateReady s = .next s ∧ exec .stateStandby s = .next s ∧
      exec .debugUnlock s = .next s ∧ exec (.debugUnlockResponse slot sig) s = .next s) ∧
    (up → s.sh.recovery = false →
      (exec .placeRead s = tells s 1 eOk (match inCopy s.sh.placeRec with | some p => 2 ^ 36 + p.toNat | none => 0)) ∧
      (bad → exec (.placeWrite place) s = tells s 2 eRange 0) ∧
      (¬bad → run → exec (.placeWrite place) s = tells s 2 eState 0) ∧
      (¬bad → ¬run → exec (.placeWrite place) s = tells { s with sh := { s.sh with placeRec := writeCopy s.sh.placeRec place } } 2 eOk 0) ∧
      ((repairs s.sh)[i]? = none → exec (.repairRead i) s = tells s 3 eRange 0 ∧ exec (.repairClear i) s = tells s 4 eRange 0) ∧
      (∀ e, (repairs s.sh)[i]? = some e → exec (.repairRead i) s = tells s 3 eOk e.toNat ∧
        (e.getLsbD 80 = true → exec (.repairClear i) s = tells s 4 eState 0) ∧
        (e.getLsbD 80 = false → exec (.repairClear i) s = tells { s with sh := { s.sh with
          repair := writeCopy s.sh.repair ((repairs s.sh).set i (e ||| (1 <<< 80))) } } 4 eOk 0)) ∧
      ((1 ≤ v.toNat ∧ v.toNat ≤ 15) ∨ 60 < v.toNat → exec (.extLimit v) s = tells s 5 eRange 0) ∧
      (v = 0 ∨ (16 ≤ v.toNat ∧ v.toNat ≤ 60) → exec (.extLimit v) s =
        tells (account { s with pwr := { s.pwr with extLimit := v.setWidth 6 } }) 5 eOk 0) ∧
      (¬signed → exec (.keystoreWrite key gone sig) s = tells s 6 eKey 0) ∧
      (signed → gone = true → exec (.keystoreWrite key gone sig) s = kept ((keyStore s.sh).filter fun k => k != key)) ∧
      (signed → gone = false → key ∈ keyStore s.sh → exec (.keystoreWrite key gone sig) s = kept (keyStore s.sh)) ∧
      (signed → gone = false → key ∉ keyStore s.sh → 16 ≤ (keyStore s.sh).length →
        exec (.keystoreWrite key gone sig) s = tells s 6 eCapacity 0) ∧
      (signed → gone = false → key ∉ keyStore s.sh → (keyStore s.sh).length < 16 →
        exec (.keystoreWrite key gone sig) s = kept (keyStore s.sh ++ [key])) ∧
      (stateBusy s = true → exec .stateReady s = tells s 7 eBusy 0) ∧
      (stateBusy s = false → s.dev = .failed → exec .stateReady s = tells s 7 eState 0) ∧
      (stateBusy s = false → s.dev = .ready → exec .stateReady s = tells s 7 eOk 0) ∧
      (stateBusy s = false → s.dev = .standby → flowHeld s = false → exec .stateReady s = tells s 7 eState 0) ∧
      (stateBusy s = false → s.dev = .standby → flowHeld s = true → s.sh.fwNew = true →
        exec .stateReady s = tells { s with start := { s.start with shordo := .bootAsked } } 7 eOk 0) ∧
      (stateBusy s = false → s.dev = .standby → flowHeld s = true → s.sh.fwNew = false → startReady s = false →
        exec .stateReady s = tells { s with start := { s.start with shordo := .fresh } } 7 eOk 0) ∧
      (stateBusy s = false → s.dev = .standby → flowHeld s = true → s.sh.fwNew = false → startReady s = true → ∃ t,
        exec .stateReady s = tells t 7 eOk 0 ∧ t.dev = .standby ∧ t.start.stage = 3 ∧ t.start.retMode = false) ∧
      (stateBusy s = false → s.dev = .haltedCoolant → coolAgain s = false → exec .stateReady s = tells s 7 eState 0) ∧
      (stateBusy s = false → s.dev = .dormant ∨ (s.dev = .haltedCoolant ∧ coolAgain s = true) → ∃ t,
        exec .stateReady s = tells t 7 eOk 0 ∧ t.dev = s.dev ∧ t.start.stage = 3 ∧ t.start.retMode = true) ∧
      (s.pwr.halting.isSome = true → exec .stateStandby s = tells s 7 eBusy 0) ∧
      (s.pwr.halting = none → ∃ t, exec .stateStandby s = tells t 7 eOk 0 ∧ t.dev = .standby ∧ t.mem = [] ∧ t.sched = .none ∧
        t.start.shordo = .up ∧ t.start.stage = 0 ∧ t.regs = s.regs) ∧
      (s.sh.debugLock = true → exec .debugUnlock s = tells s 8 eLocked 0) ∧
      (s.sh.debugLock = false → run → exec .debugUnlock s = tells s 8 eState 0) ∧
      (s.sh.debugLock = false → ¬run → ∀ n, n = Config.nonce s.free → exec .debugUnlock s = tells { s with
        free := s.free + 1
        sh := { s.sh with challenge := some n } } 8 eOk n) ∧
      (s.sh.challenge = none → exec (.debugUnlockResponse slot sig) s = tells s 8 eState 0) ∧
      (∀ n, s.sh.challenge = some n → ∀ ok, ok = (s.sh.revoked.getLsbD slot.toNat = false ∧
          Config.signed slot.toNat n sig = true) →
        (s.sh.debugLock = true → exec (.debugUnlockResponse slot sig) s = tells s 8 eLocked 0) ∧
        (s.sh.debugLock = false → run → exec (.debugUnlockResponse slot sig) s = tells s 8 eState 0) ∧
        (s.sh.debugLock = false → ¬run → ¬ok → exec (.debugUnlockResponse slot sig) s = tells s 8 eKey 0) ∧
        (s.sh.debugLock = false → ¬run → ok → exec (.debugUnlockResponse slot sig) s = tells { s with
          sec := { s.sec with debug := true }
          sh := { s.sh with challenge := none } } 8 eOk 0))) ∧
    (¬up → exec (.firmwareUpdate agent pkg) s = .next s ∧ exec .smbusFallback s = .next s ∧
      exec .repairRecordWrite s = .next s) ∧
    (up →
      (s.sh.updAgent = none → exec (.firmwareUpdate agent pkg) s =
        tells { s with sh := { s.sh with updAgent := some agent } } 0x267 eOk 0) ∧
      (∀ a, s.sh.updAgent = some a → a ≠ agent → exec (.firmwareUpdate agent pkg) s = tells s 0x267 eOk 0x81) ∧
      (s.sh.updAgent = some agent → s.sec.slot = true → s.sh.recovery = false →
        (good → exec (.firmwareUpdate agent pkg) s =
          tells { s with sh := { s.sh with fwA := some pkg, fwNew := true, updAgent := none } } 0x267 eOk 0) ∧
        (¬good → exec (.firmwareUpdate agent pkg) s =
          tells { s with sh := { s.sh with fwA := none, fwNew := false, updAgent := none } } 0x267 eOk 1)) ∧
      (s.sh.updAgent = some agent → s.sec.slot = false ∨ s.sh.recovery = true →
        (good → exec (.firmwareUpdate agent pkg) s =
          tells { s with sh := { s.sh with fwB := some pkg, fwNew := true, updAgent := none } } 0x267 eOk 0) ∧
        (¬good → exec (.firmwareUpdate agent pkg) s =
          tells { s with sh := { s.sh with fwB := none, fwNew := false, updAgent := none } } 0x267 eOk 1)) ∧
      (s.sh.smbus = true ∨ s.ns < s.sh.standbyNs + 1000000000 → exec .smbusFallback s = .next s) ∧
      (s.sh.smbus = false → s.sh.standbyNs + 1000000000 ≤ s.ns →
        exec .smbusFallback s = .next { s with sh := { s.sh with smbus := true } }) ∧
      (s.sh.repairQ = [] → exec .repairRecordWrite s = .next s) ∧
      (∀ e, earliestEntry s.sh.repairQ = some e → ∀ kept, kept = (repairs s.sh).filter (fun x => !x.getLsbD 80) →
        ((kept.any fun x => x.extractLsb' 96 32 == e.extractLsb' 96 32) = true →
          exec .repairRecordWrite s = .next { s with sh := { s.sh with repairQ := s.sh.repairQ.erase e } }) ∧
        ((kept.any fun x => x.extractLsb' 96 32 == e.extractLsb' 96 32) = false → (repairs s.sh).length < 4094 →
          exec .repairRecordWrite s = .next { s with sh := { s.sh with
            repairQ := s.sh.repairQ.erase e
            repair := writeCopy s.sh.repair (repairs s.sh ++ [e]) } }) ∧
        ((kept.any fun x => x.extractLsb' 96 32 == e.extractLsb' 96 32) = false → 4094 ≤ (repairs s.sh).length →
          kept.length < 4094 → exec .repairRecordWrite s = .next { s with sh := { s.sh with
            repairQ := s.sh.repairQ.erase e
            repair := writeCopy s.sh.repair (kept ++ [e]) } }) ∧
        ((kept.any fun x => x.extractLsb' 96 32 == e.extractLsb' 96 32) = false → 4094 ≤ kept.length → ∃ t r,
          exec .repairRecordWrite s = .next t ∧ t.sh.repair = s.sh.repair ∧ t.sh.unrec = s.sh.unrec ++ [e.extractLsb' 96 32] ∧
          r ∈ t.paths.posted ∧ r.code = evRepairFull))) ∧
    (s.dev = .off → exec .bypass s = .next s ∧ exec .idcode s = .next s ∧ exec .samplePreload s = .next s ∧
      exec .extest s = .next s ∧ exec .clamp s = .next s ∧ exec .highz s = .next s) ∧
    (s.dev ≠ .off → exec .bypass s = .next (tap .bypass) ∧ exec .idcode s = tells (tap .idcode) 1149 eOk 0x1543654B ∧
      exec .samplePreload s = .next (tap .sample) ∧ exec .extest s = .next (tap (scan .extest)) ∧
      exec .clamp s = .next (tap (scan .clamp)) ∧ exec .highz s = .next (tap (scan .highz)))

/-- SPDM. A request is answered on its own transport: with E_BUSY while another is served, with E_STATE before its negotiation is done, with E_RANGE for a slot
other than 0, a measurement that is not there or an algorithm that is not the one; GET_VERSION starts the negotiation anew. The
five measurements are given plain or signed. On a transport that is not up nothing happens. -/
def Obligations.SpdmAnswersInItsOrder : Prop :=
  ∀ (s : State) (tr : Transport) (p sha signed : Bool) (slot index nonce : Nat),
    let n := tget 0 s.sh.spdm (transportNo tr)
    let up := s.dev ≠ .off ∧ (s.start.shordo = .up ∨ s.start.shordo = .fresh) ∧ s.sh.recovery = false ∧ transportUp s tr = true
    let tells := fun (t : State) (c : Nat) (e : Err) (x : Nat) =>
      (Host.Outcome.next { t with out := t.out ++ [.answer c e x] } : Host.Outcome State Fault Refusal)
    let served := { s with free := s.free + 1, sh := { s.sh with spdmUntil := s.ns + (Config.freeWord s.free).toNat % 50000001 } }
    let at' := fun (x : SpdmStage) => { served with sh := { served.sh with spdm := tput 0 s.sh.spdm (transportNo tr) x } }
    (¬up → exec (.getVersion tr) s = .next s ∧ exec (.getCapabilities tr) s = .next s ∧
      exec (.negotiateAlgorithms tr p sha) s = .next s ∧ exec (.getDigests tr) s = .next s ∧
      exec (.getCertificate tr slot) s = .next s ∧ exec (.challenge tr slot nonce) s = .next s ∧
      exec (.getMeasurements tr index nonce signed) s = .next s) ∧
    (up → s.ns < s.sh.spdmUntil →
      exec (.getVersion tr) s = tells s 0x84 eBusy 0 ∧ exec (.getCapabilities tr) s = tells s 0xE1 eBusy 0 ∧
      exec (.negotiateAlgorithms tr p sha) s = tells s 0xE3 eBusy 0 ∧ exec (.getDigests tr) s = tells s 0x81 eBusy 0 ∧
      exec (.getCertificate tr slot) s = tells s 0x82 eBusy 0 ∧ exec (.challenge tr slot nonce) s = tells s 0x83 eBusy 0 ∧
      exec (.getMeasurements tr index nonce signed) s = tells s 0xE0 eBusy 0) ∧
    (up → s.sh.spdmUntil ≤ s.ns →
      (∃ x, exec (.getVersion tr) s = tells (at' 1) 0x84 eOk x) ∧
      (n < 1 → exec (.getCapabilities tr) s = tells s 0xE1 eState 0) ∧
      (1 ≤ n → ∃ x, exec (.getCapabilities tr) s = tells (at' (max 2 n)) 0xE1 eOk x) ∧
      (n < 2 → exec (.negotiateAlgorithms tr p sha) s = tells s 0xE3 eState 0) ∧
      (2 ≤ n → p = false ∨ sha = false → exec (.negotiateAlgorithms tr p sha) s = tells s 0xE3 eRange 0) ∧
      (2 ≤ n → p = true → sha = true → ∃ x, exec (.negotiateAlgorithms tr p sha) s = tells (at' 3) 0xE3 eOk x) ∧
      (n < 3 → exec (.getDigests tr) s = tells s 0x81 eState 0 ∧ exec (.getCertificate tr slot) s = tells s 0x82 eState 0 ∧
        exec (.challenge tr slot nonce) s = tells s 0x83 eState 0 ∧
        exec (.getMeasurements tr index nonce signed) s = tells s 0xE0 eState 0) ∧
      (3 ≤ n →
        (∃ x, exec (.getDigests tr) s = tells served 0x81 eOk x) ∧
        (slot = 0 → (∃ x, exec (.getCertificate tr slot) s = tells served 0x82 eOk x) ∧
          ∃ x, exec (.challenge tr slot nonce) s = tells served 0x83 eOk x) ∧
        (slot ≠ 0 → exec (.getCertificate tr slot) s = tells s 0x82 eRange 0 ∧
          exec (.challenge tr slot nonce) s = tells s 0x83 eRange 0) ∧
        (5 < index → index ≠ 255 → exec (.getMeasurements tr index nonce signed) s = tells s 0xE0 eRange 0) ∧
        (index ≤ 5 ∨ index = 255 → ∃ x, exec (.getMeasurements tr index nonce true) s = tells served 0xE0 eOk x) ∧
        exec (.getMeasurements tr 0 nonce false) s = tells served 0xE0 eOk 5 ∧
        exec (.getMeasurements tr 2 nonce false) s = tells served 0xE0 eOk s.sh.digest ∧
        exec (.getMeasurements tr 4 nonce false) s = tells served 0xE0 eOk (if s.sec.debug then 1 else 0) ∧
        (s.sched ≠ .none → exec (.getMeasurements tr 5 nonce false) s = tells served 0xE0 eOk s.sh.meas5)))

/-- R26: postmark a is earlier than postmark b when (b − a) mod 2^64 lies in [1, 2^63 − 1]. So two postmarks that lie less than
2^39 beats apart (a beat is 2^24 sub-ticks) compare as they follow one another, across the wrap of `beat` too. -/
def Obligations.PostmarksCompareInSerialArithmetic : Prop :=
  ∀ (a b : Pm),
    (pmLt a b = true ↔ 1 ≤ (b.toNat + 2 ^ 64 - a.toNat) % 2 ^ 64 ∧ (b.toNat + 2 ^ 64 - a.toNat) % 2 ^ 64 ≤ 2 ^ 63 - 1) ∧
    (∀ n, 0 < n → n < 2 ^ 39 * 2 ^ 24 → pmLt a (a + BitVec.ofNat 64 n) = true ∧ pmLt (a + BitVec.ofNat 64 n) a = false)

/-- R419: of two accepted firmware slots the higher version boots, slot A where they are equal; of one, that one; of none, none,
and the package stays in Standby, in ROM recovery. An accepted slot is one that `slotGood` holds of. -/
def Obligations.TheHigherAcceptedFirmwareBoots : Prop :=
  ∀ (s : State) (b : BootRead), s.dev = .standby → (s.start.shordo = .boot ∨ s.start.shordo = .bootAsked) →
    ∃ t, exec (.shordoBoot b) s = .next t ∧
      (∀ x y, t.sh.fwA = some x → t.sh.fwB = some y → slotGood t.sh x = true → slotGood t.sh y = true →
        (y.version.toNat ≤ x.version.toNat → bootSlot t.sh = some (false, x) ∧ t.sec.slot = false) ∧
        (x.version.toNat < y.version.toNat → bootSlot t.sh = some (true, y) ∧ t.sec.slot = true)) ∧
      (∀ x, t.sh.fwA = some x → slotGood t.sh x = true → (∀ y, t.sh.fwB = some y → slotGood t.sh y = false) →
        bootSlot t.sh = some (false, x) ∧ t.sec.slot = false ∧ t.sec.fwVersion = x.version) ∧
      (∀ y, t.sh.fwB = some y → slotGood t.sh y = true → (∀ x, t.sh.fwA = some x → slotGood t.sh x = false) →
        bootSlot t.sh = some (true, y) ∧ t.sec.slot = true ∧ t.sec.fwVersion = y.version) ∧
      ((∀ x, t.sh.fwA = some x → slotGood t.sh x = false) → (∀ y, t.sh.fwB = some y → slotGood t.sh y = false) →
        bootSlot t.sh = none ∧ t.sh.recovery = true ∧ t.sec.boot = 1 ∧ t.dev = .standby ∧ t.start.shordo = .up)

/-- R394: from Halted-Coolant, MB_STATE to Ready or to Dormant completes with E_STATE unless flow has been asserted for 1 s, the
trip input is deasserted, and every sensor lies below its level 1 exit temperature (97 degrees on a die or Teasel sensor, R389;
82 on a stack, R236); where all three hold, it begins. The command's turn has come and its other checks pass. -/
def Obligations.HaltedCoolantEndsOnceCool : Prop :=
  ∀ (s : State) (c : Fin 64) (d : BitVec 504), s.dev = .haltedCoolant → myTurn s c = true →
    (doorOf s c.val).mbMute = false → s.paths.longs.length < 16 →
    judge s c d 0x10 (bodyZero d 382) true [.none] (pkgLocked s) none = none →
    ∀ (cool : Prop), cool = (s.pwr.flowOk = true ∧ (∃ n, s.pwr.flowSince = some n ∧ n + 1000000000 ≤ s.ns) ∧
      (s.pwr.trip = false ∧ s.pins.thermTripN = true) ∧
      ((∀ x ∈ s.pwr.temps, x.2 < 97) ∧ ∀ h ∈ s.hubs, ∀ x ∈ h.2.temp, x.2 < 82)) →
    ∀ ends, ends = completeCmd (served s c 0x10 d) c (dscTag d) (dscIrq d) (doorOf s c.val).mbHead 0x10 eState 0 →
      (∃ r, r ∈ ends.paths.posted ∧ r.cls = .completion ∧ r.err = eState) ∧
      (d.extractLsb' 382 2 = 0 → (¬cool → exec (.mbStateReady c d) s = .next ends) ∧
        (cool → ∃ t x, exec (.mbStateReady c d) s = .next t ∧ t.start.stage = 3 ∧ t.start.retMode = true ∧
          t.paths.longs = s.paths.longs ++ [x] ∧ x.cmd = .toState false ∧ x.ctx = c)) ∧
      (d.extractLsb' 382 2 = 1 → (¬cool → exec (.mbStateDormant c d) s = .next ends) ∧
        (cool → ∃ t x, exec (.mbStateDormant c d) s = .next t ∧ t.dev = .haltedCoolant ∧
          t.paths.longs = s.paths.longs ++ [x] ∧ x.cmd = .toState true ∧ x.ctx = c))
end

