-- ==== Sys2Proof/Laws/State.lean ====
section
/-! SUPPORT. What each named update of the state leaves alone, and what it makes of the group it changes: one lemma per update, a
conjunction over the fields that simp takes apart. -/

namespace Sys2Proof.Machine

variable (s : State)

/-- `modRegs` changes `regs` alone. -/
@[simp] theorem modRegs_frame (f : Regs → Regs) :
    (modRegs s f).regs = f s.regs ∧ (modRegs s f).pending = s.pending ∧ (modRegs s f).dev = s.dev ∧
    (modRegs s f).sched = s.sched ∧ (modRegs s f).out = s.out ∧ (modRegs s f).free = s.free ∧ (modRegs s f).ns = s.ns ∧
    (modRegs s f).mem = s.mem ∧ (modRegs s f).hostMem = s.hostMem ∧ (modRegs s f).tb = s.tb ∧ (modRegs s f).clk = s.clk
    ∧ (modRegs s f).place = s.place ∧ (modRegs s f).caps = s.caps ∧ (modRegs s f).start = s.start ∧
    (modRegs s f).sec = s.sec ∧ (modRegs s f).ctxs = s.ctxs ∧ (modRegs s f).doors = s.doors ∧
    (modRegs s f).paths = s.paths ∧ (modRegs s f).cores = s.cores ∧ (modRegs s f).ports = s.ports ∧
    (modRegs s f).evicts = s.evicts ∧ (modRegs s f).flights = s.flights ∧ (modRegs s f).run = s.run ∧
    (modRegs s f).rcpt = s.rcpt ∧ (modRegs s f).cons = s.cons ∧ (modRegs s f).slots = s.slots ∧
    (modRegs s f).queues = s.queues ∧ (modRegs s f).stages = s.stages ∧ (modRegs s f).stats = s.stats ∧
    (modRegs s f).layers = s.layers ∧ (modRegs s f).upd = s.upd ∧ (modRegs s f).commit = s.commit ∧
    (modRegs s f).ckpt = s.ckpt ∧ (modRegs s f).offices = s.offices ∧ (modRegs s f).links = s.links ∧
    (modRegs s f).linkCtr = s.linkCtr ∧ (modRegs s f).e2e = s.e2e ∧ (modRegs s f).hdi = s.hdi ∧
    (modRegs s f).bundles = s.bundles ∧ (modRegs s f).sites = s.sites ∧ (modRegs s f).hubs = s.hubs ∧
    (modRegs s f).pwr = s.pwr ∧ (modRegs s f).pins = s.pins ∧ (modRegs s f).sh = s.sh := by
  refine ⟨?_, ?_, ?_, ?_, ?_, ?_, ?_, ?_, ?_, ?_, ?_, ?_, ?_, ?_, ?_, ?_, ?_, ?_, ?_, ?_, ?_, ?_, ?_, ?_, ?_, ?_, ?_, ?_, ?_, ?_, ?_, ?_, ?_, ?_, ?_, ?_, ?_, ?_, ?_, ?_, ?_, ?_, ?_, ?_⟩ <;> rfl

/-- `modPaths` changes `paths` alone. -/
@[simp] theorem modPaths_frame (f : Paths → Paths) :
    (modPaths s f).paths = f s.paths ∧ (modPaths s f).pending = s.pending ∧ (modPaths s f).dev = s.dev ∧
    (modPaths s f).sched = s.sched ∧ (modPaths s f).out = s.out ∧ (modPaths s f).free = s.free ∧
    (modPaths s f).ns = s.ns ∧ (modPaths s f).mem = s.mem ∧ (modPaths s f).hostMem = s.hostMem ∧
    (modPaths s f).tb = s.tb ∧ (modPaths s f).clk = s.clk ∧ (modPaths s f).regs = s.regs ∧
    (modPaths s f).place = s.place ∧ (modPaths s f).caps = s.caps ∧ (modPaths s f).start = s.start ∧
    (modPaths s f).sec = s.sec ∧ (modPaths s f).ctxs = s.ctxs ∧ (modPaths s f).doors = s.doors ∧
    (modPaths s f).cores = s.cores ∧ (modPaths s f).ports = s.ports ∧ (modPaths s f).evicts = s.evicts ∧
    (modPaths s f).flights = s.flights ∧ (modPaths s f).run = s.run ∧ (modPaths s f).rcpt = s.rcpt ∧
    (modPaths s f).cons = s.cons ∧ (modPaths s f).slots = s.slots ∧ (modPaths s f).queues = s.queues ∧
    (modPaths s f).stages = s.stages ∧ (modPaths s f).stats = s.stats ∧ (modPaths s f).layers = s.layers ∧
    (modPaths s f).upd = s.upd ∧ (modPaths s f).commit = s.commit ∧ (modPaths s f).ckpt = s.ckpt ∧
    (modPaths s f).offices = s.offices ∧ (modPaths s f).links = s.links ∧ (modPaths s f).linkCtr = s.linkCtr ∧
    (modPaths s f).e2e = s.e2e ∧ (modPaths s f).hdi = s.hdi ∧ (modPaths s f).bundles = s.bundles ∧
    (modPaths s f).sites = s.sites ∧ (modPaths s f).hubs = s.hubs ∧ (modPaths s f).pwr = s.pwr ∧
    (modPaths s f).pins = s.pins ∧ (modPaths s f).sh = s.sh := by
  refine ⟨?_, ?_, ?_, ?_, ?_, ?_, ?_, ?_, ?_, ?_, ?_, ?_, ?_, ?_, ?_, ?_, ?_, ?_, ?_, ?_, ?_, ?_, ?_, ?_, ?_, ?_, ?_, ?_, ?_, ?_, ?_, ?_, ?_, ?_, ?_, ?_, ?_, ?_, ?_, ?_, ?_, ?_, ?_, ?_⟩ <;> rfl

/-- `modRun` changes `run` alone. -/
@[simp] theorem modRun_frame (f : Run → Run) :
    (modRun s f).run = f s.run ∧ (modRun s f).pending = s.pending ∧ (modRun s f).dev = s.dev ∧
    (modRun s f).sched = s.sched ∧ (modRun s f).out = s.out ∧ (modRun s f).free = s.free ∧ (modRun s f).ns = s.ns ∧
    (modRun s f).mem = s.mem ∧ (modRun s f).hostMem = s.hostMem ∧ (modRun s f).tb = s.tb ∧ (modRun s f).clk = s.clk ∧
    (modRun s f).regs = s.regs ∧ (modRun s f).place = s.place ∧ (modRun s f).caps = s.caps ∧
    (modRun s f).start = s.start ∧ (modRun s f).sec = s.sec ∧ (modRun s f).ctxs = s.ctxs ∧ (modRun s f).doors = s.doors
    ∧ (modRun s f).paths = s.paths ∧ (modRun s f).cores = s.cores ∧ (modRun s f).ports = s.ports ∧
    (modRun s f).evicts = s.evicts ∧ (modRun s f).flights = s.flights ∧ (modRun s f).rcpt = s.rcpt ∧
    (modRun s f).cons = s.cons ∧ (modRun s f).slots = s.slots ∧ (modRun s f).queues = s.queues ∧
    (modRun s f).stages = s.stages ∧ (modRun s f).stats = s.stats ∧ (modRun s f).layers = s.layers ∧
    (modRun s f).upd = s.upd ∧ (modRun s f).commit = s.commit ∧ (modRun s f).ckpt = s.ckpt ∧
    (modRun s f).offices = s.offices ∧ (modRun s f).links = s.links ∧ (modRun s f).linkCtr = s.linkCtr ∧
    (modRun s f).e2e = s.e2e ∧ (modRun s f).hdi = s.hdi ∧ (modRun s f).bundles = s.bundles ∧
    (modRun s f).sites = s.sites ∧ (modRun s f).hubs = s.hubs ∧ (modRun s f).pwr = s.pwr ∧ (modRun s f).pins = s.pins ∧
    (modRun s f).sh = s.sh := by
  refine ⟨?_, ?_, ?_, ?_, ?_, ?_, ?_, ?_, ?_, ?_, ?_, ?_, ?_, ?_, ?_, ?_, ?_, ?_, ?_, ?_, ?_, ?_, ?_, ?_, ?_, ?_, ?_, ?_, ?_, ?_, ?_, ?_, ?_, ?_, ?_, ?_, ?_, ?_, ?_, ?_, ?_, ?_, ?_, ?_⟩ <;> rfl

/-- `modCommit` changes `commit` alone. -/
@[simp] theorem modCommit_frame (f : Commit → Commit) :
    (modCommit s f).commit = f s.commit ∧ (modCommit s f).pending = s.pending ∧ (modCommit s f).dev = s.dev ∧
    (modCommit s f).sched = s.sched ∧ (modCommit s f).out = s.out ∧ (modCommit s f).free = s.free ∧
    (modCommit s f).ns = s.ns ∧ (modCommit s f).mem = s.mem ∧ (modCommit s f).hostMem = s.hostMem ∧
    (modCommit s f).tb = s.tb ∧ (modCommit s f).clk = s.clk ∧ (modCommit s f).regs = s.regs ∧
    (modCommit s f).place = s.place ∧ (modCommit s f).caps = s.caps ∧ (modCommit s f).start = s.start ∧
    (modCommit s f).sec = s.sec ∧ (modCommit s f).ctxs = s.ctxs ∧ (modCommit s f).doors = s.doors ∧
    (modCommit s f).paths = s.paths ∧ (modCommit s f).cores = s.cores ∧ (modCommit s f).ports = s.ports ∧
    (modCommit s f).evicts = s.evicts ∧ (modCommit s f).flights = s.flights ∧ (modCommit s f).run = s.run ∧
    (modCommit s f).rcpt = s.rcpt ∧ (modCommit s f).cons = s.cons ∧ (modCommit s f).slots = s.slots ∧
    (modCommit s f).queues = s.queues ∧ (modCommit s f).stages = s.stages ∧ (modCommit s f).stats = s.stats ∧
    (modCommit s f).layers = s.layers ∧ (modCommit s f).upd = s.upd ∧ (modCommit s f).ckpt = s.ckpt ∧
    (modCommit s f).offices = s.offices ∧ (modCommit s f).links = s.links ∧ (modCommit s f).linkCtr = s.linkCtr ∧
    (modCommit s f).e2e = s.e2e ∧ (modCommit s f).hdi = s.hdi ∧ (modCommit s f).bundles = s.bundles ∧
    (modCommit s f).sites = s.sites ∧ (modCommit s f).hubs = s.hubs ∧ (modCommit s f).pwr = s.pwr ∧
    (modCommit s f).pins = s.pins ∧ (modCommit s f).sh = s.sh := by
  refine ⟨?_, ?_, ?_, ?_, ?_, ?_, ?_, ?_, ?_, ?_, ?_, ?_, ?_, ?_, ?_, ?_, ?_, ?_, ?_, ?_, ?_, ?_, ?_, ?_, ?_, ?_, ?_, ?_, ?_, ?_, ?_, ?_, ?_, ?_, ?_, ?_, ?_, ?_, ?_, ?_, ?_, ?_, ?_, ?_⟩ <;> rfl

/-- `modCkpt` changes `ckpt` alone. -/
@[simp] theorem modCkpt_frame (f : Ckpt → Ckpt) :
    (modCkpt s f).ckpt = f s.ckpt ∧ (modCkpt s f).pending = s.pending ∧ (modCkpt s f).dev = s.dev ∧
    (modCkpt s f).sched = s.sched ∧ (modCkpt s f).out = s.out ∧ (modCkpt s f).free = s.free ∧ (modCkpt s f).ns = s.ns ∧
    (modCkpt s f).mem = s.mem ∧ (modCkpt s f).hostMem = s.hostMem ∧ (modCkpt s f).tb = s.tb ∧ (modCkpt s f).clk = s.clk
    ∧ (modCkpt s f).regs = s.regs ∧ (modCkpt s f).place = s.place ∧ (modCkpt s f).caps = s.caps ∧
    (modCkpt s f).start = s.start ∧ (modCkpt s f).sec = s.sec ∧ (modCkpt s f).ctxs = s.ctxs ∧
    (modCkpt s f).doors = s.doors ∧ (modCkpt s f).paths = s.paths ∧ (modCkpt s f).cores = s.cores ∧
    (modCkpt s f).ports = s.ports ∧ (modCkpt s f).evicts = s.evicts ∧ (modCkpt s f).flights = s.flights ∧
    (modCkpt s f).run = s.run ∧ (modCkpt s f).rcpt = s.rcpt ∧ (modCkpt s f).cons = s.cons ∧
    (modCkpt s f).slots = s.slots ∧ (modCkpt s f).queues = s.queues ∧ (modCkpt s f).stages = s.stages ∧
    (modCkpt s f).stats = s.stats ∧ (modCkpt s f).layers = s.layers ∧ (modCkpt s f).upd = s.upd ∧
    (modCkpt s f).commit = s.commit ∧ (modCkpt s f).offices = s.offices ∧ (modCkpt s f).links = s.links ∧
    (modCkpt s f).linkCtr = s.linkCtr ∧ (modCkpt s f).e2e = s.e2e ∧ (modCkpt s f).hdi = s.hdi ∧
    (modCkpt s f).bundles = s.bundles ∧ (modCkpt s f).sites = s.sites ∧ (modCkpt s f).hubs = s.hubs ∧
    (modCkpt s f).pwr = s.pwr ∧ (modCkpt s f).pins = s.pins ∧ (modCkpt s f).sh = s.sh := by
  refine ⟨?_, ?_, ?_, ?_, ?_, ?_, ?_, ?_, ?_, ?_, ?_, ?_, ?_, ?_, ?_, ?_, ?_, ?_, ?_, ?_, ?_, ?_, ?_, ?_, ?_, ?_, ?_, ?_, ?_, ?_, ?_, ?_, ?_, ?_, ?_, ?_, ?_, ?_, ?_, ?_, ?_, ?_, ?_, ?_⟩ <;> rfl

/-- `setCtr` changes `clk` alone. -/
@[simp] theorem setCtr_frame (d : Nat) (c : Ctr) :
    (setCtr s d c).pending = s.pending ∧ (setCtr s d c).dev = s.dev ∧ (setCtr s d c).sched = s.sched ∧
    (setCtr s d c).out = s.out ∧ (setCtr s d c).free = s.free ∧ (setCtr s d c).ns = s.ns ∧ (setCtr s d c).mem = s.mem ∧
    (setCtr s d c).hostMem = s.hostMem ∧ (setCtr s d c).tb = s.tb ∧ (setCtr s d c).regs = s.regs ∧
    (setCtr s d c).place = s.place ∧ (setCtr s d c).caps = s.caps ∧ (setCtr s d c).start = s.start ∧
    (setCtr s d c).sec = s.sec ∧ (setCtr s d c).ctxs = s.ctxs ∧ (setCtr s d c).doors = s.doors ∧
    (setCtr s d c).paths = s.paths ∧ (setCtr s d c).cores = s.cores ∧ (setCtr s d c).ports = s.ports ∧
    (setCtr s d c).evicts = s.evicts ∧ (setCtr s d c).flights = s.flights ∧ (setCtr s d c).run = s.run ∧
    (setCtr s d c).rcpt = s.rcpt ∧ (setCtr s d c).cons = s.cons ∧ (setCtr s d c).slots = s.slots ∧
    (setCtr s d c).queues = s.queues ∧ (setCtr s d c).stages = s.stages ∧ (setCtr s d c).stats = s.stats ∧
    (setCtr s d c).layers = s.layers ∧ (setCtr s d c).upd = s.upd ∧ (setCtr s d c).commit = s.commit ∧
    (setCtr s d c).ckpt = s.ckpt ∧ (setCtr s d c).offices = s.offices ∧ (setCtr s d c).links = s.links ∧
    (setCtr s d c).linkCtr = s.linkCtr ∧ (setCtr s d c).e2e = s.e2e ∧ (setCtr s d c).hdi = s.hdi ∧
    (setCtr s d c).bundles = s.bundles ∧ (setCtr s d c).sites = s.sites ∧ (setCtr s d c).hubs = s.hubs ∧
    (setCtr s d c).pwr = s.pwr ∧ (setCtr s d c).pins = s.pins ∧ (setCtr s d c).sh = s.sh := by
  refine ⟨?_, ?_, ?_, ?_, ?_, ?_, ?_, ?_, ?_, ?_, ?_, ?_, ?_, ?_, ?_, ?_, ?_, ?_, ?_, ?_, ?_, ?_, ?_, ?_, ?_, ?_, ?_, ?_, ?_, ?_, ?_, ?_, ?_, ?_, ?_, ?_, ?_, ?_, ?_, ?_, ?_, ?_, ?_⟩ <;> rfl

/-- `modPwr` changes `pwr` alone. -/
@[simp] theorem modPwr_frame (f : Pwr → Pwr) :
    (modPwr s f).pwr = f s.pwr ∧ (modPwr s f).pending = s.pending ∧ (modPwr s f).dev = s.dev ∧
    (modPwr s f).sched = s.sched ∧ (modPwr s f).out = s.out ∧ (modPwr s f).free = s.free ∧ (modPwr s f).ns = s.ns ∧
    (modPwr s f).mem = s.mem ∧ (modPwr s f).hostMem = s.hostMem ∧ (modPwr s f).tb = s.tb ∧ (modPwr s f).clk = s.clk ∧
    (modPwr s f).regs = s.regs ∧ (modPwr s f).place = s.place ∧ (modPwr s f).caps = s.caps ∧
    (modPwr s f).start = s.start ∧ (modPwr s f).sec = s.sec ∧ (modPwr s f).ctxs = s.ctxs ∧ (modPwr s f).doors = s.doors
    ∧ (modPwr s f).paths = s.paths ∧ (modPwr s f).cores = s.cores ∧ (modPwr s f).ports = s.ports ∧
    (modPwr s f).evicts = s.evicts ∧ (modPwr s f).flights = s.flights ∧ (modPwr s f).run = s.run ∧
    (modPwr s f).rcpt = s.rcpt ∧ (modPwr s f).cons = s.cons ∧ (modPwr s f).slots = s.slots ∧
    (modPwr s f).queues = s.queues ∧ (modPwr s f).stages = s.stages ∧ (modPwr s f).stats = s.stats ∧
    (modPwr s f).layers = s.layers ∧ (modPwr s f).upd = s.upd ∧ (modPwr s f).commit = s.commit ∧
    (modPwr s f).ckpt = s.ckpt ∧ (modPwr s f).offices = s.offices ∧ (modPwr s f).links = s.links ∧
    (modPwr s f).linkCtr = s.linkCtr ∧ (modPwr s f).e2e = s.e2e ∧ (modPwr s f).hdi = s.hdi ∧
    (modPwr s f).bundles = s.bundles ∧ (modPwr s f).sites = s.sites ∧ (modPwr s f).hubs = s.hubs ∧
    (modPwr s f).pins = s.pins ∧ (modPwr s f).sh = s.sh := by
  refine ⟨?_, ?_, ?_, ?_, ?_, ?_, ?_, ?_, ?_, ?_, ?_, ?_, ?_, ?_, ?_, ?_, ?_, ?_, ?_, ?_, ?_, ?_, ?_, ?_, ?_, ?_, ?_, ?_, ?_, ?_, ?_, ?_, ?_, ?_, ?_, ?_, ?_, ?_, ?_, ?_, ?_, ?_, ?_, ?_⟩ <;> rfl

/-- `modSh` changes `sh` alone. -/
@[simp] theorem modSh_frame (f : Shordo → Shordo) :
    (modSh s f).sh = f s.sh ∧ (modSh s f).pending = s.pending ∧ (modSh s f).dev = s.dev ∧ (modSh s f).sched = s.sched ∧
    (modSh s f).out = s.out ∧ (modSh s f).free = s.free ∧ (modSh s f).ns = s.ns ∧ (modSh s f).mem = s.mem ∧
    (modSh s f).hostMem = s.hostMem ∧ (modSh s f).tb = s.tb ∧ (modSh s f).clk = s.clk ∧ (modSh s f).regs = s.regs ∧
    (modSh s f).place = s.place ∧ (modSh s f).caps = s.caps ∧ (modSh s f).start = s.start ∧ (modSh s f).sec = s.sec ∧
    (modSh s f).ctxs = s.ctxs ∧ (modSh s f).doors = s.doors ∧ (modSh s f).paths = s.paths ∧ (modSh s f).cores = s.cores
    ∧ (modSh s f).ports = s.ports ∧ (modSh s f).evicts = s.evicts ∧ (modSh s f).flights = s.flights ∧
    (modSh s f).run = s.run ∧ (modSh s f).rcpt = s.rcpt ∧ (modSh s f).cons = s.cons ∧ (modSh s f).slots = s.slots ∧
    (modSh s f).queues = s.queues ∧ (modSh s f).stages = s.stages ∧ (modSh s f).stats = s.stats ∧
    (modSh s f).layers = s.layers ∧ (modSh s f).upd = s.upd ∧ (modSh s f).commit = s.commit ∧ (modSh s f).ckpt = s.ckpt
    ∧ (modSh s f).offices = s.offices ∧ (modSh s f).links = s.links ∧ (modSh s f).linkCtr = s.linkCtr ∧
    (modSh s f).e2e = s.e2e ∧ (modSh s f).hdi = s.hdi ∧ (modSh s f).bundles = s.bundles ∧ (modSh s f).sites = s.sites ∧
    (modSh s f).hubs = s.hubs ∧ (modSh s f).pwr = s.pwr ∧ (modSh s f).pins = s.pins := by
  refine ⟨?_, ?_, ?_, ?_, ?_, ?_, ?_, ?_, ?_, ?_, ?_, ?_, ?_, ?_, ?_, ?_, ?_, ?_, ?_, ?_, ?_, ?_, ?_, ?_, ?_, ?_, ?_, ?_, ?_, ?_, ?_, ?_, ?_, ?_, ?_, ?_, ?_, ?_, ?_, ?_, ?_, ?_, ?_, ?_⟩ <;> rfl

/-- `modPins` changes `pins` alone. -/
@[simp] theorem modPins_frame (f : Pins → Pins) :
    (modPins s f).pins = f s.pins ∧ (modPins s f).pending = s.pending ∧ (modPins s f).dev = s.dev ∧
    (modPins s f).sched = s.sched ∧ (modPins s f).out = s.out ∧ (modPins s f).free = s.free ∧ (modPins s f).ns = s.ns ∧
    (modPins s f).mem = s.mem ∧ (modPins s f).hostMem = s.hostMem ∧ (modPins s f).tb = s.tb ∧ (modPins s f).clk = s.clk
    ∧ (modPins s f).regs = s.regs ∧ (modPins s f).place = s.place ∧ (modPins s f).caps = s.caps ∧
    (modPins s f).start = s.start ∧ (modPins s f).sec = s.sec ∧ (modPins s f).ctxs = s.ctxs ∧
    (modPins s f).doors = s.doors ∧ (modPins s f).paths = s.paths ∧ (modPins s f).cores = s.cores ∧
    (modPins s f).ports = s.ports ∧ (modPins s f).evicts = s.evicts ∧ (modPins s f).flights = s.flights ∧
    (modPins s f).run = s.run ∧ (modPins s f).rcpt = s.rcpt ∧ (modPins s f).cons = s.cons ∧
    (modPins s f).slots = s.slots ∧ (modPins s f).queues = s.queues ∧ (modPins s f).stages = s.stages ∧
    (modPins s f).stats = s.stats ∧ (modPins s f).layers = s.layers ∧ (modPins s f).upd = s.upd ∧
    (modPins s f).commit = s.commit ∧ (modPins s f).ckpt = s.ckpt ∧ (modPins s f).offices = s.offices ∧
    (modPins s f).links = s.links ∧ (modPins s f).linkCtr = s.linkCtr ∧ (modPins s f).e2e = s.e2e ∧
    (modPins s f).hdi = s.hdi ∧ (modPins s f).bundles = s.bundles ∧ (modPins s f).sites = s.sites ∧
    (modPins s f).hubs = s.hubs ∧ (modPins s f).pwr = s.pwr ∧ (modPins s f).sh = s.sh := by
  refine ⟨?_, ?_, ?_, ?_, ?_, ?_, ?_, ?_, ?_, ?_, ?_, ?_, ?_, ?_, ?_, ?_, ?_, ?_, ?_, ?_, ?_, ?_, ?_, ?_, ?_, ?_, ?_, ?_, ?_, ?_, ?_, ?_, ?_, ?_, ?_, ?_, ?_, ?_, ?_, ?_, ?_, ?_, ?_, ?_⟩ <;> rfl

/-- `modTb` changes `tb` alone. -/
@[simp] theorem modTb_frame (f : Timebase → Timebase) :
    (modTb s f).tb = f s.tb ∧ (modTb s f).pending = s.pending ∧ (modTb s f).dev = s.dev ∧ (modTb s f).sched = s.sched ∧
    (modTb s f).out = s.out ∧ (modTb s f).free = s.free ∧ (modTb s f).ns = s.ns ∧ (modTb s f).mem = s.mem ∧
    (modTb s f).hostMem = s.hostMem ∧ (modTb s f).clk = s.clk ∧ (modTb s f).regs = s.regs ∧ (modTb s f).place = s.place
    ∧ (modTb s f).caps = s.caps ∧ (modTb s f).start = s.start ∧ (modTb s f).sec = s.sec ∧ (modTb s f).ctxs = s.ctxs ∧
    (modTb s f).doors = s.doors ∧ (modTb s f).paths = s.paths ∧ (modTb s f).cores = s.cores ∧
    (modTb s f).ports = s.ports ∧ (modTb s f).evicts = s.evicts ∧ (modTb s f).flights = s.flights ∧
    (modTb s f).run = s.run ∧ (modTb s f).rcpt = s.rcpt ∧ (modTb s f).cons = s.cons ∧ (modTb s f).slots = s.slots ∧
    (modTb s f).queues = s.queues ∧ (modTb s f).stages = s.stages ∧ (modTb s f).stats = s.stats ∧
    (modTb s f).layers = s.layers ∧ (modTb s f).upd = s.upd ∧ (modTb s f).commit = s.commit ∧ (modTb s f).ckpt = s.ckpt
    ∧ (modTb s f).offices = s.offices ∧ (modTb s f).links = s.links ∧ (modTb s f).linkCtr = s.linkCtr ∧
    (modTb s f).e2e = s.e2e ∧ (modTb s f).hdi = s.hdi ∧ (modTb s f).bundles = s.bundles ∧ (modTb s f).sites = s.sites ∧
    (modTb s f).hubs = s.hubs ∧ (modTb s f).pwr = s.pwr ∧ (modTb s f).pins = s.pins ∧ (modTb s f).sh = s.sh := by
  refine ⟨?_, ?_, ?_, ?_, ?_, ?_, ?_, ?_, ?_, ?_, ?_, ?_, ?_, ?_, ?_, ?_, ?_, ?_, ?_, ?_, ?_, ?_, ?_, ?_, ?_, ?_, ?_, ?_, ?_, ?_, ?_, ?_, ?_, ?_, ?_, ?_, ?_, ?_, ?_, ?_, ?_, ?_, ?_, ?_⟩ <;> rfl

/-- `modStart` changes `start` alone. -/
@[simp] theorem modStart_frame (f : Start → Start) :
    (modStart s f).start = f s.start ∧ (modStart s f).pending = s.pending ∧ (modStart s f).dev = s.dev ∧
    (modStart s f).sched = s.sched ∧ (modStart s f).out = s.out ∧ (modStart s f).free = s.free ∧
    (modStart s f).ns = s.ns ∧ (modStart s f).mem = s.mem ∧ (modStart s f).hostMem = s.hostMem ∧
    (modStart s f).tb = s.tb ∧ (modStart s f).clk = s.clk ∧ (modStart s f).regs = s.regs ∧
    (modStart s f).place = s.place ∧ (modStart s f).caps = s.caps ∧ (modStart s f).sec = s.sec ∧
    (modStart s f).ctxs = s.ctxs ∧ (modStart s f).doors = s.doors ∧ (modStart s f).paths = s.paths ∧
    (modStart s f).cores = s.cores ∧ (modStart s f).ports = s.ports ∧ (modStart s f).evicts = s.evicts ∧
    (modStart s f).flights = s.flights ∧ (modStart s f).run = s.run ∧ (modStart s f).rcpt = s.rcpt ∧
    (modStart s f).cons = s.cons ∧ (modStart s f).slots = s.slots ∧ (modStart s f).queues = s.queues ∧
    (modStart s f).stages = s.stages ∧ (modStart s f).stats = s.stats ∧ (modStart s f).layers = s.layers ∧
    (modStart s f).upd = s.upd ∧ (modStart s f).commit = s.commit ∧ (modStart s f).ckpt = s.ckpt ∧
    (modStart s f).offices = s.offices ∧ (modStart s f).links = s.links ∧ (modStart s f).linkCtr = s.linkCtr ∧
    (modStart s f).e2e = s.e2e ∧ (modStart s f).hdi = s.hdi ∧ (modStart s f).bundles = s.bundles ∧
    (modStart s f).sites = s.sites ∧ (modStart s f).hubs = s.hubs ∧ (modStart s f).pwr = s.pwr ∧
    (modStart s f).pins = s.pins ∧ (modStart s f).sh = s.sh := by
  refine ⟨?_, ?_, ?_, ?_, ?_, ?_, ?_, ?_, ?_, ?_, ?_, ?_, ?_, ?_, ?_, ?_, ?_, ?_, ?_, ?_, ?_, ?_, ?_, ?_, ?_, ?_, ?_, ?_, ?_, ?_, ?_, ?_, ?_, ?_, ?_, ?_, ?_, ?_, ?_, ?_, ?_, ?_, ?_, ?_⟩ <;> rfl

/-- `modRcpt` changes `rcpt` alone. -/
@[simp] theorem modRcpt_frame (f : Rcpts → Rcpts) :
    (modRcpt s f).rcpt = f s.rcpt ∧ (modRcpt s f).pending = s.pending ∧ (modRcpt s f).dev = s.dev ∧
    (modRcpt s f).sched = s.sched ∧ (modRcpt s f).out = s.out ∧ (modRcpt s f).free = s.free ∧ (modRcpt s f).ns = s.ns ∧
    (modRcpt s f).mem = s.mem ∧ (modRcpt s f).hostMem = s.hostMem ∧ (modRcpt s f).tb = s.tb ∧ (modRcpt s f).clk = s.clk
    ∧ (modRcpt s f).regs = s.regs ∧ (modRcpt s f).place = s.place ∧ (modRcpt s f).caps = s.caps ∧
    (modRcpt s f).start = s.start ∧ (modRcpt s f).sec = s.sec ∧ (modRcpt s f).ctxs = s.ctxs ∧
    (modRcpt s f).doors = s.doors ∧ (modRcpt s f).paths = s.paths ∧ (modRcpt s f).cores = s.cores ∧
    (modRcpt s f).ports = s.ports ∧ (modRcpt s f).evicts = s.evicts ∧ (modRcpt s f).flights = s.flights ∧
    (modRcpt s f).run = s.run ∧ (modRcpt s f).cons = s.cons ∧ (modRcpt s f).slots = s.slots ∧
    (modRcpt s f).queues = s.queues ∧ (modRcpt s f).stages = s.stages ∧ (modRcpt s f).stats = s.stats ∧
    (modRcpt s f).layers = s.layers ∧ (modRcpt s f).upd = s.upd ∧ (modRcpt s f).commit = s.commit ∧
    (modRcpt s f).ckpt = s.ckpt ∧ (modRcpt s f).offices = s.offices ∧ (modRcpt s f).links = s.links ∧
    (modRcpt s f).linkCtr = s.linkCtr ∧ (modRcpt s f).e2e = s.e2e ∧ (modRcpt s f).hdi = s.hdi ∧
    (modRcpt s f).bundles = s.bundles ∧ (modRcpt s f).sites = s.sites ∧ (modRcpt s f).hubs = s.hubs ∧
    (modRcpt s f).pwr = s.pwr ∧ (modRcpt s f).pins = s.pins ∧ (modRcpt s f).sh = s.sh := by
  refine ⟨?_, ?_, ?_, ?_, ?_, ?_, ?_, ?_, ?_, ?_, ?_, ?_, ?_, ?_, ?_, ?_, ?_, ?_, ?_, ?_, ?_, ?_, ?_, ?_, ?_, ?_, ?_, ?_, ?_, ?_, ?_, ?_, ?_, ?_, ?_, ?_, ?_, ?_, ?_, ?_, ?_, ?_, ?_, ?_⟩ <;> rfl

/-- `modCtx` changes `ctxs` alone. -/
@[simp] theorem modCtx_frame (i : Nat) (f : Ctx → Ctx) :
    (modCtx s i f).ctxs = tput Ctx.reset s.ctxs i (f (tget Ctx.reset s.ctxs i)) ∧ (modCtx s i f).pending = s.pending ∧
    (modCtx s i f).dev = s.dev ∧ (modCtx s i f).sched = s.sched ∧ (modCtx s i f).out = s.out ∧
    (modCtx s i f).free = s.free ∧ (modCtx s i f).ns = s.ns ∧ (modCtx s i f).mem = s.mem ∧
    (modCtx s i f).hostMem = s.hostMem ∧ (modCtx s i f).tb = s.tb ∧ (modCtx s i f).clk = s.clk ∧
    (modCtx s i f).regs = s.regs ∧ (modCtx s i f).place = s.place ∧ (modCtx s i f).caps = s.caps ∧
    (modCtx s i f).start = s.start ∧ (modCtx s i f).sec = s.sec ∧ (modCtx s i f).doors = s.doors ∧
    (modCtx s i f).paths = s.paths ∧ (modCtx s i f).cores = s.cores ∧ (modCtx s i f).ports = s.ports ∧
    (modCtx s i f).evicts = s.evicts ∧ (modCtx s i f).flights = s.flights ∧ (modCtx s i f).run = s.run ∧
    (modCtx s i f).rcpt = s.rcpt ∧ (modCtx s i f).cons = s.cons ∧ (modCtx s i f).slots = s.slots ∧
    (modCtx s i f).queues = s.queues ∧ (modCtx s i f).stages = s.stages ∧ (modCtx s i f).stats = s.stats ∧
    (modCtx s i f).layers = s.layers ∧ (modCtx s i f).upd = s.upd ∧ (modCtx s i f).commit = s.commit ∧
    (modCtx s i f).ckpt = s.ckpt ∧ (modCtx s i f).offices = s.offices ∧ (modCtx s i f).links = s.links ∧
    (modCtx s i f).linkCtr = s.linkCtr ∧ (modCtx s i f).e2e = s.e2e ∧ (modCtx s i f).hdi = s.hdi ∧
    (modCtx s i f).bundles = s.bundles ∧ (modCtx s i f).sites = s.sites ∧ (modCtx s i f).hubs = s.hubs ∧
    (modCtx s i f).pwr = s.pwr ∧ (modCtx s i f).pins = s.pins ∧ (modCtx s i f).sh = s.sh := by
  refine ⟨?_, ?_, ?_, ?_, ?_, ?_, ?_, ?_, ?_, ?_, ?_, ?_, ?_, ?_, ?_, ?_, ?_, ?_, ?_, ?_, ?_, ?_, ?_, ?_, ?_, ?_, ?_, ?_, ?_, ?_, ?_, ?_, ?_, ?_, ?_, ?_, ?_, ?_, ?_, ?_, ?_, ?_, ?_, ?_⟩ <;> rfl

/-- `modDoor` changes `doors` alone. -/
@[simp] theorem modDoor_frame (i : Nat) (f : Door → Door) :
    (modDoor s i f).doors = tput Door.reset s.doors i (f (tget Door.reset s.doors i)) ∧
    (modDoor s i f).pending = s.pending ∧ (modDoor s i f).dev = s.dev ∧ (modDoor s i f).sched = s.sched ∧
    (modDoor s i f).out = s.out ∧ (modDoor s i f).free = s.free ∧ (modDoor s i f).ns = s.ns ∧
    (modDoor s i f).mem = s.mem ∧ (modDoor s i f).hostMem = s.hostMem ∧ (modDoor s i f).tb = s.tb ∧
    (modDoor s i f).clk = s.clk ∧ (modDoor s i f).regs = s.regs ∧ (modDoor s i f).place = s.place ∧
    (modDoor s i f).caps = s.caps ∧ (modDoor s i f).start = s.start ∧ (modDoor s i f).sec = s.sec ∧
    (modDoor s i f).ctxs = s.ctxs ∧ (modDoor s i f).paths = s.paths ∧ (modDoor s i f).cores = s.cores ∧
    (modDoor s i f).ports = s.ports ∧ (modDoor s i f).evicts = s.evicts ∧ (modDoor s i f).flights = s.flights ∧
    (modDoor s i f).run = s.run ∧ (modDoor s i f).rcpt = s.rcpt ∧ (modDoor s i f).cons = s.cons ∧
    (modDoor s i f).slots = s.slots ∧ (modDoor s i f).queues = s.queues ∧ (modDoor s i f).stages = s.stages ∧
    (modDoor s i f).stats = s.stats ∧ (modDoor s i f).layers = s.layers ∧ (modDoor s i f).upd = s.upd ∧
    (modDoor s i f).commit = s.commit ∧ (modDoor s i f).ckpt = s.ckpt ∧ (modDoor s i f).offices = s.offices ∧
    (modDoor s i f).links = s.links ∧ (modDoor s i f).linkCtr = s.linkCtr ∧ (modDoor s i f).e2e = s.e2e ∧
    (modDoor s i f).hdi = s.hdi ∧ (modDoor s i f).bundles = s.bundles ∧ (modDoor s i f).sites = s.sites ∧
    (modDoor s i f).hubs = s.hubs ∧ (modDoor s i f).pwr = s.pwr ∧ (modDoor s i f).pins = s.pins ∧
    (modDoor s i f).sh = s.sh := by
  refine ⟨?_, ?_, ?_, ?_, ?_, ?_, ?_, ?_, ?_, ?_, ?_, ?_, ?_, ?_, ?_, ?_, ?_, ?_, ?_, ?_, ?_, ?_, ?_, ?_, ?_, ?_, ?_, ?_, ?_, ?_, ?_, ?_, ?_, ?_, ?_, ?_, ?_, ?_, ?_, ?_, ?_, ?_, ?_, ?_⟩ <;> rfl

/-- `modCons` changes `cons` alone. -/
@[simp] theorem modCons_frame (i : Nat) (f : Cons → Cons) :
    (modCons s i f).cons = tput Cons.reset s.cons i (f (tget Cons.reset s.cons i)) ∧ (modCons s i f).pending = s.pending
    ∧ (modCons s i f).dev = s.dev ∧ (modCons s i f).sched = s.sched ∧ (modCons s i f).out = s.out ∧
    (modCons s i f).free = s.free ∧ (modCons s i f).ns = s.ns ∧ (modCons s i f).mem = s.mem ∧
    (modCons s i f).hostMem = s.hostMem ∧ (modCons s i f).tb = s.tb ∧ (modCons s i f).clk = s.clk ∧
    (modCons s i f).regs = s.regs ∧ (modCons s i f).place = s.place ∧ (modCons s i f).caps = s.caps ∧
    (modCons s i f).start = s.start ∧ (modCons s i f).sec = s.sec ∧ (modCons s i f).ctxs = s.ctxs ∧
    (modCons s i f).doors = s.doors ∧ (modCons s i f).paths = s.paths ∧ (modCons s i f).cores = s.cores ∧
    (modCons s i f).ports = s.ports ∧ (modCons s i f).evicts = s.evicts ∧ (modCons s i f).flights = s.flights ∧
    (modCons s i f).run = s.run ∧ (modCons s i f).rcpt = s.rcpt ∧ (modCons s i f).slots = s.slots ∧
    (modCons s i f).queues = s.queues ∧ (modCons s i f).stages = s.stages ∧ (modCons s i f).stats = s.stats ∧
    (modCons s i f).layers = s.layers ∧ (modCons s i f).upd = s.upd ∧ (modCons s i f).commit = s.commit ∧
    (modCons s i f).ckpt = s.ckpt ∧ (modCons s i f).offices = s.offices ∧ (modCons s i f).links = s.links ∧
    (modCons s i f).linkCtr = s.linkCtr ∧ (modCons s i f).e2e = s.e2e ∧ (modCons s i f).hdi = s.hdi ∧
    (modCons s i f).bundles = s.bundles ∧ (modCons s i f).sites = s.sites ∧ (modCons s i f).hubs = s.hubs ∧
    (modCons s i f).pwr = s.pwr ∧ (modCons s i f).pins = s.pins ∧ (modCons s i f).sh = s.sh := by
  refine ⟨?_, ?_, ?_, ?_, ?_, ?_, ?_, ?_, ?_, ?_, ?_, ?_, ?_, ?_, ?_, ?_, ?_, ?_, ?_, ?_, ?_, ?_, ?_, ?_, ?_, ?_, ?_, ?_, ?_, ?_, ?_, ?_, ?_, ?_, ?_, ?_, ?_, ?_, ?_, ?_, ?_, ?_, ?_, ?_⟩ <;> rfl

/-- `modQueue` changes `queues` alone. -/
@[simp] theorem modQueue_frame (i : Nat) (f : Queue → Queue) :
    (modQueue s i f).queues = tput Queue.reset s.queues i (f (tget Queue.reset s.queues i)) ∧
    (modQueue s i f).pending = s.pending ∧ (modQueue s i f).dev = s.dev ∧ (modQueue s i f).sched = s.sched ∧
    (modQueue s i f).out = s.out ∧ (modQueue s i f).free = s.free ∧ (modQueue s i f).ns = s.ns ∧
    (modQueue s i f).mem = s.mem ∧ (modQueue s i f).hostMem = s.hostMem ∧ (modQueue s i f).tb = s.tb ∧
    (modQueue s i f).clk = s.clk ∧ (modQueue s i f).regs = s.regs ∧ (modQueue s i f).place = s.place ∧
    (modQueue s i f).caps = s.caps ∧ (modQueue s i f).start = s.start ∧ (modQueue s i f).sec = s.sec ∧
    (modQueue s i f).ctxs = s.ctxs ∧ (modQueue s i f).doors = s.doors ∧ (modQueue s i f).paths = s.paths ∧
    (modQueue s i f).cores = s.cores ∧ (modQueue s i f).ports = s.ports ∧ (modQueue s i f).evicts = s.evicts ∧
    (modQueue s i f).flights = s.flights ∧ (modQueue s i f).run = s.run ∧ (modQueue s i f).rcpt = s.rcpt ∧
    (modQueue s i f).cons = s.cons ∧ (modQueue s i f).slots = s.slots ∧ (modQueue s i f).stages = s.stages ∧
    (modQueue s i f).stats = s.stats ∧ (modQueue s i f).layers = s.layers ∧ (modQueue s i f).upd = s.upd ∧
    (modQueue s i f).commit = s.commit ∧ (modQueue s i f).ckpt = s.ckpt ∧ (modQueue s i f).offices = s.offices ∧
    (modQueue s i f).links = s.links ∧ (modQueue s i f).linkCtr = s.linkCtr ∧ (modQueue s i f).e2e = s.e2e ∧
    (modQueue s i f).hdi = s.hdi ∧ (modQueue s i f).bundles = s.bundles ∧ (modQueue s i f).sites = s.sites ∧
    (modQueue s i f).hubs = s.hubs ∧ (modQueue s i f).pwr = s.pwr ∧ (modQueue s i f).pins = s.pins ∧
    (modQueue s i f).sh = s.sh := by
  refine ⟨?_, ?_, ?_, ?_, ?_, ?_, ?_, ?_, ?_, ?_, ?_, ?_, ?_, ?_, ?_, ?_, ?_, ?_, ?_, ?_, ?_, ?_, ?_, ?_, ?_, ?_, ?_, ?_, ?_, ?_, ?_, ?_, ?_, ?_, ?_, ?_, ?_, ?_, ?_, ?_, ?_, ?_, ?_, ?_⟩ <;> rfl

/-- `modStage` changes `stages` alone. -/
@[simp] theorem modStage_frame (i : Nat) (f : Stage → Stage) :
    (modStage s i f).stages = tput Stage.reset s.stages i (f (tget Stage.reset s.stages i)) ∧
    (modStage s i f).pending = s.pending ∧ (modStage s i f).dev = s.dev ∧ (modStage s i f).sched = s.sched ∧
    (modStage s i f).out = s.out ∧ (modStage s i f).free = s.free ∧ (modStage s i f).ns = s.ns ∧
    (modStage s i f).mem = s.mem ∧ (modStage s i f).hostMem = s.hostMem ∧ (modStage s i f).tb = s.tb ∧
    (modStage s i f).clk = s.clk ∧ (modStage s i f).regs = s.regs ∧ (modStage s i f).place = s.place ∧
    (modStage s i f).caps = s.caps ∧ (modStage s i f).start = s.start ∧ (modStage s i f).sec = s.sec ∧
    (modStage s i f).ctxs = s.ctxs ∧ (modStage s i f).doors = s.doors ∧ (modStage s i f).paths = s.paths ∧
    (modStage s i f).cores = s.cores ∧ (modStage s i f).ports = s.ports ∧ (modStage s i f).evicts = s.evicts ∧
    (modStage s i f).flights = s.flights ∧ (modStage s i f).run = s.run ∧ (modStage s i f).rcpt = s.rcpt ∧
    (modStage s i f).cons = s.cons ∧ (modStage s i f).slots = s.slots ∧ (modStage s i f).queues = s.queues ∧
    (modStage s i f).stats = s.stats ∧ (modStage s i f).layers = s.layers ∧ (modStage s i f).upd = s.upd ∧
    (modStage s i f).commit = s.commit ∧ (modStage s i f).ckpt = s.ckpt ∧ (modStage s i f).offices = s.offices ∧
    (modStage s i f).links = s.links ∧ (modStage s i f).linkCtr = s.linkCtr ∧ (modStage s i f).e2e = s.e2e ∧
    (modStage s i f).hdi = s.hdi ∧ (modStage s i f).bundles = s.bundles ∧ (modStage s i f).sites = s.sites ∧
    (modStage s i f).hubs = s.hubs ∧ (modStage s i f).pwr = s.pwr ∧ (modStage s i f).pins = s.pins ∧
    (modStage s i f).sh = s.sh := by
  refine ⟨?_, ?_, ?_, ?_, ?_, ?_, ?_, ?_, ?_, ?_, ?_, ?_, ?_, ?_, ?_, ?_, ?_, ?_, ?_, ?_, ?_, ?_, ?_, ?_, ?_, ?_, ?_, ?_, ?_, ?_, ?_, ?_, ?_, ?_, ?_, ?_, ?_, ?_, ?_, ?_, ?_, ?_, ?_, ?_⟩ <;> rfl

/-- `modLayer` changes `layers` alone. -/
@[simp] theorem modLayer_frame (i : Nat) (f : LayerSt → LayerSt) :
    (modLayer s i f).layers = tput LayerSt.reset s.layers i (f (tget LayerSt.reset s.layers i)) ∧
    (modLayer s i f).pending = s.pending ∧ (modLayer s i f).dev = s.dev ∧ (modLayer s i f).sched = s.sched ∧
    (modLayer s i f).out = s.out ∧ (modLayer s i f).free = s.free ∧ (modLayer s i f).ns = s.ns ∧
    (modLayer s i f).mem = s.mem ∧ (modLayer s i f).hostMem = s.hostMem ∧ (modLayer s i f).tb = s.tb ∧
    (modLayer s i f).clk = s.clk ∧ (modLayer s i f).regs = s.regs ∧ (modLayer s i f).place = s.place ∧
    (modLayer s i f).caps = s.caps ∧ (modLayer s i f).start = s.start ∧ (modLayer s i f).sec = s.sec ∧
    (modLayer s i f).ctxs = s.ctxs ∧ (modLayer s i f).doors = s.doors ∧ (modLayer s i f).paths = s.paths ∧
    (modLayer s i f).cores = s.cores ∧ (modLayer s i f).ports = s.ports ∧ (modLayer s i f).evicts = s.evicts ∧
    (modLayer s i f).flights = s.flights ∧ (modLayer s i f).run = s.run ∧ (modLayer s i f).rcpt = s.rcpt ∧
    (modLayer s i f).cons = s.cons ∧ (modLayer s i f).slots = s.slots ∧ (modLayer s i f).queues = s.queues ∧
    (modLayer s i f).stages = s.stages ∧ (modLayer s i f).stats = s.stats ∧ (modLayer s i f).upd = s.upd ∧
    (modLayer s i f).commit = s.commit ∧ (modLayer s i f).ckpt = s.ckpt ∧ (modLayer s i f).offices = s.offices ∧
    (modLayer s i f).links = s.links ∧ (modLayer s i f).linkCtr = s.linkCtr ∧ (modLayer s i f).e2e = s.e2e ∧
    (modLayer s i f).hdi = s.hdi ∧ (modLayer s i f).bundles = s.bundles ∧ (modLayer s i f).sites = s.sites ∧
    (modLayer s i f).hubs = s.hubs ∧ (modLayer s i f).pwr = s.pwr ∧ (modLayer s i f).pins = s.pins ∧
    (modLayer s i f).sh = s.sh := by
  refine ⟨?_, ?_, ?_, ?_, ?_, ?_, ?_, ?_, ?_, ?_, ?_, ?_, ?_, ?_, ?_, ?_, ?_, ?_, ?_, ?_, ?_, ?_, ?_, ?_, ?_, ?_, ?_, ?_, ?_, ?_, ?_, ?_, ?_, ?_, ?_, ?_, ?_, ?_, ?_, ?_, ?_, ?_, ?_, ?_⟩ <;> rfl

/-- `modUpd` changes `upd` alone. -/
@[simp] theorem modUpd_frame (i : Nat) (f : UpdEng → UpdEng) :
    (modUpd s i f).upd = tput UpdEng.reset s.upd i (f (tget UpdEng.reset s.upd i)) ∧ (modUpd s i f).pending = s.pending
    ∧ (modUpd s i f).dev = s.dev ∧ (modUpd s i f).sched = s.sched ∧ (modUpd s i f).out = s.out ∧
    (modUpd s i f).free = s.free ∧ (modUpd s i f).ns = s.ns ∧ (modUpd s i f).mem = s.mem ∧
    (modUpd s i f).hostMem = s.hostMem ∧ (modUpd s i f).tb = s.tb ∧ (modUpd s i f).clk = s.clk ∧
    (modUpd s i f).regs = s.regs ∧ (modUpd s i f).place = s.place ∧ (modUpd s i f).caps = s.caps ∧
    (modUpd s i f).start = s.start ∧ (modUpd s i f).sec = s.sec ∧ (modUpd s i f).ctxs = s.ctxs ∧
    (modUpd s i f).doors = s.doors ∧ (modUpd s i f).paths = s.paths ∧ (modUpd s i f).cores = s.cores ∧
    (modUpd s i f).ports = s.ports ∧ (modUpd s i f).evicts = s.evicts ∧ (modUpd s i f).flights = s.flights ∧
    (modUpd s i f).run = s.run ∧ (modUpd s i f).rcpt = s.rcpt ∧ (modUpd s i f).cons = s.cons ∧
    (modUpd s i f).slots = s.slots ∧ (modUpd s i f).queues = s.queues ∧ (modUpd s i f).stages = s.stages ∧
    (modUpd s i f).stats = s.stats ∧ (modUpd s i f).layers = s.layers ∧ (modUpd s i f).commit = s.commit ∧
    (modUpd s i f).ckpt = s.ckpt ∧ (modUpd s i f).offices = s.offices ∧ (modUpd s i f).links = s.links ∧
    (modUpd s i f).linkCtr = s.linkCtr ∧ (modUpd s i f).e2e = s.e2e ∧ (modUpd s i f).hdi = s.hdi ∧
    (modUpd s i f).bundles = s.bundles ∧ (modUpd s i f).sites = s.sites ∧ (modUpd s i f).hubs = s.hubs ∧
    (modUpd s i f).pwr = s.pwr ∧ (modUpd s i f).pins = s.pins ∧ (modUpd s i f).sh = s.sh := by
  refine ⟨?_, ?_, ?_, ?_, ?_, ?_, ?_, ?_, ?_, ?_, ?_, ?_, ?_, ?_, ?_, ?_, ?_, ?_, ?_, ?_, ?_, ?_, ?_, ?_, ?_, ?_, ?_, ?_, ?_, ?_, ?_, ?_, ?_, ?_, ?_, ?_, ?_, ?_, ?_, ?_, ?_, ?_, ?_, ?_⟩ <;> rfl

/-- `modOffice` changes `offices` alone. -/
@[simp] theorem modOffice_frame (i : Nat) (f : Office → Office) :
    (modOffice s i f).offices = tput Office.reset s.offices i (f (tget Office.reset s.offices i)) ∧
    (modOffice s i f).pending = s.pending ∧ (modOffice s i f).dev = s.dev ∧ (modOffice s i f).sched = s.sched ∧
    (modOffice s i f).out = s.out ∧ (modOffice s i f).free = s.free ∧ (modOffice s i f).ns = s.ns ∧
    (modOffice s i f).mem = s.mem ∧ (modOffice s i f).hostMem = s.hostMem ∧ (modOffice s i f).tb = s.tb ∧
    (modOffice s i f).clk = s.clk ∧ (modOffice s i f).regs = s.regs ∧ (modOffice s i f).place = s.place ∧
    (modOffice s i f).caps = s.caps ∧ (modOffice s i f).start = s.start ∧ (modOffice s i f).sec = s.sec ∧
    (modOffice s i f).ctxs = s.ctxs ∧ (modOffice s i f).doors = s.doors ∧ (modOffice s i f).paths = s.paths ∧
    (modOffice s i f).cores = s.cores ∧ (modOffice s i f).ports = s.ports ∧ (modOffice s i f).evicts = s.evicts ∧
    (modOffice s i f).flights = s.flights ∧ (modOffice s i f).run = s.run ∧ (modOffice s i f).rcpt = s.rcpt ∧
    (modOffice s i f).cons = s.cons ∧ (modOffice s i f).slots = s.slots ∧ (modOffice s i f).queues = s.queues ∧
    (modOffice s i f).stages = s.stages ∧ (modOffice s i f).stats = s.stats ∧ (modOffice s i f).layers = s.layers ∧
    (modOffice s i f).upd = s.upd ∧ (modOffice s i f).commit = s.commit ∧ (modOffice s i f).ckpt = s.ckpt ∧
    (modOffice s i f).links = s.links ∧ (modOffice s i f).linkCtr = s.linkCtr ∧ (modOffice s i f).e2e = s.e2e ∧
    (modOffice s i f).hdi = s.hdi ∧ (modOffice s i f).bundles = s.bundles ∧ (modOffice s i f).sites = s.sites ∧
    (modOffice s i f).hubs = s.hubs ∧ (modOffice s i f).pwr = s.pwr ∧ (modOffice s i f).pins = s.pins ∧
    (modOffice s i f).sh = s.sh := by
  refine ⟨?_, ?_, ?_, ?_, ?_, ?_, ?_, ?_, ?_, ?_, ?_, ?_, ?_, ?_, ?_, ?_, ?_, ?_, ?_, ?_, ?_, ?_, ?_, ?_, ?_, ?_, ?_, ?_, ?_, ?_, ?_, ?_, ?_, ?_, ?_, ?_, ?_, ?_, ?_, ?_, ?_, ?_, ?_, ?_⟩ <;> rfl

/-- `modLink` changes `links` alone. -/
@[simp] theorem modLink_frame (i : Nat) (f : Link → Link) :
    (modLink s i f).links = tput Link.reset s.links i (f (tget Link.reset s.links i)) ∧
    (modLink s i f).pending = s.pending ∧ (modLink s i f).dev = s.dev ∧ (modLink s i f).sched = s.sched ∧
    (modLink s i f).out = s.out ∧ (modLink s i f).free = s.free ∧ (modLink s i f).ns = s.ns ∧
    (modLink s i f).mem = s.mem ∧ (modLink s i f).hostMem = s.hostMem ∧ (modLink s i f).tb = s.tb ∧
    (modLink s i f).clk = s.clk ∧ (modLink s i f).regs = s.regs ∧ (modLink s i f).place = s.place ∧
    (modLink s i f).caps = s.caps ∧ (modLink s i f).start = s.start ∧ (modLink s i f).sec = s.sec ∧
    (modLink s i f).ctxs = s.ctxs ∧ (modLink s i f).doors = s.doors ∧ (modLink s i f).paths = s.paths ∧
    (modLink s i f).cores = s.cores ∧ (modLink s i f).ports = s.ports ∧ (modLink s i f).evicts = s.evicts ∧
    (modLink s i f).flights = s.flights ∧ (modLink s i f).run = s.run ∧ (modLink s i f).rcpt = s.rcpt ∧
    (modLink s i f).cons = s.cons ∧ (modLink s i f).slots = s.slots ∧ (modLink s i f).queues = s.queues ∧
    (modLink s i f).stages = s.stages ∧ (modLink s i f).stats = s.stats ∧ (modLink s i f).layers = s.layers ∧
    (modLink s i f).upd = s.upd ∧ (modLink s i f).commit = s.commit ∧ (modLink s i f).ckpt = s.ckpt ∧
    (modLink s i f).offices = s.offices ∧ (modLink s i f).linkCtr = s.linkCtr ∧ (modLink s i f).e2e = s.e2e ∧
    (modLink s i f).hdi = s.hdi ∧ (modLink s i f).bundles = s.bundles ∧ (modLink s i f).sites = s.sites ∧
    (modLink s i f).hubs = s.hubs ∧ (modLink s i f).pwr = s.pwr ∧ (modLink s i f).pins = s.pins ∧
    (modLink s i f).sh = s.sh := by
  refine ⟨?_, ?_, ?_, ?_, ?_, ?_, ?_, ?_, ?_, ?_, ?_, ?_, ?_, ?_, ?_, ?_, ?_, ?_, ?_, ?_, ?_, ?_, ?_, ?_, ?_, ?_, ?_, ?_, ?_, ?_, ?_, ?_, ?_, ?_, ?_, ?_, ?_, ?_, ?_, ?_, ?_, ?_, ?_, ?_⟩ <;> rfl

/-- `modLinkCtr` changes `linkCtr` alone. -/
@[simp] theorem modLinkCtr_frame (i : Nat) (f : LinkCtr → LinkCtr) :
    (modLinkCtr s i f).linkCtr = tput LinkCtr.reset s.linkCtr i (f (tget LinkCtr.reset s.linkCtr i)) ∧
    (modLinkCtr s i f).pending = s.pending ∧ (modLinkCtr s i f).dev = s.dev ∧ (modLinkCtr s i f).sched = s.sched ∧
    (modLinkCtr s i f).out = s.out ∧ (modLinkCtr s i f).free = s.free ∧ (modLinkCtr s i f).ns = s.ns ∧
    (modLinkCtr s i f).mem = s.mem ∧ (modLinkCtr s i f).hostMem = s.hostMem ∧ (modLinkCtr s i f).tb = s.tb ∧
    (modLinkCtr s i f).clk = s.clk ∧ (modLinkCtr s i f).regs = s.regs ∧ (modLinkCtr s i f).place = s.place ∧
    (modLinkCtr s i f).caps = s.caps ∧ (modLinkCtr s i f).start = s.start ∧ (modLinkCtr s i f).sec = s.sec ∧
    (modLinkCtr s i f).ctxs = s.ctxs ∧ (modLinkCtr s i f).doors = s.doors ∧ (modLinkCtr s i f).paths = s.paths ∧
    (modLinkCtr s i f).cores = s.cores ∧ (modLinkCtr s i f).ports = s.ports ∧ (modLinkCtr s i f).evicts = s.evicts ∧
    (modLinkCtr s i f).flights = s.flights ∧ (modLinkCtr s i f).run = s.run ∧ (modLinkCtr s i f).rcpt = s.rcpt ∧
    (modLinkCtr s i f).cons = s.cons ∧ (modLinkCtr s i f).slots = s.slots ∧ (modLinkCtr s i f).queues = s.queues ∧
    (modLinkCtr s i f).stages = s.stages ∧ (modLinkCtr s i f).stats = s.stats ∧ (modLinkCtr s i f).layers = s.layers ∧
    (modLinkCtr s i f).upd = s.upd ∧ (modLinkCtr s i f).commit = s.commit ∧ (modLinkCtr s i f).ckpt = s.ckpt ∧
    (modLinkCtr s i f).offices = s.offices ∧ (modLinkCtr s i f).links = s.links ∧ (modLinkCtr s i f).e2e = s.e2e ∧
    (modLinkCtr s i f).hdi = s.hdi ∧ (modLinkCtr s i f).bundles = s.bundles ∧ (modLinkCtr s i f).sites = s.sites ∧
    (modLinkCtr s i f).hubs = s.hubs ∧ (modLinkCtr s i f).pwr = s.pwr ∧ (modLinkCtr s i f).pins = s.pins ∧
    (modLinkCtr s i f).sh = s.sh := by
  refine ⟨?_, ?_, ?_, ?_, ?_, ?_, ?_, ?_, ?_, ?_, ?_, ?_, ?_, ?_, ?_, ?_, ?_, ?_, ?_, ?_, ?_, ?_, ?_, ?_, ?_, ?_, ?_, ?_, ?_, ?_, ?_, ?_, ?_, ?_, ?_, ?_, ?_, ?_, ?_, ?_, ?_, ?_, ?_, ?_⟩ <;> rfl

/-- `modE2e` changes `e2e` alone. -/
@[simp] theorem modE2e_frame (i : Nat) (f : E2e → E2e) :
    (modE2e s i f).e2e = tput E2e.reset s.e2e i (f (tget E2e.reset s.e2e i)) ∧ (modE2e s i f).pending = s.pending ∧
    (modE2e s i f).dev = s.dev ∧ (modE2e s i f).sched = s.sched ∧ (modE2e s i f).out = s.out ∧
    (modE2e s i f).free = s.free ∧ (modE2e s i f).ns = s.ns ∧ (modE2e s i f).mem = s.mem ∧
    (modE2e s i f).hostMem = s.hostMem ∧ (modE2e s i f).tb = s.tb ∧ (modE2e s i f).clk = s.clk ∧
    (modE2e s i f).regs = s.regs ∧ (modE2e s i f).place = s.place ∧ (modE2e s i f).caps = s.caps ∧
    (modE2e s i f).start = s.start ∧ (modE2e s i f).sec = s.sec ∧ (modE2e s i f).ctxs = s.ctxs ∧
    (modE2e s i f).doors = s.doors ∧ (modE2e s i f).paths = s.paths ∧ (modE2e s i f).cores = s.cores ∧
    (modE2e s i f).ports = s.ports ∧ (modE2e s i f).evicts = s.evicts ∧ (modE2e s i f).flights = s.flights ∧
    (modE2e s i f).run = s.run ∧ (modE2e s i f).rcpt = s.rcpt ∧ (modE2e s i f).cons = s.cons ∧
    (modE2e s i f).slots = s.slots ∧ (modE2e s i f).queues = s.queues ∧ (modE2e s i f).stages = s.stages ∧
    (modE2e s i f).stats = s.stats ∧ (modE2e s i f).layers = s.layers ∧ (modE2e s i f).upd = s.upd ∧
    (modE2e s i f).commit = s.commit ∧ (modE2e s i f).ckpt = s.ckpt ∧ (modE2e s i f).offices = s.offices ∧
    (modE2e s i f).links = s.links ∧ (modE2e s i f).linkCtr = s.linkCtr ∧ (modE2e s i f).hdi = s.hdi ∧
    (modE2e s i f).bundles = s.bundles ∧ (modE2e s i f).sites = s.sites ∧ (modE2e s i f).hubs = s.hubs ∧
    (modE2e s i f).pwr = s.pwr ∧ (modE2e s i f).pins = s.pins ∧ (modE2e s i f).sh = s.sh := by
  refine ⟨?_, ?_, ?_, ?_, ?_, ?_, ?_, ?_, ?_, ?_, ?_, ?_, ?_, ?_, ?_, ?_, ?_, ?_, ?_, ?_, ?_, ?_, ?_, ?_, ?_, ?_, ?_, ?_, ?_, ?_, ?_, ?_, ?_, ?_, ?_, ?_, ?_, ?_, ?_, ?_, ?_, ?_, ?_, ?_⟩ <;> rfl

/-- `modHdi` changes `hdi` alone. -/
@[simp] theorem modHdi_frame (i : Nat) (f : HdiPort → HdiPort) :
    (modHdi s i f).hdi = tput HdiPort.reset s.hdi i (f (tget HdiPort.reset s.hdi i)) ∧
    (modHdi s i f).pending = s.pending ∧ (modHdi s i f).dev = s.dev ∧ (modHdi s i f).sched = s.sched ∧
    (modHdi s i f).out = s.out ∧ (modHdi s i f).free = s.free ∧ (modHdi s i f).ns = s.ns ∧ (modHdi s i f).mem = s.mem ∧
    (modHdi s i f).hostMem = s.hostMem ∧ (modHdi s i f).tb = s.tb ∧ (modHdi s i f).clk = s.clk ∧
    (modHdi s i f).regs = s.regs ∧ (modHdi s i f).place = s.place ∧ (modHdi s i f).caps = s.caps ∧
    (modHdi s i f).start = s.start ∧ (modHdi s i f).sec = s.sec ∧ (modHdi s i f).ctxs = s.ctxs ∧
    (modHdi s i f).doors = s.doors ∧ (modHdi s i f).paths = s.paths ∧ (modHdi s i f).cores = s.cores ∧
    (modHdi s i f).ports = s.ports ∧ (modHdi s i f).evicts = s.evicts ∧ (modHdi s i f).flights = s.flights ∧
    (modHdi s i f).run = s.run ∧ (modHdi s i f).rcpt = s.rcpt ∧ (modHdi s i f).cons = s.cons ∧
    (modHdi s i f).slots = s.slots ∧ (modHdi s i f).queues = s.queues ∧ (modHdi s i f).stages = s.stages ∧
    (modHdi s i f).stats = s.stats ∧ (modHdi s i f).layers = s.layers ∧ (modHdi s i f).upd = s.upd ∧
    (modHdi s i f).commit = s.commit ∧ (modHdi s i f).ckpt = s.ckpt ∧ (modHdi s i f).offices = s.offices ∧
    (modHdi s i f).links = s.links ∧ (modHdi s i f).linkCtr = s.linkCtr ∧ (modHdi s i f).e2e = s.e2e ∧
    (modHdi s i f).bundles = s.bundles ∧ (modHdi s i f).sites = s.sites ∧ (modHdi s i f).hubs = s.hubs ∧
    (modHdi s i f).pwr = s.pwr ∧ (modHdi s i f).pins = s.pins ∧ (modHdi s i f).sh = s.sh := by
  refine ⟨?_, ?_, ?_, ?_, ?_, ?_, ?_, ?_, ?_, ?_, ?_, ?_, ?_, ?_, ?_, ?_, ?_, ?_, ?_, ?_, ?_, ?_, ?_, ?_, ?_, ?_, ?_, ?_, ?_, ?_, ?_, ?_, ?_, ?_, ?_, ?_, ?_, ?_, ?_, ?_, ?_, ?_, ?_, ?_⟩ <;> rfl

/-- `modFlow` changes `bundles` alone. -/
@[simp] theorem modFlow_frame (b : Nat) (up : Bool) (f : HdiFlow → HdiFlow) :
    (modFlow s b up f).bundles = tput HdiFlow.reset s.bundles (2 * b + b2n up) (f (tget HdiFlow.reset s.bundles (2 * b + b2n up)))
    ∧ (modFlow s b up f).pending = s.pending ∧ (modFlow s b up f).dev = s.dev ∧ (modFlow s b up f).sched = s.sched ∧
    (modFlow s b up f).out = s.out ∧ (modFlow s b up f).free = s.free ∧ (modFlow s b up f).ns = s.ns ∧
    (modFlow s b up f).mem = s.mem ∧ (modFlow s b up f).hostMem = s.hostMem ∧ (modFlow s b up f).tb = s.tb ∧
    (modFlow s b up f).clk = s.clk ∧ (modFlow s b up f).regs = s.regs ∧ (modFlow s b up f).place = s.place ∧
    (modFlow s b up f).caps = s.caps ∧ (modFlow s b up f).start = s.start ∧ (modFlow s b up f).sec = s.sec ∧
    (modFlow s b up f).ctxs = s.ctxs ∧ (modFlow s b up f).doors = s.doors ∧ (modFlow s b up f).paths = s.paths ∧
    (modFlow s b up f).cores = s.cores ∧ (modFlow s b up f).ports = s.ports ∧ (modFlow s b up f).evicts = s.evicts ∧
    (modFlow s b up f).flights = s.flights ∧ (modFlow s b up f).run = s.run ∧ (modFlow s b up f).rcpt = s.rcpt ∧
    (modFlow s b up f).cons = s.cons ∧ (modFlow s b up f).slots = s.slots ∧ (modFlow s b up f).queues = s.queues ∧
    (modFlow s b up f).stages = s.stages ∧ (modFlow s b up f).stats = s.stats ∧ (modFlow s b up f).layers = s.layers ∧
    (modFlow s b up f).upd = s.upd ∧ (modFlow s b up f).commit = s.commit ∧ (modFlow s b up f).ckpt = s.ckpt ∧
    (modFlow s b up f).offices = s.offices ∧ (modFlow s b up f).links = s.links ∧ (modFlow s b up f).linkCtr = s.linkCtr
    ∧ (modFlow s b up f).e2e = s.e2e ∧ (modFlow s b up f).hdi = s.hdi ∧ (modFlow s b up f).sites = s.sites ∧
    (modFlow s b up f).hubs = s.hubs ∧ (modFlow s b up f).pwr = s.pwr ∧ (modFlow s b up f).pins = s.pins ∧
    (modFlow s b up f).sh = s.sh := by
  refine ⟨?_, ?_, ?_, ?_, ?_, ?_, ?_, ?_, ?_, ?_, ?_, ?_, ?_, ?_, ?_, ?_, ?_, ?_, ?_, ?_, ?_, ?_, ?_, ?_, ?_, ?_, ?_, ?_, ?_, ?_, ?_, ?_, ?_, ?_, ?_, ?_, ?_, ?_, ?_, ?_, ?_, ?_, ?_, ?_⟩ <;> rfl

/-- `modSite` changes `sites` alone. -/
@[simp] theorem modSite_frame (i : Nat) (f : Site → Site) :
    (modSite s i f).sites = tput Site.reset s.sites i (f (tget Site.reset s.sites i)) ∧
    (modSite s i f).pending = s.pending ∧ (modSite s i f).dev = s.dev ∧ (modSite s i f).sched = s.sched ∧
    (modSite s i f).out = s.out ∧ (modSite s i f).free = s.free ∧ (modSite s i f).ns = s.ns ∧
    (modSite s i f).mem = s.mem ∧ (modSite s i f).hostMem = s.hostMem ∧ (modSite s i f).tb = s.tb ∧
    (modSite s i f).clk = s.clk ∧ (modSite s i f).regs = s.regs ∧ (modSite s i f).place = s.place ∧
    (modSite s i f).caps = s.caps ∧ (modSite s i f).start = s.start ∧ (modSite s i f).sec = s.sec ∧
    (modSite s i f).ctxs = s.ctxs ∧ (modSite s i f).doors = s.doors ∧ (modSite s i f).paths = s.paths ∧
    (modSite s i f).cores = s.cores ∧ (modSite s i f).ports = s.ports ∧ (modSite s i f).evicts = s.evicts ∧
    (modSite s i f).flights = s.flights ∧ (modSite s i f).run = s.run ∧ (modSite s i f).rcpt = s.rcpt ∧
    (modSite s i f).cons = s.cons ∧ (modSite s i f).slots = s.slots ∧ (modSite s i f).queues = s.queues ∧
    (modSite s i f).stages = s.stages ∧ (modSite s i f).stats = s.stats ∧ (modSite s i f).layers = s.layers ∧
    (modSite s i f).upd = s.upd ∧ (modSite s i f).commit = s.commit ∧ (modSite s i f).ckpt = s.ckpt ∧
    (modSite s i f).offices = s.offices ∧ (modSite s i f).links = s.links ∧ (modSite s i f).linkCtr = s.linkCtr ∧
    (modSite s i f).e2e = s.e2e ∧ (modSite s i f).hdi = s.hdi ∧ (modSite s i f).bundles = s.bundles ∧
    (modSite s i f).hubs = s.hubs ∧ (modSite s i f).pwr = s.pwr ∧ (modSite s i f).pins = s.pins ∧
    (modSite s i f).sh = s.sh := by
  refine ⟨?_, ?_, ?_, ?_, ?_, ?_, ?_, ?_, ?_, ?_, ?_, ?_, ?_, ?_, ?_, ?_, ?_, ?_, ?_, ?_, ?_, ?_, ?_, ?_, ?_, ?_, ?_, ?_, ?_, ?_, ?_, ?_, ?_, ?_, ?_, ?_, ?_, ?_, ?_, ?_, ?_, ?_, ?_, ?_⟩ <;> rfl

/-- `modHub` changes `hubs` alone. -/
@[simp] theorem modHub_frame (i : Nat) (f : HubMem → HubMem) :
    (modHub s i f).hubs = tput HubMem.reset s.hubs i (f (tget HubMem.reset s.hubs i)) ∧
    (modHub s i f).pending = s.pending ∧ (modHub s i f).dev = s.dev ∧ (modHub s i f).sched = s.sched ∧
    (modHub s i f).out = s.out ∧ (modHub s i f).free = s.free ∧ (modHub s i f).ns = s.ns ∧ (modHub s i f).mem = s.mem ∧
    (modHub s i f).hostMem = s.hostMem ∧ (modHub s i f).tb = s.tb ∧ (modHub s i f).clk = s.clk ∧
    (modHub s i f).regs = s.regs ∧ (modHub s i f).place = s.place ∧ (modHub s i f).caps = s.caps ∧
    (modHub s i f).start = s.start ∧ (modHub s i f).sec = s.sec ∧ (modHub s i f).ctxs = s.ctxs ∧
    (modHub s i f).doors = s.doors ∧ (modHub s i f).paths = s.paths ∧ (modHub s i f).cores = s.cores ∧
    (modHub s i f).ports = s.ports ∧ (modHub s i f).evicts = s.evicts ∧ (modHub s i f).flights = s.flights ∧
    (modHub s i f).run = s.run ∧ (modHub s i f).rcpt = s.rcpt ∧ (modHub s i f).cons = s.cons ∧
    (modHub s i f).slots = s.slots ∧ (modHub s i f).queues = s.queues ∧ (modHub s i f).stages = s.stages ∧
    (modHub s i f).stats = s.stats ∧ (modHub s i f).layers = s.layers ∧ (modHub s i f).upd = s.upd ∧
    (modHub s i f).commit = s.commit ∧ (modHub s i f).ckpt = s.ckpt ∧ (modHub s i f).offices = s.offices ∧
    (modHub s i f).links = s.links ∧ (modHub s i f).linkCtr = s.linkCtr ∧ (modHub s i f).e2e = s.e2e ∧
    (modHub s i f).hdi = s.hdi ∧ (modHub s i f).bundles = s.bundles ∧ (modHub s i f).sites = s.sites ∧
    (modHub s i f).pwr = s.pwr ∧ (modHub s i f).pins = s.pins ∧ (modHub s i f).sh = s.sh := by
  refine ⟨?_, ?_, ?_, ?_, ?_, ?_, ?_, ?_, ?_, ?_, ?_, ?_, ?_, ?_, ?_, ?_, ?_, ?_, ?_, ?_, ?_, ?_, ?_, ?_, ?_, ?_, ?_, ?_, ?_, ?_, ?_, ?_, ?_, ?_, ?_, ?_, ?_, ?_, ?_, ?_, ?_, ?_, ?_, ?_⟩ <;> rfl

/-- `modPort` changes `ports` alone. -/
@[simp] theorem modPort_frame (c : CoreId) (f : Port → Port) :
    (modPort s c f).ports = tput Port.reset s.ports c.toNat (f (tget Port.reset s.ports c.toNat)) ∧
    (modPort s c f).pending = s.pending ∧ (modPort s c f).dev = s.dev ∧ (modPort s c f).sched = s.sched ∧
    (modPort s c f).out = s.out ∧ (modPort s c f).free = s.free ∧ (modPort s c f).ns = s.ns ∧
    (modPort s c f).mem = s.mem ∧ (modPort s c f).hostMem = s.hostMem ∧ (modPort s c f).tb = s.tb ∧
    (modPort s c f).clk = s.clk ∧ (modPort s c f).regs = s.regs ∧ (modPort s c f).place = s.place ∧
    (modPort s c f).caps = s.caps ∧ (modPort s c f).start = s.start ∧ (modPort s c f).sec = s.sec ∧
    (modPort s c f).ctxs = s.ctxs ∧ (modPort s c f).doors = s.doors ∧ (modPort s c f).paths = s.paths ∧
    (modPort s c f).cores = s.cores ∧ (modPort s c f).evicts = s.evicts ∧ (modPort s c f).flights = s.flights ∧
    (modPort s c f).run = s.run ∧ (modPort s c f).rcpt = s.rcpt ∧ (modPort s c f).cons = s.cons ∧
    (modPort s c f).slots = s.slots ∧ (modPort s c f).queues = s.queues ∧ (modPort s c f).stages = s.stages ∧
    (modPort s c f).stats = s.stats ∧ (modPort s c f).layers = s.layers ∧ (modPort s c f).upd = s.upd ∧
    (modPort s c f).commit = s.commit ∧ (modPort s c f).ckpt = s.ckpt ∧ (modPort s c f).offices = s.offices ∧
    (modPort s c f).links = s.links ∧ (modPort s c f).linkCtr = s.linkCtr ∧ (modPort s c f).e2e = s.e2e ∧
    (modPort s c f).hdi = s.hdi ∧ (modPort s c f).bundles = s.bundles ∧ (modPort s c f).sites = s.sites ∧
    (modPort s c f).hubs = s.hubs ∧ (modPort s c f).pwr = s.pwr ∧ (modPort s c f).pins = s.pins ∧
    (modPort s c f).sh = s.sh := by
  refine ⟨?_, ?_, ?_, ?_, ?_, ?_, ?_, ?_, ?_, ?_, ?_, ?_, ?_, ?_, ?_, ?_, ?_, ?_, ?_, ?_, ?_, ?_, ?_, ?_, ?_, ?_, ?_, ?_, ?_, ?_, ?_, ?_, ?_, ?_, ?_, ?_, ?_, ?_, ?_, ?_, ?_, ?_, ?_, ?_⟩ <;> rfl

/-- `modRel` changes `run` alone. -/
@[simp] theorem modRel_frame (u : Nat) (f : Rel → Rel) :
    (modRel s u f).pending = s.pending ∧ (modRel s u f).dev = s.dev ∧ (modRel s u f).sched = s.sched ∧
    (modRel s u f).out = s.out ∧ (modRel s u f).free = s.free ∧ (modRel s u f).ns = s.ns ∧ (modRel s u f).mem = s.mem ∧
    (modRel s u f).hostMem = s.hostMem ∧ (modRel s u f).tb = s.tb ∧ (modRel s u f).clk = s.clk ∧
    (modRel s u f).regs = s.regs ∧ (modRel s u f).place = s.place ∧ (modRel s u f).caps = s.caps ∧
    (modRel s u f).start = s.start ∧ (modRel s u f).sec = s.sec ∧ (modRel s u f).ctxs = s.ctxs ∧
    (modRel s u f).doors = s.doors ∧ (modRel s u f).paths = s.paths ∧ (modRel s u f).cores = s.cores ∧
    (modRel s u f).ports = s.ports ∧ (modRel s u f).evicts = s.evicts ∧ (modRel s u f).flights = s.flights ∧
    (modRel s u f).rcpt = s.rcpt ∧ (modRel s u f).cons = s.cons ∧ (modRel s u f).slots = s.slots ∧
    (modRel s u f).queues = s.queues ∧ (modRel s u f).stages = s.stages ∧ (modRel s u f).stats = s.stats ∧
    (modRel s u f).layers = s.layers ∧ (modRel s u f).upd = s.upd ∧ (modRel s u f).commit = s.commit ∧
    (modRel s u f).ckpt = s.ckpt ∧ (modRel s u f).offices = s.offices ∧ (modRel s u f).links = s.links ∧
    (modRel s u f).linkCtr = s.linkCtr ∧ (modRel s u f).e2e = s.e2e ∧ (modRel s u f).hdi = s.hdi ∧
    (modRel s u f).bundles = s.bundles ∧ (modRel s u f).sites = s.sites ∧ (modRel s u f).hubs = s.hubs ∧
    (modRel s u f).pwr = s.pwr ∧ (modRel s u f).pins = s.pins ∧ (modRel s u f).sh = s.sh := by
  refine ⟨?_, ?_, ?_, ?_, ?_, ?_, ?_, ?_, ?_, ?_, ?_, ?_, ?_, ?_, ?_, ?_, ?_, ?_, ?_, ?_, ?_, ?_, ?_, ?_, ?_, ?_, ?_, ?_, ?_, ?_, ?_, ?_, ?_, ?_, ?_, ?_, ?_, ?_, ?_, ?_, ?_, ?_, ?_⟩ <;> rfl

/-- `setCore` changes `cores` alone. -/
@[simp] theorem setCore_frame (c : CoreId) (k : Core) :
    (setCore s c k).cores = tput Core.reset s.cores c.toNat k ∧ (setCore s c k).pending = s.pending ∧
    (setCore s c k).dev = s.dev ∧ (setCore s c k).sched = s.sched ∧ (setCore s c k).out = s.out ∧
    (setCore s c k).free = s.free ∧ (setCore s c k).ns = s.ns ∧ (setCore s c k).mem = s.mem ∧
    (setCore s c k).hostMem = s.hostMem ∧ (setCore s c k).tb = s.tb ∧ (setCore s c k).clk = s.clk ∧
    (setCore s c k).regs = s.regs ∧ (setCore s c k).place = s.place ∧ (setCore s c k).caps = s.caps ∧
    (setCore s c k).start = s.start ∧ (setCore s c k).sec = s.sec ∧ (setCore s c k).ctxs = s.ctxs ∧
    (setCore s c k).doors = s.doors ∧ (setCore s c k).paths = s.paths ∧ (setCore s c k).ports = s.ports ∧
    (setCore s c k).evicts = s.evicts ∧ (setCore s c k).flights = s.flights ∧ (setCore s c k).run = s.run ∧
    (setCore s c k).rcpt = s.rcpt ∧ (setCore s c k).cons = s.cons ∧ (setCore s c k).slots = s.slots ∧
    (setCore s c k).queues = s.queues ∧ (setCore s c k).stages = s.stages ∧ (setCore s c k).stats = s.stats ∧
    (setCore s c k).layers = s.layers ∧ (setCore s c k).upd = s.upd ∧ (setCore s c k).commit = s.commit ∧
    (setCore s c k).ckpt = s.ckpt ∧ (setCore s c k).offices = s.offices ∧ (setCore s c k).links = s.links ∧
    (setCore s c k).linkCtr = s.linkCtr ∧ (setCore s c k).e2e = s.e2e ∧ (setCore s c k).hdi = s.hdi ∧
    (setCore s c k).bundles = s.bundles ∧ (setCore s c k).sites = s.sites ∧ (setCore s c k).hubs = s.hubs ∧
    (setCore s c k).pwr = s.pwr ∧ (setCore s c k).pins = s.pins ∧ (setCore s c k).sh = s.sh := by
  refine ⟨?_, ?_, ?_, ?_, ?_, ?_, ?_, ?_, ?_, ?_, ?_, ?_, ?_, ?_, ?_, ?_, ?_, ?_, ?_, ?_, ?_, ?_, ?_, ?_, ?_, ?_, ?_, ?_, ?_, ?_, ?_, ?_, ?_, ?_, ?_, ?_, ?_, ?_, ?_, ?_, ?_, ?_, ?_, ?_⟩ <;> rfl

/-- `modCore` changes `cores` alone. -/
@[simp] theorem modCore_frame (c : CoreId) (f : Core → Core) :
    (modCore s c f).cores = tput Core.reset s.cores c.toNat (f (coreOf s c)) ∧ (modCore s c f).pending = s.pending ∧
    (modCore s c f).dev = s.dev ∧ (modCore s c f).sched = s.sched ∧ (modCore s c f).out = s.out ∧
    (modCore s c f).free = s.free ∧ (modCore s c f).ns = s.ns ∧ (modCore s c f).mem = s.mem ∧
    (modCore s c f).hostMem = s.hostMem ∧ (modCore s c f).tb = s.tb ∧ (modCore s c f).clk = s.clk ∧
    (modCore s c f).regs = s.regs ∧ (modCore s c f).place = s.place ∧ (modCore s c f).caps = s.caps ∧
    (modCore s c f).start = s.start ∧ (modCore s c f).sec = s.sec ∧ (modCore s c f).ctxs = s.ctxs ∧
    (modCore s c f).doors = s.doors ∧ (modCore s c f).paths = s.paths ∧ (modCore s c f).ports = s.ports ∧
    (modCore s c f).evicts = s.evicts ∧ (modCore s c f).flights = s.flights ∧ (modCore s c f).run = s.run ∧
    (modCore s c f).rcpt = s.rcpt ∧ (modCore s c f).cons = s.cons ∧ (modCore s c f).slots = s.slots ∧
    (modCore s c f).queues = s.queues ∧ (modCore s c f).stages = s.stages ∧ (modCore s c f).stats = s.stats ∧
    (modCore s c f).layers = s.layers ∧ (modCore s c f).upd = s.upd ∧ (modCore s c f).commit = s.commit ∧
    (modCore s c f).ckpt = s.ckpt ∧ (modCore s c f).offices = s.offices ∧ (modCore s c f).links = s.links ∧
    (modCore s c f).linkCtr = s.linkCtr ∧ (modCore s c f).e2e = s.e2e ∧ (modCore s c f).hdi = s.hdi ∧
    (modCore s c f).bundles = s.bundles ∧ (modCore s c f).sites = s.sites ∧ (modCore s c f).hubs = s.hubs ∧
    (modCore s c f).pwr = s.pwr ∧ (modCore s c f).pins = s.pins ∧ (modCore s c f).sh = s.sh := by
  refine ⟨?_, ?_, ?_, ?_, ?_, ?_, ?_, ?_, ?_, ?_, ?_, ?_, ?_, ?_, ?_, ?_, ?_, ?_, ?_, ?_, ?_, ?_, ?_, ?_, ?_, ?_, ?_, ?_, ?_, ?_, ?_, ?_, ?_, ?_, ?_, ?_, ?_, ?_, ?_, ?_, ?_, ?_, ?_, ?_⟩ <;> rfl

/-- `send` changes `out` alone. -/
@[simp] theorem send_frame (o : Out) :
    (send s o).out = s.out ++ [o] ∧ (send s o).pending = s.pending ∧ (send s o).dev = s.dev ∧ (send s o).sched = s.sched
    ∧ (send s o).free = s.free ∧ (send s o).ns = s.ns ∧ (send s o).mem = s.mem ∧ (send s o).hostMem = s.hostMem ∧
    (send s o).tb = s.tb ∧ (send s o).clk = s.clk ∧ (send s o).regs = s.regs ∧ (send s o).place = s.place ∧
    (send s o).caps = s.caps ∧ (send s o).start = s.start ∧ (send s o).sec = s.sec ∧ (send s o).ctxs = s.ctxs ∧
    (send s o).doors = s.doors ∧ (send s o).paths = s.paths ∧ (send s o).cores = s.cores ∧ (send s o).ports = s.ports ∧
    (send s o).evicts = s.evicts ∧ (send s o).flights = s.flights ∧ (send s o).run = s.run ∧ (send s o).rcpt = s.rcpt ∧
    (send s o).cons = s.cons ∧ (send s o).slots = s.slots ∧ (send s o).queues = s.queues ∧ (send s o).stages = s.stages
    ∧ (send s o).stats = s.stats ∧ (send s o).layers = s.layers ∧ (send s o).upd = s.upd ∧ (send s o).commit = s.commit
    ∧ (send s o).ckpt = s.ckpt ∧ (send s o).offices = s.offices ∧ (send s o).links = s.links ∧
    (send s o).linkCtr = s.linkCtr ∧ (send s o).e2e = s.e2e ∧ (send s o).hdi = s.hdi ∧ (send s o).bundles = s.bundles ∧
    (send s o).sites = s.sites ∧ (send s o).hubs = s.hubs ∧ (send s o).pwr = s.pwr ∧ (send s o).pins = s.pins ∧
    (send s o).sh = s.sh := by
  refine ⟨?_, ?_, ?_, ?_, ?_, ?_, ?_, ?_, ?_, ?_, ?_, ?_, ?_, ?_, ?_, ?_, ?_, ?_, ?_, ?_, ?_, ?_, ?_, ?_, ?_, ?_, ?_, ?_, ?_, ?_, ?_, ?_, ?_, ?_, ?_, ?_, ?_, ?_, ?_, ?_, ?_, ?_, ?_, ?_⟩ <;> rfl

/-- `wrMem` changes `mem` alone. -/
@[simp] theorem wrMem_frame (a : Nat) (l : List Byte) :
    (wrMem s a l).mem = clearPoison (memWrite s.mem a l) a l.length ∧ (wrMem s a l).pending = s.pending ∧
    (wrMem s a l).dev = s.dev ∧ (wrMem s a l).sched = s.sched ∧ (wrMem s a l).out = s.out ∧ (wrMem s a l).free = s.free
    ∧ (wrMem s a l).ns = s.ns ∧ (wrMem s a l).hostMem = s.hostMem ∧ (wrMem s a l).tb = s.tb ∧ (wrMem s a l).clk = s.clk
    ∧ (wrMem s a l).regs = s.regs ∧ (wrMem s a l).place = s.place ∧ (wrMem s a l).caps = s.caps ∧
    (wrMem s a l).start = s.start ∧ (wrMem s a l).sec = s.sec ∧ (wrMem s a l).ctxs = s.ctxs ∧
    (wrMem s a l).doors = s.doors ∧ (wrMem s a l).paths = s.paths ∧ (wrMem s a l).cores = s.cores ∧
    (wrMem s a l).ports = s.ports ∧ (wrMem s a l).evicts = s.evicts ∧ (wrMem s a l).flights = s.flights ∧
    (wrMem s a l).run = s.run ∧ (wrMem s a l).rcpt = s.rcpt ∧ (wrMem s a l).cons = s.cons ∧
    (wrMem s a l).slots = s.slots ∧ (wrMem s a l).queues = s.queues ∧ (wrMem s a l).stages = s.stages ∧
    (wrMem s a l).stats = s.stats ∧ (wrMem s a l).layers = s.layers ∧ (wrMem s a l).upd = s.upd ∧
    (wrMem s a l).commit = s.commit ∧ (wrMem s a l).ckpt = s.ckpt ∧ (wrMem s a l).offices = s.offices ∧
    (wrMem s a l).links = s.links ∧ (wrMem s a l).linkCtr = s.linkCtr ∧ (wrMem s a l).e2e = s.e2e ∧
    (wrMem s a l).hdi = s.hdi ∧ (wrMem s a l).bundles = s.bundles ∧ (wrMem s a l).sites = s.sites ∧
    (wrMem s a l).hubs = s.hubs ∧ (wrMem s a l).pwr = s.pwr ∧ (wrMem s a l).pins = s.pins ∧ (wrMem s a l).sh = s.sh := by
  refine ⟨?_, ?_, ?_, ?_, ?_, ?_, ?_, ?_, ?_, ?_, ?_, ?_, ?_, ?_, ?_, ?_, ?_, ?_, ?_, ?_, ?_, ?_, ?_, ?_, ?_, ?_, ?_, ?_, ?_, ?_, ?_, ?_, ?_, ?_, ?_, ?_, ?_, ?_, ?_, ?_, ?_, ?_, ?_, ?_⟩ <;> rfl

/-- `wrHost` changes `hostMem` alone. -/
@[simp] theorem wrHost_frame (a : Nat) (l : List Byte) :
    (wrHost s a l).hostMem = memWrite s.hostMem a l ∧ (wrHost s a l).pending = s.pending ∧ (wrHost s a l).dev = s.dev ∧
    (wrHost s a l).sched = s.sched ∧ (wrHost s a l).out = s.out ∧ (wrHost s a l).free = s.free ∧
    (wrHost s a l).ns = s.ns ∧ (wrHost s a l).mem = s.mem ∧ (wrHost s a l).tb = s.tb ∧ (wrHost s a l).clk = s.clk ∧
    (wrHost s a l).regs = s.regs ∧ (wrHost s a l).place = s.place ∧ (wrHost s a l).caps = s.caps ∧
    (wrHost s a l).start = s.start ∧ (wrHost s a l).sec = s.sec ∧ (wrHost s a l).ctxs = s.ctxs ∧
    (wrHost s a l).doors = s.doors ∧ (wrHost s a l).paths = s.paths ∧ (wrHost s a l).cores = s.cores ∧
    (wrHost s a l).ports = s.ports ∧ (wrHost s a l).evicts = s.evicts ∧ (wrHost s a l).flights = s.flights ∧
    (wrHost s a l).run = s.run ∧ (wrHost s a l).rcpt = s.rcpt ∧ (wrHost s a l).cons = s.cons ∧
    (wrHost s a l).slots = s.slots ∧ (wrHost s a l).queues = s.queues ∧ (wrHost s a l).stages = s.stages ∧
    (wrHost s a l).stats = s.stats ∧ (wrHost s a l).layers = s.layers ∧ (wrHost s a l).upd = s.upd ∧
    (wrHost s a l).commit = s.commit ∧ (wrHost s a l).ckpt = s.ckpt ∧ (wrHost s a l).offices = s.offices ∧
    (wrHost s a l).links = s.links ∧ (wrHost s a l).linkCtr = s.linkCtr ∧ (wrHost s a l).e2e = s.e2e ∧
    (wrHost s a l).hdi = s.hdi ∧ (wrHost s a l).bundles = s.bundles ∧ (wrHost s a l).sites = s.sites ∧
    (wrHost s a l).hubs = s.hubs ∧ (wrHost s a l).pwr = s.pwr ∧ (wrHost s a l).pins = s.pins ∧ (wrHost s a l).sh = s.sh := by
  refine ⟨?_, ?_, ?_, ?_, ?_, ?_, ?_, ?_, ?_, ?_, ?_, ?_, ?_, ?_, ?_, ?_, ?_, ?_, ?_, ?_, ?_, ?_, ?_, ?_, ?_, ?_, ?_, ?_, ?_, ?_, ?_, ?_, ?_, ?_, ?_, ?_, ?_, ?_, ?_, ?_, ?_, ?_, ?_, ?_⟩ <;> rfl

/-- `postRec` changes `paths` alone. -/
@[simp] theorem postRec_frame (r : Rec) :
    (postRec s r).pending = s.pending ∧ (postRec s r).dev = s.dev ∧ (postRec s r).sched = s.sched ∧
    (postRec s r).out = s.out ∧ (postRec s r).free = s.free ∧ (postRec s r).ns = s.ns ∧ (postRec s r).mem = s.mem ∧
    (postRec s r).hostMem = s.hostMem ∧ (postRec s r).tb = s.tb ∧ (postRec s r).clk = s.clk ∧
    (postRec s r).regs = s.regs ∧ (postRec s r).place = s.place ∧ (postRec s r).caps = s.caps ∧
    (postRec s r).start = s.start ∧ (postRec s r).sec = s.sec ∧ (postRec s r).ctxs = s.ctxs ∧
    (postRec s r).doors = s.doors ∧ (postRec s r).cores = s.cores ∧ (postRec s r).ports = s.ports ∧
    (postRec s r).evicts = s.evicts ∧ (postRec s r).flights = s.flights ∧ (postRec s r).run = s.run ∧
    (postRec s r).rcpt = s.rcpt ∧ (postRec s r).cons = s.cons ∧ (postRec s r).slots = s.slots ∧
    (postRec s r).queues = s.queues ∧ (postRec s r).stages = s.stages ∧ (postRec s r).stats = s.stats ∧
    (postRec s r).layers = s.layers ∧ (postRec s r).upd = s.upd ∧ (postRec s r).commit = s.commit ∧
    (postRec s r).ckpt = s.ckpt ∧ (postRec s r).offices = s.offices ∧ (postRec s r).links = s.links ∧
    (postRec s r).linkCtr = s.linkCtr ∧ (postRec s r).e2e = s.e2e ∧ (postRec s r).hdi = s.hdi ∧
    (postRec s r).bundles = s.bundles ∧ (postRec s r).sites = s.sites ∧ (postRec s r).hubs = s.hubs ∧
    (postRec s r).pwr = s.pwr ∧ (postRec s r).pins = s.pins ∧ (postRec s r).sh = s.sh := by
  refine ⟨?_, ?_, ?_, ?_, ?_, ?_, ?_, ?_, ?_, ?_, ?_, ?_, ?_, ?_, ?_, ?_, ?_, ?_, ?_, ?_, ?_, ?_, ?_, ?_, ?_, ?_, ?_, ?_, ?_, ?_, ?_, ?_, ?_, ?_, ?_, ?_, ?_, ?_, ?_, ?_, ?_, ?_, ?_⟩ <;> rfl

/-- `addReceipt` changes `rcpt` alone. -/
@[simp] theorem addReceipt_frame (r : BitVec 14) (inc : BitVec 32) (src : BitVec 32) :
    (addReceipt s r inc src).pending = s.pending ∧ (addReceipt s r inc src).dev = s.dev ∧
    (addReceipt s r inc src).sched = s.sched ∧ (addReceipt s r inc src).out = s.out ∧
    (addReceipt s r inc src).free = s.free ∧ (addReceipt s r inc src).ns = s.ns ∧ (addReceipt s r inc src).mem = s.mem ∧
    (addReceipt s r inc src).hostMem = s.hostMem ∧ (addReceipt s r inc src).tb = s.tb ∧
    (addReceipt s r inc src).clk = s.clk ∧ (addReceipt s r inc src).regs = s.regs ∧
    (addReceipt s r inc src).place = s.place ∧ (addReceipt s r inc src).caps = s.caps ∧
    (addReceipt s r inc src).start = s.start ∧ (addReceipt s r inc src).sec = s.sec ∧
    (addReceipt s r inc src).ctxs = s.ctxs ∧ (addReceipt s r inc src).doors = s.doors ∧
    (addReceipt s r inc src).paths = s.paths ∧ (addReceipt s r inc src).cores = s.cores ∧
    (addReceipt s r inc src).ports = s.ports ∧ (addReceipt s r inc src).evicts = s.evicts ∧
    (addReceipt s r inc src).flights = s.flights ∧ (addReceipt s r inc src).run = s.run ∧
    (addReceipt s r inc src).cons = s.cons ∧ (addReceipt s r inc src).slots = s.slots ∧
    (addReceipt s r inc src).queues = s.queues ∧ (addReceipt s r inc src).stages = s.stages ∧
    (addReceipt s r inc src).stats = s.stats ∧ (addReceipt s r inc src).layers = s.layers ∧
    (addReceipt s r inc src).upd = s.upd ∧ (addReceipt s r inc src).commit = s.commit ∧
    (addReceipt s r inc src).ckpt = s.ckpt ∧ (addReceipt s r inc src).offices = s.offices ∧
    (addReceipt s r inc src).links = s.links ∧ (addReceipt s r inc src).linkCtr = s.linkCtr ∧
    (addReceipt s r inc src).e2e = s.e2e ∧ (addReceipt s r inc src).hdi = s.hdi ∧
    (addReceipt s r inc src).bundles = s.bundles ∧ (addReceipt s r inc src).sites = s.sites ∧
    (addReceipt s r inc src).hubs = s.hubs ∧ (addReceipt s r inc src).pwr = s.pwr ∧
    (addReceipt s r inc src).pins = s.pins ∧ (addReceipt s r inc src).sh = s.sh := by
  refine ⟨?_, ?_, ?_, ?_, ?_, ?_, ?_, ?_, ?_, ?_, ?_, ?_, ?_, ?_, ?_, ?_, ?_, ?_, ?_, ?_, ?_, ?_, ?_, ?_, ?_, ?_, ?_, ?_, ?_, ?_, ?_, ?_, ?_, ?_, ?_, ?_, ?_, ?_, ?_, ?_, ?_, ?_, ?_⟩ <;> rfl

end Sys2Proof.Machine
end

