-- ==== Sys2Proof/Laws/Tables.lean ====
section
/-! SUPPORT. Sparse tables and byte memories: what a write leaves, and that every operation keeps the canonical form. -/

namespace Sys2Proof.Machine

variable {α : Type} [DecidableEq α]

/-- A table that starts above `lo` starts above anything lower. -/
theorem tabWfFrom_weaken {d : α} {lo lo' : Option Nat} {t : Tab α} (h : tabWfFrom d lo t = true)
    (hl : ∀ l', lo' = some l' → ∃ l, lo = some l ∧ l' ≤ l) : tabWfFrom d lo' t = true := by
  cases t with
  | nil => rfl
  | cons kv t =>
    obtain ⟨k, v⟩ := kv
    simp only [tabWfFrom, Bool.and_eq_true, decide_eq_true_eq] at h ⊢
    refine ⟨⟨?_, h.1.2⟩, h.2⟩
    cases lo' with
    | none => trivial
    | some l' =>
      obtain ⟨l, rfl, hle⟩ := hl l' rfl
      simp only [decide_eq_true_eq] at h ⊢
      omega

/-- A key above the bound passes the bound's check. -/
theorem above_bound {lo : Option Nat} {i : Nat} :
    (∀ l, lo = some l → l < i) → (match lo with | none => true | some l => decide (l < i)) = true := by
  cases lo with
  | none => exact fun _ => rfl
  | some l => exact fun hi => by simpa using hi l rfl

/-- Writing a key above the bound keeps the canonical form. -/
theorem tabWfFrom_tput {d : α} {lo : Option Nat} {t : Tab α} {i : Nat} (x : α) (h : tabWfFrom d lo t = true)
    (hi : ∀ l, lo = some l → l < i) : tabWfFrom d lo (tput d t i x) = true := by
  induction t generalizing lo with
  | nil =>
    simp only [tput]
    split
    · rfl
    · next hx => simp only [tabWfFrom, Bool.and_eq_true, decide_eq_true_eq]; exact ⟨⟨above_bound hi, hx⟩, trivial⟩
  | cons kv t ih =>
    obtain ⟨k, v⟩ := kv
    have h' := h
    simp only [tabWfFrom, Bool.and_eq_true, decide_eq_true_eq] at h
    simp only [tput]
    split
    · next hlt =>
      split
      · exact h'
      · next hx =>
        simp only [tabWfFrom, Bool.and_eq_true, decide_eq_true_eq]
        exact ⟨⟨above_bound hi, hx⟩, ⟨⟨hlt, h.1.2⟩, h.2⟩⟩
    · split
      · next hne heq =>
        subst heq
        split
        · refine tabWfFrom_weaken h.2 fun l' hl' => ?_
          exact ⟨i, rfl, Nat.le_of_lt (hi l' hl')⟩
        · next hx =>
          simp only [tabWfFrom, Bool.and_eq_true, decide_eq_true_eq]
          exact ⟨⟨above_bound hi, hx⟩, h.2⟩
      · next hnlt hne =>
        simp only [tabWfFrom, Bool.and_eq_true, decide_eq_true_eq]
        exact ⟨h.1, ih h.2 fun l hl => by cases hl; omega⟩

/-- A write keeps the canonical form. -/
theorem tabWf_tput {d : α} {t : Tab α} (i : Nat) (x : α) (h : tabWf d t = true) : tabWf d (tput d t i x) = true :=
  tabWfFrom_tput x h (fun _ h => by cases h)

/-- Writes of consecutive keys keep the canonical form. -/
theorem tabWf_tputs {d : α} {t : Tab α} (i : Nat) (l : List α) (h : tabWf d t = true) : tabWf d (tputs d t i l) = true := by
  induction l generalizing t i with
  | nil => exact h
  | cons x xs ih => exact ih (i + 1) (tabWf_tput i x h)

/-- Entries taken out leave the canonical form. -/
theorem tabWfFrom_filter {d : α} {lo : Option Nat} {t : Tab α} (p : Nat × α → Bool) (h : tabWfFrom d lo t = true) :
    tabWfFrom d lo (t.filter p) = true := by
  induction t generalizing lo with
  | nil => rfl
  | cons kv t ih =>
    obtain ⟨k, v⟩ := kv
    simp only [tabWfFrom, Bool.and_eq_true, decide_eq_true_eq] at h
    rw [List.filter_cons]
    split
    · simp only [tabWfFrom, Bool.and_eq_true, decide_eq_true_eq]
      exact ⟨h.1, ih h.2⟩
    · refine tabWfFrom_weaken (ih h.2) fun l' hl' => ⟨k, rfl, ?_⟩
      cases hl'
      have := h.1.1
      simp only [decide_eq_true_eq] at this
      omega

/-- Entries taken out leave the canonical form. -/
theorem tabWf_filter {d : α} {t : Tab α} (p : Nat × α → Bool) (h : tabWf d t = true) : tabWf d (t.filter p) = true :=
  tabWfFrom_filter p h

/-- Below the first key nothing is listed. -/
theorem tget_below {d : α} {lo : Nat} {t : Tab α} {i : Nat} (h : tabWfFrom d (some lo) t = true) (hi : i ≤ lo) :
    tget d t i = d := by
  induction t generalizing lo with
  | nil => rfl
  | cons kv t ih =>
    obtain ⟨k, v⟩ := kv
    simp only [tabWfFrom, Bool.and_eq_true, decide_eq_true_eq] at h
    rw [tget, if_neg (by omega)]
    exact ih h.2 (by omega)

/-- A write leaves every other key alone. -/
theorem tget_tput_ne {d : α} (t : Tab α) {i j : Nat} (x : α) (h : j ≠ i) : tget d (tput d t i x) j = tget d t j := by
  induction t with
  | nil =>
    simp only [tput]
    split
    · rfl
    · simp [tget, Ne.symm h]
  | cons kv t ih =>
    obtain ⟨k, v⟩ := kv
    simp only [tput]
    split
    · split
      · rfl
      · rw [tget, if_neg (Ne.symm h)]
    · split
      · next heq =>
        subst heq
        split
        · rw [tget, if_neg (Ne.symm h)]
        · rw [tget, tget, if_neg (Ne.symm h), if_neg (Ne.symm h)]
      · rw [tget, tget, ih]

/-- A read gives what was written. -/
theorem tget_tput_self {d : α} {lo : Option Nat} {t : Tab α} (i : Nat) (x : α) (h : tabWfFrom d lo t = true) :
    tget d (tput d t i x) i = x := by
  induction t generalizing lo with
  | nil =>
    simp only [tput]
    split
    · next hx => exact hx.symm
    · simp [tget]
  | cons kv t ih =>
    obtain ⟨k, v⟩ := kv
    simp only [tabWfFrom, Bool.and_eq_true, decide_eq_true_eq] at h
    simp only [tput]
    split
    · next hlt =>
      split
      · next hx =>
        rw [tget, if_neg (by omega), hx]
        exact tget_below h.2 (by omega)
      · rw [tget, if_pos rfl]
    · split
      · next heq =>
        subst heq
        split
        · next hx => rw [hx]; exact tget_below h.2 (Nat.le_refl i)
        · rw [tget, if_pos rfl]
      · next hne =>
        rw [tget, if_neg (fun e => hne e.symm)]
        exact ih h.2

/-- Reading key `j` of a canonical table after a write of key `i`. -/
theorem tget_tput {d : α} {t : Tab α} (i j : Nat) (x : α) (h : tabWf d t = true) :
    tget d (tput d t i x) j = if j = i then x else tget d t j := by
  split
  · next e => subst e; exact tget_tput_self j x h
  · next e => exact tget_tput_ne t x e

/-- A value that is not the default is read back, whatever the table's form. -/
theorem tget_tput_new {d : α} (t : Tab α) (i : Nat) {x : α} (h : x ≠ d) : tget d (tput d t i x) i = x := by
  induction t with
  | nil => simp [tput, h, tget]
  | cons a t ih =>
    simp only [tput]
    split
    · simp [tget]
    · split
      · simp [tget]
      · next hk hi => simp [tget, Ne.symm hi, ih]

/-- The later of two writes to one key stands. -/
theorem tput_tput {d : α} {lo : Option Nat} {t : Tab α} (i : Nat) (x y : α) (h : tabWfFrom d lo t = true) :
    tput d (tput d t i x) i y = tput d t i y := by
  induction t generalizing lo with
  | nil =>
    by_cases hx : x = d <;> simp [tput, hx]
  | cons a t ih =>
    obtain ⟨k, v⟩ := a
    simp only [tabWfFrom, Bool.and_eq_true] at h
    by_cases h1 : i < k
    · by_cases hx : x = d <;> simp [tput, h1, hx]
    · by_cases h2 : i = k
      · subst h2
        by_cases hx : x = d
        · simp only [tput, hx, lt_irrefl, if_true, if_false]
          cases t with
          | nil => simp [tput]
          | cons b t =>
            obtain ⟨k', v'⟩ := b
            have hk : i < k' := by
              have := h.2
              simp [tabWfFrom] at this
              omega
            simp [tput, hk]
        · simp [tput, hx]
      · simp [tput, h1, h2, ih h.2]

/-- Bytes outside those written read as before. -/
theorem tget_tputs_out {d : α} (t : Tab α) (i : Nat) (l : List α) {j : Nat} (h : j < i ∨ i + l.length ≤ j) :
    tget d (tputs d t i l) j = tget d t j := by
  induction l generalizing t i with
  | nil => rfl
  | cons x xs ih =>
    rw [List.length_cons] at h
    rw [tputs, ih (tput d t i x) (i + 1) (by omega), tget_tput_ne t x (by omega)]

/-- A byte written reads back. -/
theorem tget_tputs_in {d : α} {t : Tab α} (i : Nat) (l : List α) {j : Nat} (hw : tabWf d t = true) (hj : j < l.length) :
    tget d (tputs d t i l) (i + j) = l[j] := by
  induction l generalizing t i j with
  | nil => cases hj
  | cons x xs ih =>
    rw [tputs]
    cases j with
    | zero =>
      rw [tget_tputs_out _ _ _ (by omega), Nat.add_zero, tget_tput_self i x hw, List.getElem_cons_zero]
    | succ j =>
      have := ih (i + 1) (tabWf_tput i x hw) (j := j) (by simpa using hj)
      rw [Nat.add_right_comm, Nat.add_assoc] at this
      simpa using this

end Sys2Proof.Machine
end

