-- ==== Sys2Proof/Laws/Keeps.lean ====
section
/-! SUPPORT. What every operation and every command keeps: the queue of commands, the canonical form of both memories, and
every part of the state that it does not name. -/

namespace Sys2Proof.Machine

variable {β α : Type} {M : Nat} {s t u : State}

/-- Every part in `c` is in `M`: sets of parts as bits, in the order of the fields of `State`. -/
def Sub (c M : Nat) : Prop := c &&& M = c

theorem Sub.bit {c i : Nat} (h : Sub c M) (hi : c.testBit i = true) : M.testBit i = true := by
  have := congrArg (Nat.testBit · i) h
  simp only [Nat.testBit_land, hi, Bool.true_and] at this
  exact this

theorem Sub.of {c d : Nat} (h : Sub c M) (k : d &&& c = d) : Sub d M := by
  unfold Sub at *; rw [← k, Nat.and_assoc, h]

/-- `t` comes after `s`: the queue is the same, the memories keep their canonical form, and a part that is not in `M` is
unchanged. -/
structure Keeps (M : Nat) (s t : State) : Prop where
  pending : t.pending = s.pending
  memWf : Memory.wf s.mem = true → Memory.wf t.mem = true
  hostWf : Memory.wf s.hostMem = true → Memory.wf t.hostMem = true
  dev : M.testBit 1 = true ∨ t.dev = s.dev
  sched : M.testBit 2 = true ∨ t.sched = s.sched
  out : M.testBit 3 = true ∨ t.out = s.out
  free : M.testBit 4 = true ∨ t.free = s.free
  ns : M.testBit 5 = true ∨ t.ns = s.ns
  mem : M.testBit 6 = true ∨ t.mem = s.mem
  hostMem : M.testBit 7 = true ∨ t.hostMem = s.hostMem
  tb : M.testBit 8 = true ∨ t.tb = s.tb
  clk : M.testBit 9 = true ∨ t.clk = s.clk
  regs : M.testBit 10 = true ∨ t.regs = s.regs
  place : M.testBit 11 = true ∨ t.place = s.place
  caps : M.testBit 12 = true ∨ t.caps = s.caps
  start : M.testBit 13 = true ∨ t.start = s.start
  sec : M.testBit 14 = true ∨ t.sec = s.sec
  ctxs : M.testBit 15 = true ∨ t.ctxs = s.ctxs
  doors : M.testBit 16 = true ∨ t.doors = s.doors
  paths : M.testBit 17 = true ∨ t.paths = s.paths
  cores : M.testBit 18 = true ∨ t.cores = s.cores
  ports : M.testBit 19 = true ∨ t.ports = s.ports
  evicts : M.testBit 20 = true ∨ t.evicts = s.evicts
  flights : M.testBit 21 = true ∨ t.flights = s.flights
  run : M.testBit 22 = true ∨ t.run = s.run
  rcpt : M.testBit 23 = true ∨ t.rcpt = s.rcpt
  cons : M.testBit 24 = true ∨ t.cons = s.cons
  slots : M.testBit 25 = true ∨ t.slots = s.slots
  queues : M.testBit 26 = true ∨ t.queues = s.queues
  stages : M.testBit 27 = true ∨ t.stages = s.stages
  stats : M.testBit 28 = true ∨ t.stats = s.stats
  layers : M.testBit 29 = true ∨ t.layers = s.layers
  upd : M.testBit 30 = true ∨ t.upd = s.upd
  commit : M.testBit 31 = true ∨ t.commit = s.commit
  ckpt : M.testBit 32 = true ∨ t.ckpt = s.ckpt
  offices : M.testBit 33 = true ∨ t.offices = s.offices
  links : M.testBit 34 = true ∨ t.links = s.links
  linkCtr : M.testBit 35 = true ∨ t.linkCtr = s.linkCtr
  e2e : M.testBit 36 = true ∨ t.e2e = s.e2e
  hdi : M.testBit 37 = true ∨ t.hdi = s.hdi
  bundles : M.testBit 38 = true ∨ t.bundles = s.bundles
  sites : M.testBit 39 = true ∨ t.sites = s.sites
  hubs : M.testBit 40 = true ∨ t.hubs = s.hubs
  pwr : M.testBit 41 = true ∨ t.pwr = s.pwr
  pins : M.testBit 42 = true ∨ t.pins = s.pins
  sh : M.testBit 43 = true ∨ t.sh = s.sh

theorem Keeps.refl (s : State) : Keeps M s s :=
  ⟨rfl, id, id, .inr rfl, .inr rfl, .inr rfl, .inr rfl, .inr rfl, .inr rfl, .inr rfl, .inr rfl, .inr rfl, .inr rfl, .inr rfl, .inr rfl, .inr rfl, .inr rfl, .inr rfl, .inr rfl, .inr rfl, .inr rfl, .inr rfl, .inr rfl, .inr rfl, .inr rfl, .inr rfl, .inr rfl, .inr rfl, .inr rfl, .inr rfl, .inr rfl, .inr rfl, .inr rfl, .inr rfl, .inr rfl, .inr rfl, .inr rfl, .inr rfl, .inr rfl, .inr rfl, .inr rfl, .inr rfl, .inr rfl, .inr rfl, .inr rfl, .inr rfl⟩

theorem foldl_keeps {f : State → β → State} {l : List β} (hf : ∀ v x, Keeps M s v → Keeps M s (f v x))
    (h : Keeps M s t) :
    Keeps M s (l.foldl f t) := by
  induction l generalizing t with
  | nil => exact h
  | cons x xs ih => exact ih (hf _ _ h)

theorem foldl_keeps1 {f : State × α → β → State × α} {l : List β} {p : State × α}
    (hf : ∀ v x, Keeps M s v.1 → Keeps M s (f v x).1) (h : Keeps M s p.1) : Keeps M s (l.foldl f p).1 := by
  induction l generalizing p with
  | nil => exact h
  | cons x xs ih => exact ih (hf _ _ h)

theorem foldl_tput_wf (l m : List Host.Cell) (h : Memory.wf m = true) :
    Memory.wf (l.foldl (fun m x => tput 0 m x.1 x.2) m) = true := by
  induction l generalizing m with
  | nil => exact h
  | cons x l ih => exact ih _ (tabWf_tput _ _ h)

theorem getD_keeps {o : Option State} (h : Keeps M s t)
    (k : ∀ v, o = some v → Keeps M s v) : Keeps M s (o.getD t) := by
  cases o with
  | none => exact h
  | some v => exact k v rfl

theorem id_keeps (h : Keeps M s t) : Keeps M s (id t) := h

theorem fst_keeps {p : State × α} {x : α} (e : p = (u, x)) (h : Keeps M s p.1) : Keeps M s u := by subst e; exact h

theorem clearPoison_wf {m : Tab Byte} (a n : Nat) (h : tabWf 0 m = true) : tabWf 0 (clearPoison m a n) = true := by
  unfold clearPoison; split
  · exact tabWf_filter _ h
  · exact h

/-- A record update of the fields other than the memories. -/
theorem mk_keeps {x1 : Dev} {x2 : Sched} {x3 : List Out} {x4 : Nat} {x5 : Nat} {x8 : Timebase} {x9 : Clocks}
    {x10 : Regs} {x11 : Place} {x12 : Caps} {x13 : Start} {x14 : Sec} {x15 : Tab Ctx} {x16 : Tab Door} {x17 : Paths}
    {x18 : Tab Core} {x19 : Tab Port} {x20 : List Evict} {x21 : List Flight} {x22 : Run} {x23 : Rcpts}
    {x24 : Tab Cons} {x25 : Tab Slot} {x26 : Tab Queue} {x27 : Tab Stage} {x28 : Tab StatHalf} {x29 : Tab LayerSt}
    {x30 : Tab UpdEng} {x31 : Commit} {x32 : Ckpt} {x33 : Tab Office} {x34 : Tab Link} {x35 : Tab LinkCtr}
    {x36 : Tab E2e} {x37 : Tab HdiPort} {x38 : Tab HdiFlow} {x39 : Tab Site} {x40 : Tab HubMem} {x41 : Pwr}
    {x42 : Pins} {x43 : Shordo} (h : Keeps M s t)
    (h1 : M.testBit 1 = true ∨ x1 = t.dev) (h2 : M.testBit 2 = true ∨ x2 = t.sched) (h3 : M.testBit 3 = true ∨ x3 = t.out) (h4 : M.testBit 4 = true ∨ x4 = t.free) (h5 : M.testBit 5 = true ∨ x5 = t.ns) (h8 : M.testBit 8 = true ∨ x8 = t.tb) (h9 : M.testBit 9 = true ∨ x9 = t.clk) (h10 : M.testBit 10 = true ∨ x10 = t.regs) (h11 : M.testBit 11 = true ∨ x11 = t.place) (h12 : M.testBit 12 = true ∨ x12 = t.caps) (h13 : M.testBit 13 = true ∨ x13 = t.start) (h14 : M.testBit 14 = true ∨ x14 = t.sec) (h15 : M.testBit 15 = true ∨ x15 = t.ctxs) (h16 : M.testBit 16 = true ∨ x16 = t.doors) (h17 : M.testBit 17 = true ∨ x17 = t.paths) (h18 : M.testBit 18 = true ∨ x18 = t.cores) (h19 : M.testBit 19 = true ∨ x19 = t.ports) (h20 : M.testBit 20 = true ∨ x20 = t.evicts) (h21 : M.testBit 21 = true ∨ x21 = t.flights) (h22 : M.testBit 22 = true ∨ x22 = t.run) (h23 : M.testBit 23 = true ∨ x23 = t.rcpt) (h24 : M.testBit 24 = true ∨ x24 = t.cons) (h25 : M.testBit 25 = true ∨ x25 = t.slots) (h26 : M.testBit 26 = true ∨ x26 = t.queues) (h27 : M.testBit 27 = true ∨ x27 = t.stages) (h28 : M.testBit 28 = true ∨ x28 = t.stats) (h29 : M.testBit 29 = true ∨ x29 = t.layers) (h30 : M.testBit 30 = true ∨ x30 = t.upd) (h31 : M.testBit 31 = true ∨ x31 = t.commit) (h32 : M.testBit 32 = true ∨ x32 = t.ckpt) (h33 : M.testBit 33 = true ∨ x33 = t.offices) (h34 : M.testBit 34 = true ∨ x34 = t.links) (h35 : M.testBit 35 = true ∨ x35 = t.linkCtr) (h36 : M.testBit 36 = true ∨ x36 = t.e2e) (h37 : M.testBit 37 = true ∨ x37 = t.hdi) (h38 : M.testBit 38 = true ∨ x38 = t.bundles) (h39 : M.testBit 39 = true ∨ x39 = t.sites) (h40 : M.testBit 40 = true ∨ x40 = t.hubs) (h41 : M.testBit 41 = true ∨ x41 = t.pwr) (h42 : M.testBit 42 = true ∨ x42 = t.pins) (h43 : M.testBit 43 = true ∨ x43 = t.sh) :
    Keeps M s (State.mk t.pending x1 x2 x3 x4 x5 t.mem t.hostMem x8 x9 x10 x11 x12 x13 x14 x15 x16 x17 x18 x19 x20 x21 x22 x23 x24 x25 x26 x27 x28 x29 x30 x31 x32 x33 x34 x35 x36 x37 x38 x39 x40 x41 x42 x43) :=
  ⟨h.pending, h.memWf, h.hostWf, h1.elim .inl (fun e => h.dev.imp id (e.trans ·)), h2.elim .inl (fun e => h.sched.imp id (e.trans ·)), h3.elim .inl (fun e => h.out.imp id (e.trans ·)), h4.elim .inl (fun e => h.free.imp id (e.trans ·)), h5.elim .inl (fun e => h.ns.imp id (e.trans ·)), h.mem, h.hostMem, h8.elim .inl (fun e => h.tb.imp id (e.trans ·)), h9.elim .inl (fun e => h.clk.imp id (e.trans ·)), h10.elim .inl (fun e => h.regs.imp id (e.trans ·)), h11.elim .inl (fun e => h.place.imp id (e.trans ·)), h12.elim .inl (fun e => h.caps.imp id (e.trans ·)), h13.elim .inl (fun e => h.start.imp id (e.trans ·)), h14.elim .inl (fun e => h.sec.imp id (e.trans ·)), h15.elim .inl (fun e => h.ctxs.imp id (e.trans ·)), h16.elim .inl (fun e => h.doors.imp id (e.trans ·)), h17.elim .inl (fun e => h.paths.imp id (e.trans ·)), h18.elim .inl (fun e => h.cores.imp id (e.trans ·)), h19.elim .inl (fun e => h.ports.imp id (e.trans ·)), h20.elim .inl (fun e => h.evicts.imp id (e.trans ·)), h21.elim .inl (fun e => h.flights.imp id (e.trans ·)), h22.elim .inl (fun e => h.run.imp id (e.trans ·)), h23.elim .inl (fun e => h.rcpt.imp id (e.trans ·)), h24.elim .inl (fun e => h.cons.imp id (e.trans ·)), h25.elim .inl (fun e => h.slots.imp id (e.trans ·)), h26.elim .inl (fun e => h.queues.imp id (e.trans ·)), h27.elim .inl (fun e => h.stages.imp id (e.trans ·)), h28.elim .inl (fun e => h.stats.imp id (e.trans ·)), h29.elim .inl (fun e => h.layers.imp id (e.trans ·)), h30.elim .inl (fun e => h.upd.imp id (e.trans ·)), h31.elim .inl (fun e => h.commit.imp id (e.trans ·)), h32.elim .inl (fun e => h.ckpt.imp id (e.trans ·)), h33.elim .inl (fun e => h.offices.imp id (e.trans ·)), h34.elim .inl (fun e => h.links.imp id (e.trans ·)), h35.elim .inl (fun e => h.linkCtr.imp id (e.trans ·)), h36.elim .inl (fun e => h.e2e.imp id (e.trans ·)), h37.elim .inl (fun e => h.hdi.imp id (e.trans ·)), h38.elim .inl (fun e => h.bundles.imp id (e.trans ·)), h39.elim .inl (fun e => h.sites.imp id (e.trans ·)), h40.elim .inl (fun e => h.hubs.imp id (e.trans ·)), h41.elim .inl (fun e => h.pwr.imp id (e.trans ·)), h42.elim .inl (fun e => h.pins.imp id (e.trans ·)), h43.elim .inl (fun e => h.sh.imp id (e.trans ·))⟩

/-- What a command that answers a next state keeps. -/
structure KeepsR (M : Nat) (s : State) (r : Res) : Prop where
  keeps : ∀ t, r = .next t → Keeps M s t

theorem next_keeps (h : Keeps M s t) : KeepsR M s (.next t) := ⟨by rintro _ ⟨⟩; exact h⟩

theorem fault_keeps (f : Fault) : KeepsR M s (.fault f) := ⟨by rintro _ ⟨⟩⟩

theorem refused_keeps (f : Refusal) : KeepsR M s (.refused f) := ⟨by rintro _ ⟨⟩⟩

theorem whenever_keeps {c : Bool} (h : Keeps M s t) (k : Keeps M s u) : KeepsR M s (whenever c t u) := by
  unfold whenever; split
  · exact next_keeps k
  · exact next_keeps h


theorem setCtr_keeps (hm : Sub 0x200 M) (d : Nat) (c : Ctr) (h : Keeps M s t) :
    Keeps M s (setCtr t d c) := by
  unfold setCtr
  repeat' first
    | with_reducible assumption
    | with_reducible exact Keeps.refl _
    | ((with_reducible refine Or.inl (hm.bit ?_)); exact rfl)
    | with_reducible exact Or.inr rfl
    | (extract_lets +onlyGivenNames v_; clear_value v_; rename' v_ => w_)
    | split
    | with_reducible apply mk_keeps

theorem powerCluster_keeps (hm : Sub 0x200 M) (k : Nat) (h : Keeps M s t) :
    Keeps M s (powerCluster t k) := by
  unfold powerCluster
  repeat' first
    | with_reducible assumption
    | with_reducible exact Keeps.refl _
    | with_reducible exact Or.inr rfl
    | (extract_lets +onlyGivenNames v_; clear_value v_; rename' v_ => w_)
    | with_reducible apply setCtr_keeps

theorem modRegs_keeps (hm : Sub 0x400 M) (f : Regs → Regs) (h : Keeps M s t) :
    Keeps M s (modRegs t f) := by
  unfold modRegs
  repeat' first
    | with_reducible assumption
    | with_reducible exact Keeps.refl _
    | ((with_reducible refine Or.inl (hm.bit ?_)); exact rfl)
    | with_reducible exact Or.inr rfl
    | split
    | with_reducible apply mk_keeps

theorem modPaths_keeps (hm : Sub 0x20000 M) (f : Paths → Paths) (h : Keeps M s t) :
    Keeps M s (modPaths t f) := by
  unfold modPaths
  repeat' first
    | with_reducible assumption
    | with_reducible exact Keeps.refl _
    | ((with_reducible refine Or.inl (hm.bit ?_)); exact rfl)
    | with_reducible exact Or.inr rfl
    | split
    | with_reducible apply mk_keeps

theorem modRun_keeps (hm : Sub 0x400000 M) (f : Run → Run) (h : Keeps M s t) :
    Keeps M s (modRun t f) := by
  unfold modRun
  repeat' first
    | with_reducible assumption
    | with_reducible exact Keeps.refl _
    | ((with_reducible refine Or.inl (hm.bit ?_)); exact rfl)
    | with_reducible exact Or.inr rfl
    | split
    | with_reducible apply mk_keeps

theorem modCommit_keeps (hm : Sub 0x80000000 M) (f : Commit → Commit) (h : Keeps M s t) :
    Keeps M s (modCommit t f) := by
  unfold modCommit
  repeat' first
    | with_reducible assumption
    | with_reducible exact Keeps.refl _
    | ((with_reducible refine Or.inl (hm.bit ?_)); exact rfl)
    | with_reducible exact Or.inr rfl
    | split
    | with_reducible apply mk_keeps

theorem modCkpt_keeps (hm : Sub 0x100000000 M) (f : Ckpt → Ckpt) (h : Keeps M s t) :
    Keeps M s (modCkpt t f) := by
  unfold modCkpt
  repeat' first
    | with_reducible assumption
    | with_reducible exact Keeps.refl _
    | ((with_reducible refine Or.inl (hm.bit ?_)); exact rfl)
    | with_reducible exact Or.inr rfl
    | split
    | with_reducible apply mk_keeps

theorem modPwr_keeps (hm : Sub 0x20000000000 M) (f : Pwr → Pwr) (h : Keeps M s t) :
    Keeps M s (modPwr t f) := by
  unfold modPwr
  repeat' first
    | with_reducible assumption
    | with_reducible exact Keeps.refl _
    | ((with_reducible refine Or.inl (hm.bit ?_)); exact rfl)
    | with_reducible exact Or.inr rfl
    | split
    | with_reducible apply mk_keeps

theorem modSh_keeps (hm : Sub 0x80000000000 M) (f : Shordo → Shordo) (h : Keeps M s t) :
    Keeps M s (modSh t f) := by
  unfold modSh
  repeat' first
    | with_reducible assumption
    | with_reducible exact Keeps.refl _
    | ((with_reducible refine Or.inl (hm.bit ?_)); exact rfl)
    | with_reducible exact Or.inr rfl
    | split
    | with_reducible apply mk_keeps

theorem modPins_keeps (hm : Sub 0x40000000000 M) (f : Pins → Pins) (h : Keeps M s t) :
    Keeps M s (modPins t f) := by
  unfold modPins
  repeat' first
    | with_reducible assumption
    | with_reducible exact Keeps.refl _
    | ((with_reducible refine Or.inl (hm.bit ?_)); exact rfl)
    | with_reducible exact Or.inr rfl
    | split
    | with_reducible apply mk_keeps

theorem modTb_keeps (hm : Sub 0x100 M) (f : Timebase → Timebase) (h : Keeps M s t) :
    Keeps M s (modTb t f) := by
  unfold modTb
  repeat' first
    | with_reducible assumption
    | with_reducible exact Keeps.refl _
    | ((with_reducible refine Or.inl (hm.bit ?_)); exact rfl)
    | with_reducible exact Or.inr rfl
    | split
    | with_reducible apply mk_keeps

theorem modStart_keeps (hm : Sub 0x2000 M) (f : Start → Start) (h : Keeps M s t) :
    Keeps M s (modStart t f) := by
  unfold modStart
  repeat' first
    | with_reducible assumption
    | with_reducible exact Keeps.refl _
    | ((with_reducible refine Or.inl (hm.bit ?_)); exact rfl)
    | with_reducible exact Or.inr rfl
    | split
    | with_reducible apply mk_keeps

theorem modRcpt_keeps (hm : Sub 0x800000 M) (f : Rcpts → Rcpts) (h : Keeps M s t) :
    Keeps M s (modRcpt t f) := by
  unfold modRcpt
  repeat' first
    | with_reducible assumption
    | with_reducible exact Keeps.refl _
    | ((with_reducible refine Or.inl (hm.bit ?_)); exact rfl)
    | with_reducible exact Or.inr rfl
    | split
    | with_reducible apply mk_keeps

theorem modCtx_keeps (hm : Sub 0x8000 M) (c : Nat) (f : Ctx → Ctx) (h : Keeps M s t) :
    Keeps M s (modCtx t c f) := by
  unfold modCtx
  repeat' first
    | with_reducible assumption
    | with_reducible exact Keeps.refl _
    | ((with_reducible refine Or.inl (hm.bit ?_)); exact rfl)
    | with_reducible exact Or.inr rfl
    | split
    | with_reducible apply mk_keeps

theorem modDoor_keeps (hm : Sub 0x10000 M) (c : Nat) (f : Door → Door) (h : Keeps M s t) :
    Keeps M s (modDoor t c f) := by
  unfold modDoor
  repeat' first
    | with_reducible assumption
    | with_reducible exact Keeps.refl _
    | ((with_reducible refine Or.inl (hm.bit ?_)); exact rfl)
    | with_reducible exact Or.inr rfl
    | split
    | with_reducible apply mk_keeps

theorem modPort_keeps (hm : Sub 0x80000 M) (c : CoreId) (f : Port → Port) (h : Keeps M s t) :
    Keeps M s (modPort t c f) := by
  unfold modPort
  repeat' first
    | with_reducible assumption
    | with_reducible exact Keeps.refl _
    | ((with_reducible refine Or.inl (hm.bit ?_)); exact rfl)
    | with_reducible exact Or.inr rfl
    | split
    | with_reducible apply mk_keeps

theorem modCons_keeps (hm : Sub 0x1000000 M) (n : Nat) (f : Cons → Cons) (h : Keeps M s t) :
    Keeps M s (modCons t n f) := by
  unfold modCons
  repeat' first
    | with_reducible assumption
    | with_reducible exact Keeps.refl _
    | ((with_reducible refine Or.inl (hm.bit ?_)); exact rfl)
    | with_reducible exact Or.inr rfl
    | split
    | with_reducible apply mk_keeps

theorem modQueue_keeps (hm : Sub 0x4000000 M) (q : Nat) (f : Queue → Queue) (h : Keeps M s t) :
    Keeps M s (modQueue t q f) := by
  unfold modQueue
  repeat' first
    | with_reducible assumption
    | with_reducible exact Keeps.refl _
    | ((with_reducible refine Or.inl (hm.bit ?_)); exact rfl)
    | with_reducible exact Or.inr rfl
    | split
    | with_reducible apply mk_keeps

theorem modStage_keeps (hm : Sub 0x8000000 M) (g : Nat) (f : Stage → Stage) (h : Keeps M s t) :
    Keeps M s (modStage t g f) := by
  unfold modStage
  repeat' first
    | with_reducible assumption
    | with_reducible exact Keeps.refl _
    | ((with_reducible refine Or.inl (hm.bit ?_)); exact rfl)
    | with_reducible exact Or.inr rfl
    | split
    | with_reducible apply mk_keeps

theorem modLayer_keeps (hm : Sub 0x20000000 M) (l : Nat) (f : LayerSt → LayerSt) (h : Keeps M s t) :
    Keeps M s (modLayer t l f) := by
  unfold modLayer
  repeat' first
    | with_reducible assumption
    | with_reducible exact Keeps.refl _
    | ((with_reducible refine Or.inl (hm.bit ?_)); exact rfl)
    | with_reducible exact Or.inr rfl
    | split
    | with_reducible apply mk_keeps

theorem modUpd_keeps (hm : Sub 0x40000000 M) (h0 : Nat) (f : UpdEng → UpdEng) (h : Keeps M s t) :
    Keeps M s (modUpd t h0 f) := by
  unfold modUpd
  repeat' first
    | with_reducible assumption
    | with_reducible exact Keeps.refl _
    | ((with_reducible refine Or.inl (hm.bit ?_)); exact rfl)
    | with_reducible exact Or.inr rfl
    | split
    | with_reducible apply mk_keeps

theorem modOffice_keeps (hm : Sub 0x200000000 M) (h0 : Nat) (f : Office → Office) (h : Keeps M s t) :
    Keeps M s (modOffice t h0 f) := by
  unfold modOffice
  repeat' first
    | with_reducible assumption
    | with_reducible exact Keeps.refl _
    | ((with_reducible refine Or.inl (hm.bit ?_)); exact rfl)
    | with_reducible exact Or.inr rfl
    | split
    | with_reducible apply mk_keeps

theorem modLink_keeps (hm : Sub 0x400000000 M) (l : Nat) (f : Link → Link) (h : Keeps M s t) :
    Keeps M s (modLink t l f) := by
  unfold modLink
  repeat' first
    | with_reducible assumption
    | with_reducible exact Keeps.refl _
    | ((with_reducible refine Or.inl (hm.bit ?_)); exact rfl)
    | with_reducible exact Or.inr rfl
    | split
    | with_reducible apply mk_keeps

theorem modLinkCtr_keeps (hm : Sub 0x800000000 M) (l : Nat) (f : LinkCtr → LinkCtr) (h : Keeps M s t) :
    Keeps M s (modLinkCtr t l f) := by
  unfold modLinkCtr
  repeat' first
    | with_reducible assumption
    | with_reducible exact Keeps.refl _
    | ((with_reducible refine Or.inl (hm.bit ?_)); exact rfl)
    | with_reducible exact Or.inr rfl
    | split
    | with_reducible apply mk_keeps

theorem modE2e_keeps (hm : Sub 0x1000000000 M) (h0 : Nat) (f : E2e → E2e) (h : Keeps M s t) :
    Keeps M s (modE2e t h0 f) := by
  unfold modE2e
  repeat' first
    | with_reducible assumption
    | with_reducible exact Keeps.refl _
    | ((with_reducible refine Or.inl (hm.bit ?_)); exact rfl)
    | with_reducible exact Or.inr rfl
    | split
    | with_reducible apply mk_keeps

theorem modHdi_keeps (hm : Sub 0x2000000000 M) (p : Nat) (f : HdiPort → HdiPort) (h : Keeps M s t) :
    Keeps M s (modHdi t p f) := by
  unfold modHdi
  repeat' first
    | with_reducible assumption
    | with_reducible exact Keeps.refl _
    | ((with_reducible refine Or.inl (hm.bit ?_)); exact rfl)
    | with_reducible exact Or.inr rfl
    | split
    | with_reducible apply mk_keeps

theorem modFlow_keeps (hm : Sub 0x4000000000 M) (b : Nat) (up : Bool) (f : HdiFlow → HdiFlow) (h : Keeps M s t) :
    Keeps M s (modFlow t b up f) := by
  unfold modFlow
  repeat' first
    | with_reducible assumption
    | with_reducible exact Keeps.refl _
    | ((with_reducible refine Or.inl (hm.bit ?_)); exact rfl)
    | with_reducible exact Or.inr rfl
    | split
    | with_reducible apply mk_keeps

theorem modSite_keeps (hm : Sub 0x8000000000 M) (n : Nat) (f : Site → Site) (h : Keeps M s t) :
    Keeps M s (modSite t n f) := by
  unfold modSite
  repeat' first
    | with_reducible assumption
    | with_reducible exact Keeps.refl _
    | ((with_reducible refine Or.inl (hm.bit ?_)); exact rfl)
    | with_reducible exact Or.inr rfl
    | split
    | with_reducible apply mk_keeps

theorem modHub_keeps (hm : Sub 0x10000000000 M) (h0 : Nat) (f : HubMem → HubMem) (h : Keeps M s t) :
    Keeps M s (modHub t h0 f) := by
  unfold modHub
  repeat' first
    | with_reducible assumption
    | with_reducible exact Keeps.refl _
    | ((with_reducible refine Or.inl (hm.bit ?_)); exact rfl)
    | with_reducible exact Or.inr rfl
    | split
    | with_reducible apply mk_keeps

theorem modRel_keeps (hm : Sub 0x400000 M) (u0 : Nat) (f : Rel → Rel) (h : Keeps M s t) :
    Keeps M s (modRel t u0 f) := by
  unfold modRel
  repeat' first
    | with_reducible assumption
    | with_reducible exact Keeps.refl _
    | ((with_reducible refine Or.inl (hm.bit ?_)); exact rfl)
    | with_reducible exact Or.inr rfl
    | (extract_lets +onlyGivenNames v_; clear_value v_; rename' v_ => w_)
    | split
    | with_reducible apply mk_keeps

theorem send_keeps (hm : Sub 0x8 M) (o : Out) (h : Keeps M s t) :
    Keeps M s (send t o) := by
  unfold send
  repeat' first
    | with_reducible assumption
    | with_reducible exact Keeps.refl _
    | ((with_reducible refine Or.inl (hm.bit ?_)); exact rfl)
    | with_reducible exact Or.inr rfl
    | split
    | with_reducible apply mk_keeps

theorem postRec_keeps (hm : Sub 0x20000 M) (r : Rec) (h : Keeps M s t) :
    Keeps M s (postRec t r) := by
  unfold postRec
  repeat' first
    | with_reducible assumption
    | with_reducible exact Keeps.refl _
    | with_reducible exact Or.inr rfl
    | with_reducible apply modPaths_keeps

theorem postB_keeps (hm : Sub 0x20000 M) (src : BitVec 32) (pm : Pm) (code : BitVec 16) (ctx : Option (BitVec 6))
    (err : Err) (body : BitVec 352) (h : Keeps M s t) :
    Keeps M s (postB t src pm code ctx err body) := by
  unfold postB
  repeat' first
    | with_reducible assumption
    | with_reducible exact Keeps.refl _
    | with_reducible exact Or.inr rfl
    | with_reducible apply postRec_keeps

theorem post_keeps (hm : Sub 0x20000 M) (src : BitVec 32) (pm : Pm) (code : BitVec 16) (ctx : Option (BitVec 6))
    (err : Err) (items : List (Nat × Nat)) (h : Keeps M s t) :
    Keeps M s (post t src pm code ctx err items) := by
  unfold post
  repeat' first
    | with_reducible assumption
    | with_reducible exact Keeps.refl _
    | with_reducible exact Or.inr rfl
    | with_reducible apply postB_keeps

theorem trace_keeps (hm : Sub 0x20000 M) (src : BitVec 32) (pm : Pm) (code : BitVec 16) (ctx : Option (BitVec 6))
    (items : List (Nat × Nat)) (h : Keeps M s t) :
    Keeps M s (trace t src pm code ctx items) := by
  unfold trace
  repeat' first
    | with_reducible assumption
    | with_reducible exact Keeps.refl _
    | with_reducible exact Or.inr rfl
    | (extract_lets +onlyGivenNames v_
       first
       | (have hv_ : Keeps M s v_ := ?_; (on_goal 1 => (clear_value v_; rename' v_ => w_)); (on_goal 2 => (unfold v_; clear v_)))
       | (clear_value v_; rename' v_ => w_))
    | with_reducible apply post_keeps
    | with_reducible apply modPaths_keeps
    | split

theorem postDenied_keeps (hm : Sub 0x20000 M) (src : BitVec 32) (pm : Pm) (what : BitVec 16)
    (rest : List (Nat × Nat)) (h : Keeps M s t) :
    Keeps M s (postDenied t src pm what rest) := by
  unfold postDenied
  repeat' first
    | with_reducible assumption
    | with_reducible exact Keeps.refl _
    | with_reducible exact Or.inr rfl
    | with_reducible apply post_keeps

theorem postFault_keeps (hm : Sub 0x20000 M) (retired : Bool) (src : BitVec 32) (pm : Pm) (kind : BitVec 8)
    (loc : BitVec 24) (cause : BitVec 8) (err : Err) (transient : Nat) (spared : Bool) (h : Keeps M s t) :
    Keeps M s (postFault t retired src pm kind loc cause err transient spared) := by
  unfold postFault
  repeat' first
    | with_reducible assumption
    | with_reducible exact Keeps.refl _
    | with_reducible exact Or.inr rfl
    | with_reducible apply postB_keeps

theorem setCore_keeps (hm : Sub 0x40000 M) (c : CoreId) (k : Core) (h : Keeps M s t) :
    Keeps M s (setCore t c k) := by
  unfold setCore
  repeat' first
    | with_reducible assumption
    | with_reducible exact Keeps.refl _
    | ((with_reducible refine Or.inl (hm.bit ?_)); exact rfl)
    | with_reducible exact Or.inr rfl
    | split
    | with_reducible apply mk_keeps

theorem modCore_keeps (hm : Sub 0x40000 M) (c : CoreId) (f : Core → Core) (h : Keeps M s t) :
    Keeps M s (modCore t c f) := by
  unfold modCore
  repeat' first
    | with_reducible assumption
    | with_reducible exact Keeps.refl _
    | with_reducible exact Or.inr rfl
    | with_reducible apply setCore_keeps

theorem wrMem_keeps (hm : Sub 0x40 M) (a : Nat) (l : List Byte) (h : Keeps M s t) :
    Keeps M s (wrMem t a l) :=
  { h with mem := .inl (hm.bit rfl), memWf := fun x => clearPoison_wf _ _ (tabWf_tputs _ _ (h.memWf x)) }

theorem spWrite_keeps (hm : Sub 0x40 M) (c : CoreId) (a : Nat) (l : List Byte) (h : Keeps M s t) :
    Keeps M s (spWrite t c a l) := by
  unfold spWrite
  repeat' first
    | with_reducible assumption
    | with_reducible exact Keeps.refl _
    | with_reducible exact Or.inr rfl
    | with_reducible apply wrMem_keeps

theorem wrHost_keeps (hm : Sub 0x80 M) (a : Nat) (l : List Byte) (h : Keeps M s t) :
    Keeps M s (wrHost t a l) :=
  { h with hostMem := .inl (hm.bit rfl), hostWf := fun x => tabWf_tputs _ _ (h.hostWf x) }

theorem addReceipt_keeps (hm : Sub 0x800000 M) (r : BitVec 14) (inc : BitVec 32) (src : BitVec 32) (h : Keeps M s t) :
    Keeps M s (addReceipt t r inc src) := by
  unfold addReceipt
  repeat' first
    | with_reducible assumption
    | with_reducible exact Keeps.refl _
    | with_reducible exact Or.inr rfl
    | with_reducible apply modRcpt_keeps

theorem markStep_keeps (hm : Sub 0x400000 M) (k : BitVec 40) (h : Keeps M s t) :
    Keeps M s (markStep t k) := by
  unfold markStep
  repeat' first
    | with_reducible assumption
    | with_reducible exact Keeps.refl _
    | with_reducible exact Or.inr rfl
    | with_reducible apply modRun_keeps
    | split

theorem markBad_keeps (hm : Sub 0x400000 M) (h : Keeps M s t) :
    Keeps M s (markBad t) := by
  unfold markBad
  repeat' first
    | with_reducible assumption
    | with_reducible exact Keeps.refl _
    | with_reducible exact Or.inr rfl
    | with_reducible apply markStep_keeps

theorem coreFaultAt_keeps (hm : Sub 0x460000 M) (c : CoreId) (pc : BitVec 12) (code : Err) (h : Keeps M s t) :
    Keeps M s (coreFaultAt t c pc code) := by
  unfold coreFaultAt
  repeat' first
    | with_reducible assumption
    | with_reducible exact Keeps.refl _
    | ((with_reducible refine hm.of ?_); exact rfl)
    | with_reducible exact Or.inr rfl
    | with_reducible apply post_keeps
    | with_reducible apply markBad_keeps
    | with_reducible apply modCore_keeps

theorem coreFault_keeps (hm : Sub 0x460000 M) (c : CoreId) (code : Err) (h : Keeps M s t) :
    Keeps M s (coreFault t c code) := by
  unfold coreFault
  repeat' first
    | with_reducible assumption
    | with_reducible exact Keeps.refl _
    | with_reducible exact Or.inr rfl
    | with_reducible apply coreFaultAt_keeps

theorem issue_keeps (hm : Sub 0x460000 M) (c : CoreId) (reads : List (BitVec 5)) (f : Core → State)
    (h : Keeps M s t) (hf_f : ∀ y0, Keeps M s (f y0)) :
    KeepsR M s (issue t c reads f) := by
  unfold issue
  repeat' first
    | with_reducible assumption
    | with_reducible exact Keeps.refl _
    | with_reducible exact Or.inr rfl
    | (with_reducible intro _)
    | with_reducible apply hf_f
    | (extract_lets +onlyGivenNames v_; clear_value v_; rename' v_ => w_)
    | with_reducible apply coreFault_keeps
    | with_reducible apply next_keeps
    | with_reducible exact fault_keeps _
    | split

theorem sendNow_keeps (hm : Sub 0x8 M) (l : Nat) (f : BitVec 8 × BitVec 224) (h : Keeps M s t) :
    Keeps M s (sendNow t l f) := by
  unfold sendNow
  repeat' first
    | with_reducible assumption
    | with_reducible exact Keeps.refl _
    | with_reducible exact Or.inr rfl
    | with_reducible apply send_keeps

theorem makeReady_keeps (hm : Sub 0x400000000 M) (l : Nat) (fs : List (BitVec 8 × BitVec 224)) (h : Keeps M s t) :
    Keeps M s (makeReady t l fs) := by
  unfold makeReady
  repeat' first
    | with_reducible assumption
    | with_reducible exact Keeps.refl _
    | with_reducible exact Or.inr rfl
    | with_reducible apply modLink_keeps

theorem stockAlarm_keeps (hm : Sub 0x400020000 M) (l : Nat) (h : Keeps M s t) :
    Keeps M s (stockAlarm t l) := by
  unfold stockAlarm
  repeat' first
    | with_reducible assumption
    | with_reducible exact Keeps.refl _
    | ((with_reducible refine hm.of ?_); exact rfl)
    | with_reducible exact Or.inr rfl
    | (extract_lets +onlyGivenNames v_; clear_value v_; rename' v_ => w_)
    | with_reducible apply modPaths_keeps
    | with_reducible apply makeReady_keeps
    | split

theorem stockOther_keeps (hm : Sub 0x400020000 M) (l : Nat) (h : Keeps M s t) :
    Keeps M s (stockOther t l) := by
  unfold stockOther
  repeat' first
    | with_reducible assumption
    | with_reducible exact Keeps.refl _
    | ((with_reducible refine hm.of ?_); exact rfl)
    | with_reducible exact Or.inr rfl
    | (extract_lets +onlyGivenNames v_; clear_value v_; rename' v_ => w_)
    | with_reducible apply modPaths_keeps
    | with_reducible apply makeReady_keeps
    | split

theorem stock_keeps (hm : Sub 0x400020000 M) (l : Nat) (h : Keeps M s t) :
    Keeps M s (stock t l) := by
  unfold stock
  repeat' first
    | with_reducible assumption
    | with_reducible exact Keeps.refl _
    | with_reducible exact Or.inr rfl
    | (extract_lets +onlyGivenNames v_
       first
       | (have hv_ : Keeps M s v_ := ?_; (on_goal 1 => (clear_value v_; rename' v_ => w_)); (on_goal 2 => (unfold v_; clear v_)))
       | (clear_value v_; rename' v_ => w_))
    | with_reducible apply stockOther_keeps
    | with_reducible apply stockAlarm_keeps
    | split

theorem slot_keeps (hm : Sub 0x400020008 M) (l : Nat) (h : Keeps M s t) :
    Keeps M s (slot t l) := by
  unfold slot
  repeat' first
    | with_reducible assumption
    | with_reducible exact Keeps.refl _
    | ((with_reducible refine hm.of ?_); exact rfl)
    | with_reducible exact Or.inr rfl
    | (extract_lets +onlyGivenNames v_
       have hv_ : Keeps M s v_ := ?_; (on_goal 1 => (clear_value v_; rename' v_ => w_)); (on_goal 2 => (unfold v_; clear v_)))
    | with_reducible apply sendNow_keeps
    | with_reducible apply modLink_keeps
    | with_reducible apply stock_keeps
    | split

theorem queueFrame_keeps (hm : Sub 0x400020008 M) (l : Nat) (f : BitVec 8 × BitVec 224) (h : Keeps M s t) :
    Keeps M s (queueFrame t l f) := by
  unfold queueFrame
  repeat' first
    | with_reducible assumption
    | with_reducible exact Keeps.refl _
    | ((with_reducible refine hm.of ?_); exact rfl)
    | with_reducible exact Or.inr rfl
    | with_reducible apply slot_keeps
    | with_reducible apply makeReady_keeps

theorem slots_keeps (hm : Sub 0x400020008 M) (h : Keeps M s t) :
    Keeps M s (slots t) := by
  unfold slots
  repeat' first
    | with_reducible assumption
    | with_reducible exact Keeps.refl _
    | with_reducible exact Or.inr rfl
    | (with_reducible intro _)
    | with_reducible apply slot_keeps
    | (with_reducible refine foldl_keeps (fun _ _ _ => ?_) ?_)

theorem laneRetrained_keeps (hm : Sub 0x400000000 M) (l : Nat) (h : Keeps M s t) :
    Keeps M s (laneRetrained t l) := by
  unfold laneRetrained
  repeat' first
    | with_reducible assumption
    | with_reducible exact Keeps.refl _
    | with_reducible exact Or.inr rfl
    | with_reducible apply modLink_keeps
    | split

theorem sendRecord_keeps (hm : Sub 0x20008 M) (l : Nat) (r : Rec) (h : Keeps M s t) :
    Keeps M s (sendRecord t l r) := by
  unfold sendRecord
  repeat' first
    | with_reducible assumption
    | with_reducible exact Keeps.refl _
    | ((with_reducible refine hm.of ?_); exact rfl)
    | with_reducible exact Or.inr rfl
    | (with_reducible intro _)
    | (extract_lets +onlyGivenNames v_; clear_value v_; rename' v_ => w_)
    | with_reducible apply sendNow_keeps
    | with_reducible apply modPaths_keeps
    | (with_reducible refine foldl_keeps (fun _ _ _ => ?_) ?_)

theorem forwardAlarm_keeps (hm : Sub 0x400020008 M) (r : Rec) (h : Keeps M s t) :
    Keeps M s (forwardAlarm t r) := by
  unfold forwardAlarm
  repeat' first
    | with_reducible assumption
    | with_reducible exact Keeps.refl _
    | ((with_reducible refine hm.of ?_); exact rfl)
    | with_reducible exact Or.inr rfl
    | (extract_lets +onlyGivenNames v_
       have hv_ : Keeps M s v_ := ?_; (on_goal 1 => (clear_value v_; rename' v_ => w_)); (on_goal 2 => (unfold v_; clear v_)))
    | with_reducible apply modPaths_keeps
    | with_reducible apply slot_keeps
    | split

theorem forwardOther_keeps (hm : Sub 0x400020008 M) (r : Rec) (h : Keeps M s t) :
    Keeps M s (forwardOther t r) := by
  unfold forwardOther
  repeat' first
    | with_reducible assumption
    | with_reducible exact Keeps.refl _
    | ((with_reducible refine hm.of ?_); exact rfl)
    | with_reducible exact Or.inr rfl
    | (extract_lets +onlyGivenNames v_
       first
       | (have hv_ : Keeps M s v_ := ?_; (on_goal 1 => (clear_value v_; rename' v_ => w_)); (on_goal 2 => (unfold v_; clear v_)))
       | (clear_value v_; rename' v_ => w_))
    | with_reducible apply modPaths_keeps
    | with_reducible apply slot_keeps
    | (with_reducible refine getD_keeps ?_ (fun _ _ => ?_))
    | split

theorem forwardOwn_keeps (hm : Sub 0x400020008 M) (r : Rec) (h : Keeps M s t) :
    Keeps M s (forwardOwn t r) := by
  unfold forwardOwn
  repeat' first
    | with_reducible assumption
    | with_reducible exact Keeps.refl _
    | with_reducible exact Or.inr rfl
    | with_reducible apply forwardOther_keeps
    | with_reducible apply forwardAlarm_keeps
    | split

theorem alarmAcked_keeps (hm : Sub 0x20000 M) (l : Nat) (origin : BitVec 15) (seq : BitVec 15) (h : Keeps M s t) :
    Keeps M s (alarmAcked t l origin seq) := by
  unfold alarmAcked
  repeat' first
    | with_reducible assumption
    | with_reducible exact Keeps.refl _
    | with_reducible exact Or.inr rfl
    | with_reducible apply modPaths_keeps

theorem putFlit_keeps (hm : Sub 0xc00000008 M) (l : Nat) (f : SentFlit) (h : Keeps M s t) :
    Keeps M s (putFlit t l f) := by
  unfold putFlit
  repeat' first
    | with_reducible assumption
    | with_reducible exact Keeps.refl _
    | ((with_reducible refine hm.of ?_); exact rfl)
    | with_reducible exact Or.inr rfl
    | (extract_lets +onlyGivenNames v_
       first
       | (have hv_ : Keeps M s v_ := ?_; (on_goal 1 => (clear_value v_; rename' v_ => w_)); (on_goal 2 => (unfold v_; clear v_)))
       | (clear_value v_; rename' v_ => w_))
    | with_reducible apply send_keeps
    | with_reducible apply modLink_keeps
    | with_reducible apply modLinkCtr_keeps
    | (with_reducible refine getD_keeps ?_ (fun _ _ => ?_))
    | (with_reducible refine fst_keeps (by with_reducible assumption) ?_)
    | split

theorem sendFlit_keeps (hm : Sub 0xc00000008 M) (l : Nat) (kind : BitVec 2) (h : Keeps M s t) :
    Keeps M s (sendFlit t l kind) := by
  unfold sendFlit
  repeat' first
    | with_reducible assumption
    | with_reducible exact Keeps.refl _
    | ((with_reducible refine hm.of ?_); exact rfl)
    | with_reducible exact Or.inr rfl
    | (extract_lets +onlyGivenNames v_; clear_value v_; rename' v_ => w_)
    | with_reducible apply putFlit_keeps
    | with_reducible apply modLink_keeps

theorem fillLink_keeps (hm : Sub 0xc00000008 M) (l : Nat) (a2 : Nat) (h : Keeps M s t) :
    Keeps M s (fillLink t l a2) := by
  induction a2 generalizing t with
  | zero => exact h
  | succ n ih =>
    rw [fillLink]; split
    · exact ih (sendFlit_keeps (hm.of rfl) _ _ h)
    · exact h

theorem answerLink_keeps (hm : Sub 0xc00000008 M) (l : Nat) (h : Keeps M s t) :
    Keeps M s (answerLink t l) := by
  unfold answerLink
  repeat' first
    | with_reducible assumption
    | with_reducible exact Keeps.refl _
    | with_reducible exact Or.inr rfl
    | (extract_lets +onlyGivenNames v_
       first
       | (have hv_ : Keeps M s v_ := ?_; (on_goal 1 => (clear_value v_; rename' v_ => w_)); (on_goal 2 => (unfold v_; clear v_)))
       | (clear_value v_; rename' v_ => w_))
    | with_reducible apply sendFlit_keeps
    | with_reducible apply fillLink_keeps
    | split

theorem putOnLink_keeps (hm : Sub 0xc00000008 M) (l : Nat) (cls : Bool) (hdr : BitVec 128) (data : List Byte)
    (h : Keeps M s t) :
    Keeps M s (putOnLink t l cls hdr data) := by
  unfold putOnLink
  repeat' first
    | with_reducible assumption
    | with_reducible exact Keeps.refl _
    | ((with_reducible refine hm.of ?_); exact rfl)
    | with_reducible exact Or.inr rfl
    | (extract_lets +onlyGivenNames v_
       have hv_ : Keeps M s v_ := ?_; (on_goal 1 => (clear_value v_; rename' v_ => w_)); (on_goal 2 => (unfold v_; clear v_)))
    | with_reducible apply modLink_keeps
    | with_reducible apply fillLink_keeps

theorem oweStamps_keeps (hm : Sub 0x400000000 M) (l : Nat) (q : Nat) (n : Nat) (h : Keeps M s t) :
    Keeps M s (oweStamps t l q n) := by
  unfold oweStamps
  repeat' first
    | with_reducible assumption
    | with_reducible exact Keeps.refl _
    | with_reducible exact Or.inr rfl
    | with_reducible apply modLink_keeps

theorem leavePool_keeps (hm : Sub 0xc00000008 M) (p : Packet) (h : Keeps M s t) :
    Keeps M s (leavePool t p) := by
  unfold leavePool
  repeat' first
    | with_reducible assumption
    | with_reducible exact Keeps.refl _
    | ((with_reducible refine hm.of ?_); exact rfl)
    | with_reducible exact Or.inr rfl
    | with_reducible apply answerLink_keeps
    | with_reducible apply modLink_keeps
    | with_reducible apply oweStamps_keeps
    | (with_reducible refine fst_keeps (by with_reducible assumption) ?_)
    | split

theorem routePacket_keeps (hm : Sub 0xc00020008 M) (hdr : BitVec 128) (data : List Byte)
    (came : Option (Nat × Bool)) (h : Keeps M s t) :
    ∀ v, routePacket t hdr data came = some v → Keeps M s v := by
  intro v hv; unfold routePacket at hv; dsimp only at hv
  split at hv
  · cases hv; exact send_keeps (hm.of rfl) _ h
  · split at hv
    · cases hv
    · cases hv
      repeat' first
        | with_reducible assumption
        | ((with_reducible refine hm.of ?_); exact rfl)
        | with_reducible apply post_keeps
        | with_reducible apply putOnLink_keeps
        | split

theorem routeVia_keeps (hm : Sub 0xc00020008 M) (l : Option Nat) (hdr : BitVec 128) (data : List Byte)
    (h : Keeps M s t) :
    ∀ v, routeVia t l hdr data = some v → Keeps M s v := by
  intro v hv; unfold routeVia at hv
  split at hv
  · exact routePacket_keeps (hm.of rfl) _ _ _ h _ hv
  · split at hv
    · cases hv; exact putOnLink_keeps (hm.of rfl) _ _ _ _ h
    · split at hv
      · cases hv; exact putOnLink_keeps (hm.of rfl) _ _ _ _ h
      · exact routePacket_keeps (hm.of rfl) _ _ _ h _ hv

theorem answerFor_keeps (hm : Sub 0xc00020008 M) (p : Packet) (status : Err) (h : Keeps M s t) :
    Keeps M s (answerFor t p status) := by
  unfold answerFor
  repeat' first
    | with_reducible assumption
    | with_reducible exact Keeps.refl _
    | with_reducible exact Or.inr rfl
    | (extract_lets +onlyGivenNames v_; clear_value v_; rename' v_ => w_)
    | with_reducible exact routePacket_keeps (hm.of rfl) _ _ _ (by with_reducible assumption) _ (by with_reducible assumption)
    | (with_reducible refine getD_keeps ?_ (fun _ _ => ?_))
    | split

theorem noWay_keeps (hm : Sub 0xc00020008 M) (p : Packet) (h : Keeps M s t) :
    Keeps M s (noWay t p) := by
  unfold noWay
  repeat' first
    | with_reducible assumption
    | with_reducible exact Keeps.refl _
    | with_reducible exact Or.inr rfl
    | with_reducible apply answerFor_keeps

theorem dormantAnswer_keeps (hm : Sub 0xc00020008 M) (p : Packet) (h : Keeps M s t) :
    Keeps M s (dormantAnswer t p) := by
  unfold dormantAnswer
  repeat' first
    | with_reducible assumption
    | with_reducible exact Keeps.refl _
    | with_reducible exact Or.inr rfl
    | with_reducible apply answerFor_keeps

theorem launchReq_keeps (hm : Sub 0x1c00020008 M) (h0 : Nat) (r : Req) (via : Option Nat) (h : Keeps M s t) :
    Keeps M s (launchReq t h0 r via) := by
  unfold launchReq
  repeat' first
    | with_reducible assumption
    | with_reducible exact Keeps.refl _
    | ((with_reducible refine hm.of ?_); exact rfl)
    | with_reducible exact Or.inr rfl
    | (extract_lets +onlyGivenNames v_
       first
       | (have hv_ : Keeps M s v_ := ?_; (on_goal 1 => (clear_value v_; rename' v_ => w_)); (on_goal 2 => (unfold v_; clear v_)))
       | (clear_value v_; rename' v_ => w_))
    | with_reducible exact routeVia_keeps (hm.of rfl) _ _ _ (by with_reducible assumption) _ (by with_reducible assumption)
    | with_reducible apply noWay_keeps
    | with_reducible apply modE2e_keeps
    | (with_reducible refine getD_keeps ?_ (fun _ _ => ?_))

theorem sendReqTo_keeps (hm : Sub 0x1c00020008 M) (h0 : Nat) (dst : BitVec 15) (dh : BitVec 2) (via : Option Nat)
    (ptype : BitVec 4) (flow : BitVec 12) (data : List Byte) (why : ReqFor) (h : Keeps M s t) :
    Keeps M s (sendReqTo t h0 dst dh via ptype flow data why) := by
  unfold sendReqTo
  repeat' first
    | with_reducible assumption
    | with_reducible exact Keeps.refl _
    | ((with_reducible refine hm.of ?_); exact rfl)
    | with_reducible exact Or.inr rfl
    | (extract_lets +onlyGivenNames v_
       first
       | (have hv_ : Keeps M s v_ := ?_; (on_goal 1 => (clear_value v_; rename' v_ => w_)); (on_goal 2 => (unfold v_; clear v_)))
       | (clear_value v_; rename' v_ => w_))
    | with_reducible apply launchReq_keeps
    | with_reducible apply modE2e_keeps
    | split

theorem sendWaiting_keeps (hm : Sub 0x1c00020008 M) (h0 : Nat) (h : Keeps M s t) :
    Keeps M s (sendWaiting t h0) := by
  unfold sendWaiting
  repeat' first
    | with_reducible assumption
    | with_reducible exact Keeps.refl _
    | with_reducible exact Or.inr rfl
    | (with_reducible intro _)
    | with_reducible apply launchReq_keeps
    | (with_reducible refine foldl_keeps (fun _ _ _ => ?_) ?_)
    | (with_reducible refine foldl_keeps1 (fun _ _ _ => ?_) ?_)
    | split

theorem sendReq_keeps (hm : Sub 0x1c00020008 M) (h0 : Nat) (dst : BitVec 15) (ptype : BitVec 4) (flow : BitVec 12)
    (data : List Byte) (why : ReqFor) (h : Keeps M s t) :
    Keeps M s (sendReq t h0 dst ptype flow data why) := by
  unfold sendReq
  repeat' first
    | with_reducible assumption
    | with_reducible exact Keeps.refl _
    | with_reducible exact Or.inr rfl
    | with_reducible apply sendReqTo_keeps

theorem toldAck_keeps (hm : Sub 0x1000000000 M) (h0 : Nat) (o : OutStream) (h : Keeps M s t) :
    Keeps M s (toldAck t h0 o) := by
  unfold toldAck
  repeat' first
    | with_reducible assumption
    | with_reducible exact Keeps.refl _
    | with_reducible exact Or.inr rfl
    | with_reducible apply modE2e_keeps
    | split

theorem sendRsp_keeps (hm : Sub 0x1c00020008 M) (h0 : Nat) (src : BitVec 15) (shub : BitVec 2) (seq : BitVec 16)
    (flow : BitVec 12) (err : Err) (data : List Byte) (h : Keeps M s t) :
    Keeps M s (sendRsp t h0 src shub seq flow err data) := by
  unfold sendRsp
  repeat' first
    | with_reducible assumption
    | with_reducible exact Keeps.refl _
    | ((with_reducible refine hm.of ?_); exact rfl)
    | with_reducible exact Or.inr rfl
    | (extract_lets +onlyGivenNames v_
       first
       | (have hv_ : Keeps M s v_ := ?_; (on_goal 1 => (clear_value v_; rename' v_ => w_)); (on_goal 2 => (unfold v_; clear v_)))
       | (clear_value v_; rename' v_ => w_))
    | with_reducible apply toldAck_keeps
    | with_reducible exact routePacket_keeps (hm.of rfl) _ _ _ (by with_reducible assumption) _ (by with_reducible assumption)
    | (with_reducible refine getD_keeps ?_ (fun _ _ => ?_))
    | split

theorem answerReq_keeps (hm : Sub 0x1c00020008 M) (o : Origin) (err : Err) (data : List Byte) (h : Keeps M s t) :
    Keeps M s (answerReq t o err data) := by
  unfold answerReq
  repeat' first
    | with_reducible assumption
    | with_reducible exact Keeps.refl _
    | ((with_reducible refine hm.of ?_); exact rfl)
    | with_reducible exact Or.inr rfl
    | (extract_lets +onlyGivenNames v_
       have hv_ : Keeps M s v_ := ?_; (on_goal 1 => (clear_value v_; rename' v_ => w_)); (on_goal 2 => (unfold v_; clear v_)))
    | with_reducible apply sendRsp_keeps
    | with_reducible apply modE2e_keeps

theorem warn_keeps (hm : Sub 0x100020000 M) (src : BitVec 32) (pm : Pm) (row : Nat) (ch : BitVec 32)
    (h : Keeps M s t) :
    Keeps M s (warn t src pm row ch) := by
  unfold warn
  repeat' first
    | with_reducible assumption
    | with_reducible exact Keeps.refl _
    | ((with_reducible refine hm.of ?_); exact rfl)
    | with_reducible exact Or.inr rfl
    | with_reducible apply modCkpt_keeps
    | with_reducible apply post_keeps

theorem markUnsettled_keeps (hm : Sub 0x400000 M) (h : Keeps M s t) :
    Keeps M s (markUnsettled t) := by
  unfold markUnsettled
  repeat' first
    | with_reducible assumption
    | with_reducible exact Keeps.refl _
    | with_reducible exact Or.inr rfl
    | (with_reducible intro _)
    | with_reducible apply markStep_keeps
    | (with_reducible refine foldl_keeps (fun _ _ _ => ?_) ?_)
    | (with_reducible refine foldl_keeps1 (fun _ _ _ => ?_) ?_)
    | split

theorem correctedError_keeps (hm : Sub 0x80100020000 M) (src : BitVec 32) (pm : Pm) (ch : BitVec 32)
    (h : Keeps M s t) :
    Keeps M s (correctedError t src pm ch) := by
  unfold correctedError
  repeat' first
    | with_reducible assumption
    | with_reducible exact Keeps.refl _
    | ((with_reducible refine hm.of ?_); exact rfl)
    | with_reducible exact Or.inr rfl
    | (extract_lets +onlyGivenNames v_
       first
       | (have hv_ : Keeps M s v_ := ?_; (on_goal 1 => (clear_value v_; rename' v_ => w_)); (on_goal 2 => (unfold v_; clear v_)))
       | (clear_value v_; rename' v_ => w_))
    | with_reducible apply modSh_keeps
    | with_reducible apply warn_keeps
    | split

theorem transientFault_keeps (hm : Sub 0x80000020000 M) (src : BitVec 32) (pm : Pm) (ch : BitVec 32)
    (cause : BitVec 8) (h : Keeps M s t) :
    Keeps M s (transientFault t src pm ch cause) := by
  unfold transientFault
  repeat' first
    | with_reducible assumption
    | with_reducible exact Keeps.refl _
    | ((with_reducible refine hm.of ?_); exact rfl)
    | with_reducible exact Or.inr rfl
    | (extract_lets +onlyGivenNames v_; clear_value v_; rename' v_ => w_)
    | with_reducible apply modSh_keeps
    | with_reducible apply postFault_keeps

theorem recordRetired_keeps (hm : Sub 0x80100020000 M) (src : BitVec 32) (pm : Pm) (ch : BitVec 32) (err : Err)
    (h : Keeps M s t) :
    Keeps M s (recordRetired t src pm ch err) := by
  unfold recordRetired
  repeat' first
    | with_reducible assumption
    | with_reducible exact Keeps.refl _
    | ((with_reducible refine hm.of ?_); exact rfl)
    | with_reducible exact Or.inr rfl
    | (extract_lets +onlyGivenNames v_; clear_value v_; rename' v_ => w_)
    | with_reducible apply modSh_keeps
    | with_reducible apply warn_keeps
    | split

theorem lastingFault_keeps (hm : Sub 0x80100020000 M) (src : BitVec 32) (pm : Pm) (ch : BitVec 32)
    (cause : BitVec 8) (err : Err) (spared : Bool) (h : Keeps M s t) :
    Keeps M s (lastingFault t src pm ch cause err spared) := by
  unfold lastingFault
  repeat' first
    | with_reducible assumption
    | with_reducible exact Keeps.refl _
    | ((with_reducible refine hm.of ?_); exact rfl)
    | with_reducible exact Or.inr rfl
    | with_reducible apply recordRetired_keeps
    | with_reducible apply postFault_keeps

theorem laneFault_keeps (hm : Sub 0x80100020000 M) (src : BitVec 32) (pm : Pm) (ctx : BitVec 6) (ch : BitVec 32)
    (again : Bool) (h : Keeps M s t) :
    Keeps M s (laneFault t src pm ctx ch again) := by
  unfold laneFault
  repeat' first
    | with_reducible assumption
    | with_reducible exact Keeps.refl _
    | ((with_reducible refine hm.of ?_); exact rfl)
    | with_reducible exact Or.inr rfl
    | with_reducible apply modSh_keeps
    | with_reducible apply recordRetired_keeps
    | with_reducible apply post_keeps
    | split

theorem zeroMem_keeps (hm : Sub 0x40 M) (a : Nat) (n : Nat) (h : Keeps M s t) :
    Keeps M s (zeroMem t a n) :=
  { h with mem := .inl (hm.bit rfl), memWf := fun x => tabWf_filter _ (h.memWf x) }

theorem loadCore_keeps (hm : Sub 0xc0040 M) (im : Image) (c : CoreId) (h : Keeps M s t) :
    Keeps M s (loadCore t im c) := by
  unfold loadCore
  repeat' first
    | with_reducible assumption
    | with_reducible exact Keeps.refl _
    | ((with_reducible refine hm.of ?_); exact rfl)
    | with_reducible exact Or.inr rfl
    | (with_reducible intro _)
    | (extract_lets +onlyGivenNames v_
       first
       | (have hv_ : Keeps M s v_ := ?_; (on_goal 1 => (clear_value v_; rename' v_ => w_)); (on_goal 2 => (unfold v_; clear v_)))
       | (clear_value v_; rename' v_ => w_))
    | with_reducible apply zeroMem_keeps
    | with_reducible apply modPort_keeps
    | with_reducible apply setCore_keeps
    | with_reducible apply wrMem_keeps
    | (with_reducible refine foldl_keeps (fun _ _ _ => ?_) ?_)

theorem reloadCore_keeps (hm : Sub 0xc0040 M) (c : CoreId) (h : Keeps M s t) :
    Keeps M s (reloadCore t c) := by
  unfold reloadCore
  repeat' first
    | with_reducible assumption
    | with_reducible exact Keeps.refl _
    | ((with_reducible refine hm.of ?_); exact rfl)
    | with_reducible exact Or.inr rfl
    | with_reducible apply modPort_keeps
    | with_reducible apply loadCore_keeps
    | with_reducible apply setCore_keeps
    | split

theorem postSpare_keeps (hm : Sub 0x20000 M) (c : CoreId) (old : Nat) (new : Nat) (h : Keeps M s t) :
    Keeps M s (postSpare t c old new) := by
  unfold postSpare
  repeat' first
    | with_reducible assumption
    | with_reducible exact Keeps.refl _
    | with_reducible exact Or.inr rfl
    | with_reducible apply post_keeps

theorem substitute_keeps (hm : Sub 0x800000e0240 M) (c : CoreId) (whole : Bool) (h : Keeps M s t) :
    Keeps M s (substitute t c whole) := by
  unfold substitute
  repeat' first
    | with_reducible assumption
    | with_reducible exact Keeps.refl _
    | ((with_reducible refine hm.of ?_); exact rfl)
    | with_reducible exact Or.inr rfl
    | (with_reducible intro _)
    | (extract_lets +onlyGivenNames v_
       first
       | (have hv_ : Keeps M s v_ := ?_; (on_goal 1 => (clear_value v_; rename' v_ => w_)); (on_goal 2 => (unfold v_; clear v_)))
       | (have hf_ : ∀ x, Keeps M s x → Keeps M s (v_ x) := ?_; (on_goal 1 => (clear_value v_; rename' v_ => w_)); (on_goal 2 => (unfold v_; clear v_; intro _ _)))
       | (clear_value v_; rename' v_ => w_))
    | with_reducible apply modSh_keeps
    | with_reducible apply postSpare_keeps
    | with_reducible apply postDenied_keeps
    | with_reducible apply powerCluster_keeps
    | with_reducible apply reloadCore_keeps
    | (with_reducible refine foldl_keeps (fun _ _ _ => ?_) ?_)
    | (with_reducible refine foldl_keeps1 (fun _ _ _ => ?_) ?_)
    | (with_reducible refine fst_keeps (by with_reducible assumption) ?_)
    | with_reducible apply hf_
    | split

theorem askSpare_keeps (hm : Sub 0x800000e0240 M) (c : CoreId) (whole : Bool) (ok : Bool) (ch : BitVec 32)
    (h : Keeps M s t) :
    Keeps M s (askSpare t c whole ok ch) := by
  unfold askSpare
  repeat' first
    | with_reducible assumption
    | with_reducible exact Keeps.refl _
    | ((with_reducible refine hm.of ?_); exact rfl)
    | with_reducible exact Or.inr rfl
    | with_reducible apply substitute_keeps
    | with_reducible apply modSh_keeps
    | with_reducible apply postDenied_keeps
    | (with_reducible refine fst_keeps (by with_reducible assumption) ?_)
    | split

theorem retireSite_keeps (hm : Sub 0x88100460000 M) (die : Nat) (cause : BitVec 8) (err : Err) (h : Keeps M s t) :
    Keeps M s (retireSite t die cause err) := by
  unfold retireSite
  repeat' first
    | with_reducible assumption
    | with_reducible exact Keeps.refl _
    | ((with_reducible refine hm.of ?_); exact rfl)
    | with_reducible exact Or.inr rfl
    | (with_reducible intro _)
    | (extract_lets +onlyGivenNames v_
       first
       | (have hv_ : Keeps M s v_ := ?_; (on_goal 1 => (clear_value v_; rename' v_ => w_)); (on_goal 2 => (unfold v_; clear v_)))
       | (have hf_ : ∀ x y, Keeps M s x → Keeps M s (v_ x y) := ?_; (on_goal 1 => (clear_value v_; rename' v_ => w_)); (on_goal 2 => (unfold v_; clear v_; intro _ _ _)))
       | (clear_value v_; rename' v_ => w_))
    | with_reducible apply modSite_keeps
    | with_reducible apply markUnsettled_keeps
    | with_reducible apply lastingFault_keeps
    | with_reducible apply modCore_keeps
    | (with_reducible refine foldl_keeps (fun _ _ _ => ?_) ?_)
    | (with_reducible refine foldl_keeps1 (fun _ _ _ => ?_) ?_)
    | with_reducible apply hf_
    | split

theorem retireCluster_keeps (hm : Sub 0x881004e0240 M) (die : Nat) (cl : Nat) (cause : BitVec 8) (err : Err)
    (h : Keeps M s t) :
    Keeps M s (retireCluster t die cl cause err) := by
  unfold retireCluster
  repeat' first
    | with_reducible assumption
    | with_reducible exact Keeps.refl _
    | ((with_reducible refine hm.of ?_); exact rfl)
    | with_reducible exact Or.inr rfl
    | (with_reducible intro _)
    | (extract_lets +onlyGivenNames v_
       first
       | (have hv_ : Keeps M s v_ := ?_; (on_goal 1 => (clear_value v_; rename' v_ => w_)); (on_goal 2 => (unfold v_; clear v_)))
       | (clear_value v_; rename' v_ => w_))
    | with_reducible apply askSpare_keeps
    | with_reducible apply modSh_keeps
    | with_reducible apply retireSite_keeps
    | with_reducible apply markUnsettled_keeps
    | with_reducible apply lastingFault_keeps
    | with_reducible apply modCore_keeps
    | (with_reducible refine foldl_keeps (fun _ _ _ => ?_) ?_)
    | (with_reducible refine foldl_keeps1 (fun _ _ _ => ?_) ?_)
    | split

theorem retireCore_keeps (hm : Sub 0x881004e0240 M) (c : CoreId) (cause : BitVec 8) (err : Err) (h : Keeps M s t) :
    Keeps M s (retireCore t c cause err) := by
  unfold retireCore
  repeat' first
    | with_reducible assumption
    | with_reducible exact Keeps.refl _
    | ((with_reducible refine hm.of ?_); exact rfl)
    | with_reducible exact Or.inr rfl
    | (extract_lets +onlyGivenNames v_
       first
       | (have hv_ : Keeps M s v_ := ?_; (on_goal 1 => (clear_value v_; rename' v_ => w_)); (on_goal 2 => (unfold v_; clear v_)))
       | (clear_value v_; rename' v_ => w_))
    | with_reducible apply askSpare_keeps
    | with_reducible apply retireCluster_keeps
    | with_reducible apply markUnsettled_keeps
    | with_reducible apply lastingFault_keeps
    | with_reducible apply modCore_keeps
    | split

theorem retirePc_keeps (hm : Sub 0x90100420000 M) (h0 : Nat) (p : BitVec 8) (err : Err) (h : Keeps M s t) :
    Keeps M s (retirePc t h0 p err) := by
  unfold retirePc
  repeat' first
    | with_reducible assumption
    | with_reducible exact Keeps.refl _
    | ((with_reducible refine hm.of ?_); exact rfl)
    | with_reducible exact Or.inr rfl
    | (extract_lets +onlyGivenNames v_
       first
       | (have hv_ : Keeps M s v_ := ?_; (on_goal 1 => (clear_value v_; rename' v_ => w_)); (on_goal 2 => (unfold v_; clear v_)))
       | (clear_value v_; rename' v_ => w_))
    | with_reducible apply modHub_keeps
    | with_reducible apply recordRetired_keeps
    | with_reducible apply post_keeps
    | with_reducible apply markUnsettled_keeps

theorem retireMem_keeps (hm : Sub 0x90100420000 M) (a : Nat) (h : Keeps M s t) :
    Keeps M s (retireMem t a) := by
  unfold retireMem
  repeat' first
    | with_reducible assumption
    | with_reducible exact Keeps.refl _
    | ((with_reducible refine hm.of ?_); exact rfl)
    | with_reducible exact Or.inr rfl
    | (extract_lets +onlyGivenNames v_; clear_value v_; rename' v_ => w_)
    | with_reducible apply retirePc_keeps
    | with_reducible apply markUnsettled_keeps
    | with_reducible apply lastingFault_keeps
    | split

theorem poison_keeps (hm : Sub 0x40 M) (u0 : Nat) (h : Keeps M s t) :
    Keeps M s (poison t u0) :=
  { h with mem := .inl (hm.bit rfl), memWf := fun x => tabWf_tput _ _ (h.memWf x) }

theorem lineLost_keeps (hm : Sub 0x80100420040 M) (sl : Nat) (u0 : Nat) (h : Keeps M s t) :
    Keeps M s (lineLost t sl u0) := by
  unfold lineLost
  repeat' first
    | with_reducible assumption
    | with_reducible exact Keeps.refl _
    | ((with_reducible refine hm.of ?_); exact rfl)
    | with_reducible exact Or.inr rfl
    | (extract_lets +onlyGivenNames v_
       have hv_ : Keeps M s v_ := ?_; (on_goal 1 => (clear_value v_; rename' v_ => w_)); (on_goal 2 => (unfold v_; clear v_)))
    | with_reducible apply poison_keeps
    | with_reducible apply markUnsettled_keeps
    | with_reducible apply lastingFault_keeps

theorem clearHi_keeps (hm : Sub 0x4000000 M) (q : Nat) (h : Keeps M s t) :
    Keeps M s (clearHi t q) := by
  unfold clearHi
  repeat' first
    | with_reducible assumption
    | with_reducible exact Keeps.refl _
    | with_reducible exact Or.inr rfl
    | with_reducible apply modQueue_keeps

theorem clearLo_keeps (hm : Sub 0x4000000 M) (q : Nat) (h : Keeps M s t) :
    Keeps M s (clearLo t q) := by
  unfold clearLo
  repeat' first
    | with_reducible assumption
    | with_reducible exact Keeps.refl _
    | with_reducible exact Or.inr rfl
    | with_reducible apply modQueue_keeps

theorem clearWm_keeps (hm : Sub 0x800000 M) (r : Nat) (h : Keeps M s t) :
    Keeps M s (clearWm t r) := by
  unfold clearWm
  repeat' first
    | with_reducible assumption
    | with_reducible exact Keeps.refl _
    | with_reducible exact Or.inr rfl
    | with_reducible apply modRcpt_keeps

theorem statusPut_keeps (hm : Sub 0x4800000 M) (q : Nat) (o : Nat) (b : Byte) (h : Keeps M s t) :
    Keeps M s (statusPut t q o b) := by
  unfold statusPut
  repeat' first
    | with_reducible assumption
    | with_reducible exact Keeps.refl _
    | ((with_reducible refine hm.of ?_); exact rfl)
    | with_reducible exact Or.inr rfl
    | (extract_lets +onlyGivenNames v_
       have hv_ : Keeps M s v_ := ?_; (on_goal 1 => (clear_value v_; rename' v_ => w_)); (on_goal 2 => (unfold v_; clear v_)))
    | with_reducible apply clearHi_keeps
    | with_reducible apply clearLo_keeps
    | with_reducible apply clearWm_keeps
    | split

theorem statusPuts_keeps (hm : Sub 0x4800000 M) (a : Nat) (a2 : List Byte) (h : Keeps M s t) :
    Keeps M s (statusPuts t a a2) := by
  induction a2 generalizing t a with
  | nil => exact h
  | cons b l ih =>
    unfold statusPuts
    extract_lets o
    clear_value o
    exact ih (a + 1) (statusPut_keeps (hm.of rfl) _ _ _ h)

theorem pkgWrite_keeps (hm : Sub 0x4800040 M) (a : Nat) (l : List Byte) (h : Keeps M s t) :
    Keeps M s (pkgWrite t a l) := by
  unfold pkgWrite
  repeat' first
    | with_reducible assumption
    | with_reducible exact Keeps.refl _
    | ((with_reducible refine hm.of ?_); exact rfl)
    | with_reducible exact Or.inr rfl
    | with_reducible apply statusPuts_keeps
    | with_reducible apply wrMem_keeps
    | split

theorem setFlags_keeps (hm : Sub 0x8000 M) (ctx : BitVec 6) (f : BitVec 8) (h : Keeps M s t) :
    Keeps M s (setFlags t ctx f) := by
  unfold setFlags
  repeat' first
    | with_reducible assumption
    | with_reducible exact Keeps.refl _
    | with_reducible exact Or.inr rfl
    | with_reducible apply modCtx_keeps
    | split

theorem addStat_keeps (hm : Sub 0x10000000 M) (g : Nat) (k : BitVec 40) (i : Nat) (h : Keeps M s t) :
    Keeps M s (addStat t g k i) := by
  unfold addStat
  repeat' first
    | with_reducible assumption
    | with_reducible exact Keeps.refl _
    | ((with_reducible refine Or.inl (hm.bit ?_)); exact rfl)
    | with_reducible exact Or.inr rfl
    | (extract_lets +onlyGivenNames v_; clear_value v_; rename' v_ => w_)
    | split
    | with_reducible apply mk_keeps

theorem countEff_keeps (hm : Sub 0x10000000 M) (g : Nat) (k : BitVec 40) (e : Eff) (h : Keeps M s t) :
    Keeps M s (countEff t g k e) := by
  unfold countEff
  repeat' first
    | with_reducible assumption
    | with_reducible exact Keeps.refl _
    | with_reducible exact Or.inr rfl
    | (with_reducible intro _)
    | (extract_lets +onlyGivenNames v_
       have hv_ : Keeps M s v_ := ?_; (on_goal 1 => (clear_value v_; rename' v_ => w_)); (on_goal 2 => (unfold v_; clear v_)))
    | with_reducible apply addStat_keeps
    | (with_reducible refine foldl_keeps (fun _ _ _ => ?_) ?_)
    | (with_reducible refine foldl_keeps1 (fun _ _ _ => ?_) ?_)
    | split

theorem countGradNf_keeps (hm : Sub 0x10000000 M) (g : Nat) (k : BitVec 40) (h : Keeps M s t) :
    Keeps M s (countGradNf t g k) := by
  unfold countGradNf
  repeat' first
    | with_reducible assumption
    | with_reducible exact Keeps.refl _
    | with_reducible exact Or.inr rfl
    | with_reducible apply addStat_keeps
    | split

theorem coreEff_keeps (hm : Sub 0x10008000 M) (c : CoreId) (e : Eff) (h : Keeps M s t) :
    Keeps M s (coreEff t c e) := by
  unfold coreEff
  repeat' first
    | with_reducible assumption
    | with_reducible exact Keeps.refl _
    | ((with_reducible refine hm.of ?_); exact rfl)
    | with_reducible exact Or.inr rfl
    | (extract_lets +onlyGivenNames v_
       have hv_ : Keeps M s v_ := ?_; (on_goal 1 => (clear_value v_; rename' v_ => w_)); (on_goal 2 => (unfold v_; clear v_)))
    | with_reducible apply countEff_keeps
    | with_reducible apply setFlags_keeps
    | split

theorem putColl_keeps (hm : Sub 0x200000000 M) (h0 : Nat) (c : Coll) (h : Keeps M s t) :
    Keeps M s (putColl t h0 c) := by
  unfold putColl
  repeat' first
    | with_reducible assumption
    | with_reducible exact Keeps.refl _
    | with_reducible exact Or.inr rfl
    | with_reducible apply modOffice_keeps

theorem setOvf_keeps (hm : Sub 0x400000 M) (k : BitVec 40) (h : Keeps M s t) :
    Keeps M s (setOvf t k) := by
  unfold setOvf
  repeat' first
    | with_reducible assumption
    | with_reducible exact Keeps.refl _
    | with_reducible exact Or.inr rfl
    | with_reducible apply modRun_keeps
    | split

theorem sendPiece_keeps (hm : Sub 0x1c00020008 M) (h0 : Nat) (c : Coll) (ph : BitVec 384) (data : List Byte)
    (h : Keeps M s t) :
    Keeps M s (sendPiece t h0 c ph data) := by
  unfold sendPiece
  repeat' first
    | with_reducible assumption
    | with_reducible exact Keeps.refl _
    | ((with_reducible refine hm.of ?_); exact rfl)
    | with_reducible exact Or.inr rfl
    | (extract_lets +onlyGivenNames v_; clear_value v_; rename' v_ => w_)
    | with_reducible apply sendReqTo_keeps
    | with_reducible apply trace_keeps

theorem abortNext_keeps (hm : Sub 0x1c00020008 M) (h0 : Nat) (c : Coll) (code : Err) (h : Keeps M s t) :
    Keeps M s (abortNext t h0 c code) := by
  unfold abortNext
  repeat' first
    | with_reducible assumption
    | with_reducible exact Keeps.refl _
    | with_reducible exact Or.inr rfl
    | (extract_lets +onlyGivenNames v_; clear_value v_; rename' v_ => w_)
    | with_reducible apply sendReqTo_keeps

theorem abortPrev_keeps (hm : Sub 0x1c00020008 M) (h0 : Nat) (c : Coll) (code : Err) (h : Keeps M s t) :
    Keeps M s (abortPrev t h0 c code) := by
  unfold abortPrev
  repeat' first
    | with_reducible assumption
    | with_reducible exact Keeps.refl _
    | with_reducible exact Or.inr rfl
    | (extract_lets +onlyGivenNames v_; clear_value v_; rename' v_ => w_)
    | with_reducible apply sendReqTo_keeps

theorem notifyColl_keeps (hm : Sub 0x20000 M) (h0 : Nat) (c : Coll) (code : Err) (h : Keeps M s t) :
    Keeps M s (notifyColl t h0 c code) := by
  unfold notifyColl
  repeat' first
    | with_reducible assumption
    | with_reducible exact Keeps.refl _
    | with_reducible exact Or.inr rfl
    | with_reducible apply post_keeps
    | (with_reducible refine fst_keeps (by with_reducible assumption) ?_)
    | split

theorem failColl_keeps (hm : Sub 0x1e00020008 M) (h0 : Nat) (c : Coll) (code : Err) (next : Bool) (prev : Bool)
    (h : Keeps M s t) :
    Keeps M s (failColl t h0 c code next prev) := by
  unfold failColl
  repeat' first
    | with_reducible assumption
    | with_reducible exact Keeps.refl _
    | ((with_reducible refine hm.of ?_); exact rfl)
    | with_reducible exact Or.inr rfl
    | (extract_lets +onlyGivenNames v_
       have hv_ : Keeps M s v_ := ?_; (on_goal 1 => (clear_value v_; rename' v_ => w_)); (on_goal 2 => (unfold v_; clear v_)))
    | with_reducible apply abortNext_keeps
    | with_reducible apply notifyColl_keeps
    | with_reducible apply putColl_keeps
    | with_reducible apply abortPrev_keeps
    | with_reducible apply post_keeps
    | with_reducible apply modOffice_keeps
    | (with_reducible refine fst_keeps (by with_reducible assumption) ?_)
    | split

theorem finishColl_keeps (hm : Sub 0x200820000 M) (h0 : Nat) (c : Coll) (h : Keeps M s t) :
    Keeps M s (finishColl t h0 c) := by
  unfold finishColl
  repeat' first
    | with_reducible assumption
    | with_reducible exact Keeps.refl _
    | ((with_reducible refine hm.of ?_); exact rfl)
    | with_reducible exact Or.inr rfl
    | (extract_lets +onlyGivenNames v_
       have hv_ : Keeps M s v_ := ?_; (on_goal 1 => (clear_value v_; rename' v_ => w_)); (on_goal 2 => (unfold v_; clear v_)))
    | with_reducible apply addReceipt_keeps
    | with_reducible apply notifyColl_keeps
    | with_reducible apply putColl_keeps
    | with_reducible apply modOffice_keeps
    | split

theorem bcastPackets_keeps (hm : Sub 0x1c00020008 M) (h0 : Nat) (c : Coll) (piece : Nat) (ovf : Bool)
    (h : Keeps M s t) :
    Keeps M s (bcastPackets t h0 c piece ovf) := by
  unfold bcastPackets
  repeat' first
    | with_reducible assumption
    | with_reducible exact Keeps.refl _
    | with_reducible exact Or.inr rfl
    | (with_reducible intro _)
    | (extract_lets +onlyGivenNames v_; clear_value v_; rename' v_ => w_)
    | with_reducible apply sendPiece_keeps
    | (with_reducible refine foldl_keeps (fun _ _ _ => ?_) ?_)

theorem laneCheck_keeps (hm : Sub 0x80300020000 M) (h0 : Nat) (bad : Option LaneFault) (h : Keeps M s t) :
    Keeps M s (laneCheck t h0 bad) := by
  unfold laneCheck
  repeat' first
    | with_reducible assumption
    | with_reducible exact Keeps.refl _
    | ((with_reducible refine hm.of ?_); exact rfl)
    | with_reducible exact Or.inr rfl
    | (extract_lets +onlyGivenNames v_
       first
       | (have hv_ : Keeps M s v_ := ?_; (on_goal 1 => (clear_value v_; rename' v_ => w_)); (on_goal 2 => (unfold v_; clear v_)))
       | (clear_value v_; rename' v_ => w_))
    | with_reducible apply laneFault_keeps
    | with_reducible apply modOffice_keeps
    | split

theorem lanesGone_keeps (hm : Sub 0x1e00020008 M) (h0 : Nat) (h : Keeps M s t) :
    Keeps M s (lanesGone t h0) := by
  unfold lanesGone
  repeat' first
    | with_reducible assumption
    | with_reducible exact Keeps.refl _
    | with_reducible exact Or.inr rfl
    | (with_reducible intro _)
    | with_reducible apply failColl_keeps
    | (with_reducible refine foldl_keeps (fun _ _ _ => ?_) ?_)
    | (with_reducible refine foldl_keeps1 (fun _ _ _ => ?_) ?_)
    | split

theorem reducePacket_keeps (hm : Sub 0x1e14c28048 M) (h0 : Nat) (c : Coll) (ph : BitVec 384) (data : List Byte)
    (h : Keeps M s t) :
    Keeps M s (reducePacket t h0 c ph data) := by
  unfold reducePacket
  repeat' first
    | with_reducible assumption
    | with_reducible exact Keeps.refl _
    | ((with_reducible refine hm.of ?_); exact rfl)
    | with_reducible exact Or.inr rfl
    | (with_reducible intro _)
    | (extract_lets +onlyGivenNames v_
       first
       | (have hv_ : Keeps M s v_ := ?_; (on_goal 1 => (clear_value v_; rename' v_ => w_)); (on_goal 2 => (unfold v_; clear v_)))
       | (clear_value v_; rename' v_ => w_))
    | with_reducible apply bcastPackets_keeps
    | with_reducible apply sendPiece_keeps
    | with_reducible apply setOvf_keeps
    | with_reducible apply putColl_keeps
    | with_reducible apply finishColl_keeps
    | with_reducible apply countEff_keeps
    | with_reducible apply setFlags_keeps
    | with_reducible apply pkgWrite_keeps
    | with_reducible apply failColl_keeps
    | (with_reducible refine foldl_keeps (fun _ _ _ => ?_) ?_)
    | (with_reducible refine foldl_keeps1 (fun _ _ _ => ?_) ?_)
    | (with_reducible refine fst_keeps (by with_reducible assumption) ?_)
    | split

theorem bcastPacket_keeps (hm : Sub 0x1e04c20048 M) (h0 : Nat) (c : Coll) (ph : BitVec 384) (data : List Byte)
    (h : Keeps M s t) :
    Keeps M s (bcastPacket t h0 c ph data) := by
  unfold bcastPacket
  repeat' first
    | with_reducible assumption
    | with_reducible exact Keeps.refl _
    | ((with_reducible refine hm.of ?_); exact rfl)
    | with_reducible exact Or.inr rfl
    | (extract_lets +onlyGivenNames v_
       first
       | (have hv_ : Keeps M s v_ := ?_; (on_goal 1 => (clear_value v_; rename' v_ => w_)); (on_goal 2 => (unfold v_; clear v_)))
       | (clear_value v_; rename' v_ => w_))
    | with_reducible apply sendPiece_keeps
    | with_reducible apply setOvf_keeps
    | with_reducible apply putColl_keeps
    | with_reducible apply finishColl_keeps
    | with_reducible apply pkgWrite_keeps
    | with_reducible apply failColl_keeps
    | split

theorem piecePacket_keeps (hm : Sub 0x1e14c28048 M) (h0 : Nat) (c : Coll) (ph : BitVec 384) (data : List Byte)
    (h : Keeps M s t) :
    Keeps M s (piecePacket t h0 c ph data) := by
  unfold piecePacket
  repeat' first
    | with_reducible assumption
    | with_reducible exact Keeps.refl _
    | ((with_reducible refine hm.of ?_); exact rfl)
    | with_reducible exact Or.inr rfl
    | with_reducible apply reducePacket_keeps
    | with_reducible apply bcastPacket_keeps
    | split

theorem startReduce_keeps (hm : Sub 0x1e14c28048 M) (h0 : Nat) (k : BitVec 40 × BitVec 32) (h : Keeps M s t) :
    Keeps M s (startReduce t h0 k) := by
  unfold startReduce
  repeat' first
    | with_reducible assumption
    | with_reducible exact Keeps.refl _
    | with_reducible exact Or.inr rfl
    | (with_reducible intro _)
    | (extract_lets +onlyGivenNames v_; clear_value v_; rename' v_ => w_)
    | with_reducible apply reducePacket_keeps
    | (with_reducible refine foldl_keeps (fun _ _ _ => ?_) ?_)
    | (with_reducible refine foldl_keeps1 (fun _ _ _ => ?_) ?_)
    | split

theorem startBcast_keeps (hm : Sub 0x1e14828048 M) (h0 : Nat) (c : Coll) (h : Keeps M s t) :
    Keeps M s (startBcast t h0 c) := by
  unfold startBcast
  repeat' first
    | with_reducible assumption
    | with_reducible exact Keeps.refl _
    | ((with_reducible refine hm.of ?_); exact rfl)
    | with_reducible exact Or.inr rfl
    | (with_reducible intro _)
    | (extract_lets +onlyGivenNames v_
       first
       | (have hv_ : Keeps M s v_ := ?_; (on_goal 1 => (clear_value v_; rename' v_ => w_)); (on_goal 2 => (unfold v_; clear v_)))
       | (clear_value v_; rename' v_ => w_))
    | with_reducible apply bcastPackets_keeps
    | with_reducible apply finishColl_keeps
    | with_reducible apply countEff_keeps
    | with_reducible apply setFlags_keeps
    | with_reducible apply pkgWrite_keeps
    | with_reducible apply failColl_keeps
    | (with_reducible refine foldl_keeps (fun _ _ _ => ?_) ?_)
    | (with_reducible refine foldl_keeps1 (fun _ _ _ => ?_) ?_)
    | split

theorem startColl_keeps (hm : Sub 0x1e14c28048 M) (h0 : Nat) (c : Coll) (h : Keeps M s t) :
    Keeps M s (startColl t h0 c) := by
  unfold startColl
  repeat' first
    | with_reducible assumption
    | with_reducible exact Keeps.refl _
    | ((with_reducible refine hm.of ?_); exact rfl)
    | with_reducible exact Or.inr rfl
    | (with_reducible intro _)
    | (extract_lets +onlyGivenNames v_
       first
       | (have hv_ : Keeps M s v_ := ?_; (on_goal 1 => (clear_value v_; rename' v_ => w_)); (on_goal 2 => (unfold v_; clear v_)))
       | (clear_value v_; rename' v_ => w_))
    | with_reducible apply startReduce_keeps
    | with_reducible apply startBcast_keeps
    | with_reducible apply piecePacket_keeps
    | with_reducible apply putColl_keeps
    | with_reducible apply modOffice_keeps
    | (with_reducible refine foldl_keeps (fun _ _ _ => ?_) ?_)
    | (with_reducible refine foldl_keeps1 (fun _ _ _ => ?_) ?_)
    | split

theorem armColl_keeps (hm : Sub 0x200000000 M) (h0 : Nat) (e : BitVec 512) (start : BitVec 40)
    (host : Option (Option (Fin 64))) (h : Keeps M s t) :
    Keeps M s (armColl t h0 e start host) := by
  unfold armColl
  repeat' first
    | with_reducible assumption
    | with_reducible exact Keeps.refl _
    | with_reducible exact Or.inr rfl
    | with_reducible apply putColl_keeps
    | (with_reducible refine getD_keeps ?_ (fun _ _ => ?_))
    | (with_reducible refine fst_keeps (by with_reducible assumption) ?_)
    | split

theorem pieceArrives_keeps (hm : Sub 0x1e14c28048 M) (h0 : Nat) (ph : BitVec 384) (data : List Byte)
    (h : Keeps M s t) :
    Keeps M s (pieceArrives t h0 ph data).1 := by
  unfold pieceArrives
  repeat' first
    | with_reducible assumption
    | with_reducible exact Keeps.refl _
    | ((with_reducible refine hm.of ?_); exact rfl)
    | with_reducible exact Or.inr rfl
    | (extract_lets +onlyGivenNames v_; clear_value v_; rename' v_ => w_)
    | with_reducible apply piecePacket_keeps
    | with_reducible apply modOffice_keeps
    | (with_reducible refine fst_keeps (by with_reducible assumption) ?_)
    | split

theorem abortArrives_keeps (hm : Sub 0x1e00020008 M) (h0 : Nat) (ph : BitVec 384) (toNext : Bool) (toPrev : Bool)
    (h : Keeps M s t) :
    Keeps M s (abortArrives t h0 ph toNext toPrev) := by
  unfold abortArrives
  repeat' first
    | with_reducible assumption
    | with_reducible exact Keeps.refl _
    | ((with_reducible refine hm.of ?_); exact rfl)
    | with_reducible exact Or.inr rfl
    | (with_reducible intro _)
    | (extract_lets +onlyGivenNames v_
       first
       | (have hv_ : Keeps M s v_ := ?_; (on_goal 1 => (clear_value v_; rename' v_ => w_)); (on_goal 2 => (unfold v_; clear v_)))
       | (have hf_ : ∀ x y, Keeps M s x → Keeps M s (v_ x y) := ?_; (on_goal 1 => (clear_value v_; rename' v_ => w_)); (on_goal 2 => (unfold v_; clear v_; intro _ _ _)))
       | (clear_value v_; rename' v_ => w_))
    | with_reducible apply abortNext_keeps
    | with_reducible apply abortPrev_keeps
    | with_reducible apply failColl_keeps
    | (with_reducible refine fst_keeps (by with_reducible assumption) ?_)
    | with_reducible apply hf_
    | split

theorem clearColls_keeps (hm : Sub 0x200000000 M) (h : Keeps M s t) :
    Keeps M s (clearColls t) := by
  unfold clearColls
  repeat' first
    | with_reducible assumption
    | with_reducible exact Keeps.refl _
    | ((with_reducible refine Or.inl (hm.bit ?_)); exact rfl)
    | with_reducible exact Or.inr rfl
    | split
    | with_reducible apply mk_keeps

theorem coreEcc_keeps (hm : Sub 0x881004e0240 M) (c : CoreId) (o : EccOutcome) (h : Keeps M s t) :
    Keeps M s (coreEcc t c o) := by
  unfold coreEcc
  repeat' first
    | with_reducible assumption
    | with_reducible exact Keeps.refl _
    | ((with_reducible refine hm.of ?_); exact rfl)
    | with_reducible exact Or.inr rfl
    | (extract_lets +onlyGivenNames v_; clear_value v_; rename' v_ => w_)
    | with_reducible apply modPort_keeps
    | with_reducible apply transientFault_keeps
    | with_reducible apply retireCore_keeps
    | with_reducible apply correctedError_keeps
    | split

theorem cacheEcc_keeps (hm : Sub 0x80100420040 M) (a : Nat) (o : EccOutcome) (h : Keeps M s t) :
    Keeps M s (cacheEcc t a o) := by
  unfold cacheEcc
  repeat' first
    | with_reducible assumption
    | with_reducible exact Keeps.refl _
    | ((with_reducible refine hm.of ?_); exact rfl)
    | with_reducible exact Or.inr rfl
    | (extract_lets +onlyGivenNames v_; clear_value v_; rename' v_ => w_)
    | with_reducible apply lineLost_keeps
    | with_reducible apply transientFault_keeps
    | with_reducible apply correctedError_keeps
    | split

theorem memEcc_keeps (hm : Sub 0x981004e0240 M) (a : Nat) (o : EccOutcome) (h : Keeps M s t) :
    Keeps M s (memEcc t a o) := by
  unfold memEcc
  repeat' first
    | with_reducible assumption
    | with_reducible exact Keeps.refl _
    | ((with_reducible refine hm.of ?_); exact rfl)
    | with_reducible exact Or.inr rfl
    | with_reducible apply coreEcc_keeps
    | with_reducible apply transientFault_keeps
    | with_reducible apply retireMem_keeps
    | with_reducible apply cacheEcc_keeps
    | with_reducible apply correctedError_keeps
    | split

theorem metEcc_keeps (hm : Sub 0x981004e0240 M) (e : EccAt) (as : List (Nat × Nat)) (h : Keeps M s t) :
    Keeps M s (metEcc t e as) := by
  unfold metEcc
  repeat' first
    | with_reducible assumption
    | with_reducible exact Keeps.refl _
    | with_reducible exact Or.inr rfl
    | with_reducible apply memEcc_keeps
    | split

theorem execCollectiveStarts_keeps (hm : Sub 0x99f14ce8248 M) (h0 : Fin 4) (met : PieceMet) (h : Keeps M s t) :
    KeepsR M s (execCollectiveStarts h0 met t) := by
  unfold execCollectiveStarts
  repeat' first
    | with_reducible assumption
    | with_reducible exact Keeps.refl _
    | ((with_reducible refine hm.of ?_); exact rfl)
    | with_reducible exact Or.inr rfl
    | (extract_lets +onlyGivenNames v_
       have hv_ : Keeps M s v_ := ?_; (on_goal 1 => (clear_value v_; rename' v_ => w_)); (on_goal 2 => (unfold v_; clear v_)))
    | with_reducible apply laneCheck_keeps
    | with_reducible apply metEcc_keeps
    | with_reducible apply startColl_keeps
    | with_reducible apply whenever_keeps
    | with_reducible apply lanesGone_keeps
    | with_reducible apply next_keeps
    | with_reducible exact fault_keeps _
    | split

theorem execCollTimeout_keeps (hm : Sub 0x1e00020008 M) (h0 : Fin 4) (id : BitVec 32) (h : Keeps M s t) :
    KeepsR M s (execCollTimeout h0 id t) := by
  unfold execCollTimeout
  repeat' first
    | with_reducible assumption
    | with_reducible exact Keeps.refl _
    | with_reducible exact Or.inr rfl
    | with_reducible apply whenever_keeps
    | with_reducible apply failColl_keeps
    | with_reducible apply next_keeps
    | with_reducible exact fault_keeps _
    | (with_reducible refine fst_keeps (by with_reducible assumption) ?_)
    | split

theorem sendCount_keeps (hm : Sub 0x800000 M) (r : BitVec 14) (n : BitVec 32) (h : Keeps M s t) :
    Keeps M s (sendCount t r n) := by
  unfold sendCount
  repeat' first
    | with_reducible assumption
    | with_reducible exact Keeps.refl _
    | with_reducible exact Or.inr rfl
    | (extract_lets +onlyGivenNames v_; clear_value v_; rename' v_ => w_)
    | with_reducible apply modRcpt_keeps

theorem setCount_keeps (hm : Sub 0x800000 M) (r : BitVec 14) (n : BitVec 32) (h : Keeps M s t) :
    Keeps M s (setCount t r n) := by
  unfold setCount
  repeat' first
    | with_reducible assumption
    | with_reducible exact Keeps.refl _
    | with_reducible exact Or.inr rfl
    | with_reducible apply sendCount_keeps
    | with_reducible apply modRcpt_keeps
    | split

theorem applyAdds_keeps (hm : Sub 0x820000 M) (r : BitVec 14) (l : List (BitVec 32 × BitVec 32)) (h : Keeps M s t) :
    Keeps M s (applyAdds t r l) := by
  unfold applyAdds
  repeat' first
    | with_reducible assumption
    | with_reducible exact Keeps.refl _
    | ((with_reducible refine hm.of ?_); exact rfl)
    | with_reducible exact Or.inr rfl
    | (with_reducible intro _)
    | (extract_lets +onlyGivenNames v_
       first
       | (have hv_ : Keeps M s v_ := ?_; (on_goal 1 => (clear_value v_; rename' v_ => w_)); (on_goal 2 => (unfold v_; clear v_)))
       | (clear_value v_; rename' v_ => w_))
    | with_reducible apply post_keeps
    | with_reducible apply sendCount_keeps
    | with_reducible apply modRcpt_keeps
    | (with_reducible refine foldl_keeps (fun _ _ _ => ?_) ?_)
    | (with_reducible refine foldl_keeps1 (fun _ _ _ => ?_) ?_)
    | (with_reducible refine fst_keeps (by with_reducible assumption) ?_)
    | split

theorem applyAdd_keeps (hm : Sub 0x820000 M) (r : BitVec 14) (inc : BitVec 32) (src : BitVec 32) (h : Keeps M s t) :
    Keeps M s (applyAdd t r inc src) := by
  unfold applyAdd
  repeat' first
    | with_reducible assumption
    | with_reducible exact Keeps.refl _
    | with_reducible exact Or.inr rfl
    | with_reducible apply applyAdds_keeps

theorem judgeQueue_keeps (hm : Sub 0x4020000 M) (q : Nat) (h : Keeps M s t) :
    Keeps M s (judgeQueue t q) := by
  unfold judgeQueue
  repeat' first
    | with_reducible assumption
    | with_reducible exact Keeps.refl _
    | ((with_reducible refine hm.of ?_); exact rfl)
    | with_reducible exact Or.inr rfl
    | (with_reducible intro _)
    | (extract_lets +onlyGivenNames v_
       first
       | (have hv_ : Keeps M s v_ := ?_; (on_goal 1 => (clear_value v_; rename' v_ => w_)); (on_goal 2 => (unfold v_; clear v_)))
       | (have hf_ : ∀ x y, Keeps M s x → Keeps M s (v_ x y) := ?_; (on_goal 1 => (clear_value v_; rename' v_ => w_)); (on_goal 2 => (unfold v_; clear v_; intro _ _ _)))
       | (clear_value v_; rename' v_ => w_))
    | with_reducible apply modQueue_keeps
    | with_reducible apply post_keeps
    | (with_reducible refine fst_keeps (by with_reducible assumption) ?_)
    | with_reducible apply hf_
    | split

theorem resetOcc_keeps (hm : Sub 0x4000000 M) (q : Nat) (h : Keeps M s t) :
    Keeps M s (resetOcc t q) := by
  unfold resetOcc
  repeat' first
    | with_reducible assumption
    | with_reducible exact Keeps.refl _
    | with_reducible exact Or.inr rfl
    | with_reducible apply modQueue_keeps
    | split

theorem putSlot_keeps (hm : Sub 0x2000000 M) (q : Nat) (i : Nat) (x : Slot) (h : Keeps M s t) :
    Keeps M s (putSlot t q i x) := by
  unfold putSlot
  repeat' first
    | with_reducible assumption
    | with_reducible exact Keeps.refl _
    | ((with_reducible refine Or.inl (hm.bit ?_)); exact rfl)
    | with_reducible exact Or.inr rfl
    | split
    | with_reducible apply mk_keeps

theorem queueAdd_keeps (hm : Sub 0x800000 M) (h0 : Nat) (r : BitVec 14) (h : Keeps M s t) :
    Keeps M s (queueAdd t h0 r) := by
  unfold queueAdd
  repeat' first
    | with_reducible assumption
    | with_reducible exact Keeps.refl _
    | with_reducible exact Or.inr rfl
    | with_reducible apply addReceipt_keeps

theorem claimSlot_keeps (hm : Sub 0x2000000 M) (q : Nat) (d : BitVec 256) (mb : BitVec 8) (h : Keeps M s t) :
    Keeps M s (claimSlot t q d mb) := by
  unfold claimSlot
  repeat' first
    | with_reducible assumption
    | with_reducible exact Keeps.refl _
    | with_reducible exact Or.inr rfl
    | (extract_lets +onlyGivenNames v_; clear_value v_; rename' v_ => w_)
    | with_reducible apply putSlot_keeps
    | split

theorem postPart_keeps (hm : Sub 0x6820000 M) (q : Nat) (d : BitVec 256) (mb : BitVec 8) (n : BitVec 20)
    (h : Keeps M s t) :
    Keeps M s (postPart t q d mb n) := by
  unfold postPart
  repeat' first
    | with_reducible assumption
    | with_reducible exact Keeps.refl _
    | ((with_reducible refine hm.of ?_); exact rfl)
    | with_reducible exact Or.inr rfl
    | (extract_lets +onlyGivenNames v_; clear_value v_; rename' v_ => w_)
    | with_reducible apply modQueue_keeps
    | with_reducible apply judgeQueue_keeps
    | with_reducible apply queueAdd_keeps
    | with_reducible apply putSlot_keeps
    | split

theorem collectPart_keeps (hm : Sub 0x6820000 M) (q : Nat) (d : BitVec 256) (mb : BitVec 8) (h : Keeps M s t) :
    Keeps M s (collectPart t q d mb) := by
  unfold collectPart
  repeat' first
    | with_reducible assumption
    | with_reducible exact Keeps.refl _
    | ((with_reducible refine hm.of ?_); exact rfl)
    | with_reducible exact Or.inr rfl
    | (extract_lets +onlyGivenNames v_; clear_value v_; rename' v_ => w_)
    | with_reducible apply modQueue_keeps
    | with_reducible apply judgeQueue_keeps
    | with_reducible apply queueAdd_keeps
    | with_reducible apply putSlot_keeps
    | split

theorem clearBounds_keeps (hm : Sub 0x2000000 M) (b : Nat) (h : Keeps M s t) :
    Keeps M s (clearBounds t b) := by
  unfold clearBounds
  repeat' first
    | with_reducible assumption
    | with_reducible exact Keeps.refl _
    | ((with_reducible refine Or.inl (hm.bit ?_)); exact rfl)
    | with_reducible exact Or.inr rfl
    | split
    | with_reducible apply mk_keeps

theorem setBounds_keeps (hm : Sub 0x2000000 M) (b : Nat) (h : Keeps M s t) :
    Keeps M s (setBounds t b) := by
  unfold setBounds
  repeat' first
    | with_reducible assumption
    | with_reducible exact Keeps.refl _
    | ((with_reducible refine Or.inl (hm.bit ?_)); exact rfl)
    | with_reducible exact Or.inr rfl
    | split
    | with_reducible apply mk_keeps

theorem gtPut_keeps (hm : Sub 0x40 M) (d : BitVec 256) (n : Nat) (g : Nat) (v : BitVec 32) (h : Keeps M s t) :
    Keeps M s (gtPut t d n g v) := by
  unfold gtPut
  repeat' first
    | with_reducible assumption
    | with_reducible exact Keeps.refl _
    | with_reducible exact Or.inr rfl
    | with_reducible apply wrMem_keeps

theorem copyTable_keeps (hm : Sub 0x40 M) (d : BitVec 256) (c : Nat) (n : Nat) (h : Keeps M s t) :
    Keeps M s (copyTable t d c n) := by
  unfold copyTable
  repeat' first
    | with_reducible assumption
    | with_reducible exact Keeps.refl _
    | with_reducible exact Or.inr rfl
    | (with_reducible intro _)
    | with_reducible apply gtPut_keeps
    | (with_reducible refine foldl_keeps (fun _ _ _ => ?_) ?_)

theorem pendFor_keeps (hm : Sub 0x8000040 M) (g : Nat) (d : BitVec 256) (k : BitVec 40) (h : Keeps M s t) :
    ∀ v, pendFor t g d k = some v → Keeps M s v.1 := by
  intro v hv; unfold pendFor at hv; dsimp only at hv
  split at hv
  · split at hv
    · cases hv; exact h
    · cases hv
  · split at hv
    · split at hv
      · cases hv
        repeat' first
          | with_reducible assumption
          | ((with_reducible refine hm.of ?_); exact rfl)
          | with_reducible apply copyTable_keeps
          | with_reducible apply modStage_keeps
      · cases hv
    · cases hv

theorem ownGranule_keeps (hm : Sub 0x8000040 M) (g : Nat) (d : BitVec 256) (n : Nat) (i : Nat) (h : Keeps M s t) :
    ∀ v, ownGranule t g d n i = some v → Keeps M s v := by
  intro v hv; unfold ownGranule at hv; dsimp only at hv
  split at hv
  · cases hv; exact h
  · split at hv
    · cases hv
    · cases hv
      repeat' first
        | with_reducible assumption
        | ((with_reducible refine hm.of ?_); exact rfl)
        | with_reducible apply modStage_keeps
        | with_reducible apply gtPut_keeps
        | with_reducible apply wrMem_keeps

theorem edPut_keeps (hm : Sub 0x8000040 M) (g : Nat) (d : BitVec 256) (n : Nat) (a4 : Nat) (a5 : Nat)
    (a6 : List Byte) (h : Keeps M s t) :
    Keeps M s (edPut t g d n a4 a5 a6).1 := by
  induction a4 generalizing t a5 a6 with
  | zero => exact h
  | succ f ih =>
    rw [edPut]; split
    · exact h
    · dsimp only; split
      · exact h
      · next e => exact ih _ _ (wrMem_keeps (hm.of rfl) _ _ (ownGranule_keeps (hm.of rfl) _ _ _ _ h _ e))

theorem edWrite_keeps (hm : Sub 0x8000040 M) (g : Nat) (d : BitVec 256) (n : Nat) (o : Nat) (l : List Byte)
    (h : Keeps M s t) :
    Keeps M s (edWrite t g d n o l).1 := by
  unfold edWrite
  repeat' first
    | with_reducible assumption
    | with_reducible exact Keeps.refl _
    | with_reducible exact Or.inr rfl
    | with_reducible apply edPut_keeps

theorem poolEmpty_keeps (hm : Sub 0x420000 M) (g : Nat) (k : BitVec 40) (i : Nat) (kind : Nat) (obj : Nat)
    (h : Keeps M s t) :
    Keeps M s (poolEmpty t g k i kind obj) := by
  unfold poolEmpty
  repeat' first
    | with_reducible assumption
    | with_reducible exact Keeps.refl _
    | ((with_reducible refine hm.of ?_); exact rfl)
    | with_reducible exact Or.inr rfl
    | with_reducible apply markStep_keeps
    | with_reducible apply post_keeps

theorem edFull_keeps (hm : Sub 0x420000 M) (g : Nat) (k : BitVec 40) (kind : Nat) (obj : Nat) (h : Keeps M s t) :
    Keeps M s (edFull t g k kind obj) := by
  unfold edFull
  repeat' first
    | with_reducible assumption
    | with_reducible exact Keeps.refl _
    | ((with_reducible refine hm.of ?_); exact rfl)
    | with_reducible exact Or.inr rfl
    | (extract_lets +onlyGivenNames v_; clear_value v_; rename' v_ => w_)
    | with_reducible apply markStep_keeps
    | with_reducible apply post_keeps

theorem passFrames_keeps (hm : Sub 0x40 M) (d : BitVec 256) (n : Nat) (m : Option Nat) (h : Keeps M s t) :
    Keeps M s (passFrames t d n m) := by
  unfold passFrames
  repeat' first
    | with_reducible assumption
    | with_reducible exact Keeps.refl _
    | with_reducible exact Or.inr rfl
    | (with_reducible intro _)
    | (extract_lets +onlyGivenNames v_; clear_value v_; rename' v_ => w_)
    | with_reducible apply gtPut_keeps
    | (with_reducible refine foldl_keeps (fun _ _ _ => ?_) ?_)
    | (with_reducible refine foldl_keeps1 (fun _ _ _ => ?_) ?_)
    | split

theorem freeOldest_keeps (hm : Sub 0x8000040 M) (g : Nat) (d : BitVec 256) (a3 : Nat) (h : Keeps M s t) :
    Keeps M s (freeOldest t g d a3) := by
  induction a3 generalizing t with
  | zero => exact h
  | succ n ih =>
    rw [freeOldest]; dsimp only; split
    · exact h
    · split
      · exact ih (modStage_keeps (hm.of rfl) _ _ (passFrames_keeps (hm.of rfl) _ _ _ h))
      · exact h

theorem freeEds_keeps (hm : Sub 0x8000040 M) (g : Nat) (h : Keeps M s t) :
    Keeps M s (freeEds t g) := by
  unfold freeEds
  repeat' first
    | with_reducible assumption
    | with_reducible exact Keeps.refl _
    | with_reducible exact Or.inr rfl
    | with_reducible apply freeOldest_keeps
    | split

theorem dropPending_keeps (hm : Sub 0x8000000 M) (g : Nat) (k : BitVec 40) (h : Keeps M s t) :
    Keeps M s (dropPending t g k) := by
  unfold dropPending
  repeat' first
    | with_reducible assumption
    | with_reducible exact Keeps.refl _
    | with_reducible exact Or.inr rfl
    | (extract_lets +onlyGivenNames v_; clear_value v_; rename' v_ => w_)
    | with_reducible apply modStage_keeps
    | split

theorem flipStage_keeps (hm : Sub 0x8020040 M) (g : Nat) (k : BitVec 40) (h : Keeps M s t) :
    Keeps M s (flipStage t g k) := by
  unfold flipStage
  repeat' first
    | with_reducible assumption
    | with_reducible exact Keeps.refl _
    | ((with_reducible refine hm.of ?_); exact rfl)
    | with_reducible exact Or.inr rfl
    | (extract_lets +onlyGivenNames v_
       first
       | (have hv_ : Keeps M s v_ := ?_; (on_goal 1 => (clear_value v_; rename' v_ => w_)); (on_goal 2 => (unfold v_; clear v_)))
       | (clear_value v_; rename' v_ => w_))
    | with_reducible apply freeEds_keeps
    | with_reducible apply modStage_keeps
    | with_reducible apply postB_keeps
    | split

theorem skipStage_keeps (hm : Sub 0x8000040 M) (g : Nat) (k : BitVec 40) (h : Keeps M s t) :
    Keeps M s (skipStage t g k) := by
  unfold skipStage
  repeat' first
    | with_reducible assumption
    | with_reducible exact Keeps.refl _
    | ((with_reducible refine hm.of ?_); exact rfl)
    | with_reducible exact Or.inr rfl
    | (extract_lets +onlyGivenNames v_
       first
       | (have hv_ : Keeps M s v_ := ?_; (on_goal 1 => (clear_value v_; rename' v_ => w_)); (on_goal 2 => (unfold v_; clear v_)))
       | (clear_value v_; rename' v_ => w_))
    | with_reducible apply freeEds_keeps
    | with_reducible apply modStage_keeps
    | with_reducible apply dropPending_keeps
    | split

theorem qstatPut_keeps (hm : Sub 0x40 M) (l : Layer) (h0 : Nat) (i : Nat) (mx : Val) (mn : Val) (h : Keeps M s t) :
    Keeps M s (qstatPut t l h0 i mx mn) := by
  unfold qstatPut
  repeat' first
    | with_reducible assumption
    | with_reducible exact Keeps.refl _
    | with_reducible exact Or.inr rfl
    | with_reducible apply wrMem_keeps

theorem qstatReset_keeps (hm : Sub 0x40 M) (l : Layer) (h0 : Nat) (h : Keeps M s t) :
    Keeps M s (qstatReset t l h0) := by
  unfold qstatReset
  repeat' first
    | with_reducible assumption
    | with_reducible exact Keeps.refl _
    | with_reducible exact Or.inr rfl
    | (with_reducible intro _)
    | with_reducible apply qstatPut_keeps
    | (with_reducible refine foldl_keeps (fun _ _ _ => ?_) ?_)

theorem qstatAdd_keeps (hm : Sub 0x40 M) (l : Layer) (h0 : Nat) (i : Nat) (vs : List Val) (h : Keeps M s t) :
    Keeps M s (qstatAdd t l h0 i vs) := by
  unfold qstatAdd
  repeat' first
    | with_reducible assumption
    | with_reducible exact Keeps.refl _
    | with_reducible exact Or.inr rfl
    | (with_reducible intro _)
    | (extract_lets +onlyGivenNames v_; clear_value v_; rename' v_ => w_)
    | with_reducible apply qstatPut_keeps
    | (with_reducible refine foldl_keeps (fun _ _ _ => ?_) ?_)
    | (with_reducible refine foldl_keeps1 (fun _ _ _ => ?_) ?_)
    | split

theorem judgeQuant_keeps (hm : Sub 0x420010 M) (l : Layer) (n : BitVec 20) (t0 : QTensor) (pins : Nat)
    (h : Keeps M s t) :
    Keeps M s (judgeQuant t l n t0 pins).1 := by
  unfold judgeQuant
  repeat' first
    | with_reducible assumption
    | with_reducible exact Keeps.refl _
    | ((with_reducible refine hm.of ?_); exact rfl)
    | ((with_reducible refine Or.inl (hm.bit ?_)); exact rfl)
    | with_reducible exact Or.inr rfl
    | (extract_lets +onlyGivenNames v_
       first
       | (have hv_ : Keeps M s v_ := ?_; (on_goal 1 => (clear_value v_; rename' v_ => w_)); (on_goal 2 => (unfold v_; clear v_)))
       | (clear_value v_; rename' v_ => w_))
    | with_reducible apply modRun_keeps
    | with_reducible apply postDenied_keeps
    | with_reducible apply post_keeps
    | (with_reducible refine fst_keeps (by with_reducible assumption) ?_)
    | split
    | with_reducible apply mk_keeps

theorem countTensor_keeps (hm : Sub 0x20000000 M) (l : Layer) (h : Keeps M s t) :
    Keeps M s (countTensor t l) := by
  unfold countTensor
  repeat' first
    | with_reducible assumption
    | with_reducible exact Keeps.refl _
    | with_reducible exact Or.inr rfl
    | with_reducible apply modLayer_keeps

theorem countRows_keeps (hm : Sub 0x30008040 M) (l : Layer) (t0 : QTensor) (k : BitVec 40) (g : Option Nat)
    (x : List (List (Val × BitVec 8))) (fl : BitVec 8) (h : Keeps M s t) :
    Keeps M s (countRows t l t0 k g x fl) := by
  unfold countRows
  repeat' first
    | with_reducible assumption
    | with_reducible exact Keeps.refl _
    | ((with_reducible refine hm.of ?_); exact rfl)
    | with_reducible exact Or.inr rfl
    | (with_reducible intro _)
    | (extract_lets +onlyGivenNames v_
       first
       | (have hv_ : Keeps M s v_ := ?_; (on_goal 1 => (clear_value v_; rename' v_ => w_)); (on_goal 2 => (unfold v_; clear v_)))
       | (clear_value v_; rename' v_ => w_))
    | with_reducible apply qstatAdd_keeps
    | with_reducible apply modLayer_keeps
    | with_reducible apply countEff_keeps
    | with_reducible apply setFlags_keeps
    | (with_reducible refine foldl_keeps (fun _ _ _ => ?_) ?_)
    | (with_reducible refine foldl_keeps1 (fun _ _ _ => ?_) ?_)
    | (with_reducible refine fst_keeps (by with_reducible assumption) ?_)
    | split

theorem runQuant_keeps (hm : Sub 0x30428050 M) (l : Layer) (n : BitVec 20) (k : BitVec 40) (g : Option Nat)
    (x : List (List (Val × BitVec 8))) (fl : BitVec 8) (h : Keeps M s t) :
    Keeps M s (runQuant t l n k g x fl).1 := by
  unfold runQuant
  repeat' first
    | with_reducible assumption
    | with_reducible exact Keeps.refl _
    | ((with_reducible refine hm.of ?_); exact rfl)
    | with_reducible exact Or.inr rfl
    | (extract_lets +onlyGivenNames v_
       first
       | (have hv_ : Keeps M s v_.1 := ?_; (on_goal 1 => (clear_value v_; rename' v_ => w_)); (on_goal 2 => (unfold v_; clear v_)))
       | (clear_value v_; rename' v_ => w_))
    | with_reducible apply modLayer_keeps
    | with_reducible apply countRows_keeps
    | with_reducible apply judgeQuant_keeps

theorem pendBounds_keeps (hm : Sub 0x20000010 M) (l : Layer) (k : BitVec 40) (h : Keeps M s t) :
    Keeps M s (pendBounds t l k) := by
  unfold pendBounds
  repeat' first
    | with_reducible assumption
    | with_reducible exact Keeps.refl _
    | ((with_reducible refine hm.of ?_); exact rfl)
    | ((with_reducible refine Or.inl (hm.bit ?_)); exact rfl)
    | with_reducible exact Or.inr rfl
    | (with_reducible intro _)
    | (extract_lets +onlyGivenNames v_
       first
       | (have hv_ : Keeps M s v_ := ?_; (on_goal 1 => (clear_value v_; rename' v_ => w_)); (on_goal 2 => (unfold v_; clear v_)))
       | (clear_value v_; rename' v_ => w_))
    | with_reducible apply modLayer_keeps
    | (with_reducible refine foldl_keeps (fun _ _ _ => ?_) ?_)
    | (with_reducible refine foldl_keeps1 (fun _ _ _ => ?_) ?_)
    | split
    | with_reducible apply mk_keeps

theorem writeBounds_keeps (hm : Sub 0x20020000 M) (l : Layer) (k : BitVec 40) (h : Keeps M s t) :
    Keeps M s (writeBounds t l k) := by
  unfold writeBounds
  repeat' first
    | with_reducible assumption
    | with_reducible exact Keeps.refl _
    | ((with_reducible refine hm.of ?_); exact rfl)
    | with_reducible exact Or.inr rfl
    | (with_reducible intro _)
    | (extract_lets +onlyGivenNames v_
       first
       | (have hv_ : Keeps M s v_ := ?_; (on_goal 1 => (clear_value v_; rename' v_ => w_)); (on_goal 2 => (unfold v_; clear v_)))
       | (clear_value v_; rename' v_ => w_))
    | with_reducible apply modLayer_keeps
    | with_reducible apply post_keeps
    | (with_reducible refine foldl_keeps (fun _ _ _ => ?_) ?_)
    | (with_reducible refine foldl_keeps1 (fun _ _ _ => ?_) ?_)
    | (with_reducible refine fst_keeps (by with_reducible assumption) ?_)
    | split

theorem addWait_keeps (hm : Sub 0x8000 M) (ctx : BitVec 6) (ns : Nat) (h : Keeps M s t) :
    Keeps M s (addWait t ctx ns) := by
  unfold addWait
  repeat' first
    | with_reducible assumption
    | with_reducible exact Keeps.refl _
    | with_reducible exact Or.inr rfl
    | with_reducible apply modCtx_keeps

theorem takeStart_keeps (hm : Sub 0x48000 M) (c : CoreId) (e : StartEnt) (h : Keeps M s t) :
    Keeps M s (takeStart t c e) := by
  unfold takeStart
  repeat' first
    | with_reducible assumption
    | with_reducible exact Keeps.refl _
    | ((with_reducible refine hm.of ?_); exact rfl)
    | with_reducible exact Or.inr rfl
    | (extract_lets +onlyGivenNames v_
       have hv_ : Keeps M s v_ := ?_; (on_goal 1 => (clear_value v_; rename' v_ => w_)); (on_goal 2 => (unfold v_; clear v_)))
    | with_reducible apply addWait_keeps
    | with_reducible apply modCore_keeps
    | split

theorem atHalt_keeps (hm : Sub 0x48000 M) (c : CoreId) (h : Keeps M s t) :
    Keeps M s (atHalt t c) := by
  unfold atHalt
  repeat' first
    | with_reducible assumption
    | with_reducible exact Keeps.refl _
    | ((with_reducible refine hm.of ?_); exact rfl)
    | with_reducible exact Or.inr rfl
    | (extract_lets +onlyGivenNames v_; clear_value v_; rename' v_ => w_)
    | with_reducible apply takeStart_keeps
    | with_reducible apply modCore_keeps
    | split

theorem dispatchEnv_keeps (hm : Sub 0xc0040 M) (c : CoreId) (v : Envelope) (rest : List Envelope) (h : Keeps M s t) :
    Keeps M s (dispatchEnv t c v rest) := by
  unfold dispatchEnv
  repeat' first
    | with_reducible assumption
    | with_reducible exact Keeps.refl _
    | ((with_reducible refine hm.of ?_); exact rfl)
    | with_reducible exact Or.inr rfl
    | (extract_lets +onlyGivenNames v_
       first
       | (have hv_ : Keeps M s v_ := ?_; (on_goal 1 => (clear_value v_; rename' v_ => w_)); (on_goal 2 => (unfold v_; clear v_)))
       | (clear_value v_; rename' v_ => w_))
    | with_reducible apply modPort_keeps
    | with_reducible apply spWrite_keeps
    | with_reducible apply modCore_keeps

theorem launch_keeps (hm : Sub 0x1c00220008 M) (c : CoreId) (e : Fin 16) (o : OutEnt) (h : Keeps M s t) :
    Keeps M s (launch t c e o) := by
  unfold launch
  repeat' first
    | with_reducible assumption
    | with_reducible exact Keeps.refl _
    | ((with_reducible refine hm.of ?_); exact rfl)
    | ((with_reducible refine Or.inl (hm.bit ?_)); exact rfl)
    | with_reducible exact Or.inr rfl
    | (extract_lets +onlyGivenNames v_; clear_value v_; rename' v_ => w_)
    | with_reducible apply sendReq_keeps
    | split
    | with_reducible apply mk_keeps

theorem sendEnv_keeps (hm : Sub 0x1c002a0008 M) (c : CoreId) (i : Nat) (a : Word) (h : Keeps M s t) :
    Keeps M s (sendEnv t c i a) := by
  unfold sendEnv
  repeat' first
    | with_reducible assumption
    | with_reducible exact Keeps.refl _
    | ((with_reducible refine hm.of ?_); exact rfl)
    | with_reducible exact Or.inr rfl
    | (extract_lets +onlyGivenNames v_
       first
       | (have hv_ : Keeps M s v_ := ?_; (on_goal 1 => (clear_value v_; rename' v_ => w_)); (on_goal 2 => (unfold v_; clear v_)))
       | (clear_value v_; rename' v_ => w_))
    | with_reducible apply modPort_keeps
    | with_reducible apply launch_keeps
    | with_reducible apply trace_keeps

theorem done_keeps (hm : Sub 0x40000 M) (c : CoreId) (k : Core) (h : Keeps M s t) :
    Keeps M s (done t c k) := by
  unfold done
  repeat' first
    | with_reducible assumption
    | with_reducible exact Keeps.refl _
    | with_reducible exact Or.inr rfl
    | with_reducible apply setCore_keeps

theorem scu_keeps (hm : Sub 0x460000 M) (c : CoreId) (w : W56) (used : W56) (reads : List (BitVec 5))
    (f : Core → State) (h : Keeps M s t) (hf_f : ∀ y0, Keeps M s (f y0)) :
    KeepsR M s (scu t c w used reads f) := by
  unfold scu
  repeat' first
    | with_reducible assumption
    | with_reducible exact Keeps.refl _
    | ((with_reducible refine hm.of ?_); exact rfl)
    | with_reducible exact Or.inr rfl
    | (with_reducible intro _)
    | with_reducible apply hf_f
    | with_reducible apply issue_keeps
    | with_reducible apply setCore_keeps
    | with_reducible apply coreFault_keeps
    | with_reducible apply next_keeps
    | with_reducible exact fault_keeps _
    | with_reducible apply id_keeps
    | split

theorem alu_keeps (hm : Sub 0x460000 M) (c : CoreId) (w : W56) (f : Word → Word → Word) (h : Keeps M s t) :
    KeepsR M s (alu t c w f) := by
  unfold alu
  repeat' first
    | with_reducible assumption
    | with_reducible exact Keeps.refl _
    | ((with_reducible refine hm.of ?_); exact rfl)
    | with_reducible exact Or.inr rfl
    | (with_reducible intro _)
    | with_reducible apply done_keeps
    | with_reducible apply scu_keeps

theorem execAdd_keeps (hm : Sub 0x460000 M) (c : CoreId) (w : W56) (h : Keeps M s t) :
    KeepsR M s (execAdd c w t) := by
  unfold execAdd
  repeat' first
    | with_reducible assumption
    | with_reducible exact Keeps.refl _
    | with_reducible exact Or.inr rfl
    | with_reducible apply alu_keeps

theorem execSub_keeps (hm : Sub 0x460000 M) (c : CoreId) (w : W56) (h : Keeps M s t) :
    KeepsR M s (execSub c w t) := by
  unfold execSub
  repeat' first
    | with_reducible assumption
    | with_reducible exact Keeps.refl _
    | with_reducible exact Or.inr rfl
    | with_reducible apply alu_keeps

theorem execAnd_keeps (hm : Sub 0x460000 M) (c : CoreId) (w : W56) (h : Keeps M s t) :
    KeepsR M s (execAnd c w t) := by
  unfold execAnd
  repeat' first
    | with_reducible assumption
    | with_reducible exact Keeps.refl _
    | with_reducible exact Or.inr rfl
    | with_reducible apply alu_keeps

theorem execOr_keeps (hm : Sub 0x460000 M) (c : CoreId) (w : W56) (h : Keeps M s t) :
    KeepsR M s (execOr c w t) := by
  unfold execOr
  repeat' first
    | with_reducible assumption
    | with_reducible exact Keeps.refl _
    | with_reducible exact Or.inr rfl
    | with_reducible apply alu_keeps

theorem execXor_keeps (hm : Sub 0x460000 M) (c : CoreId) (w : W56) (h : Keeps M s t) :
    KeepsR M s (execXor c w t) := by
  unfold execXor
  repeat' first
    | with_reducible assumption
    | with_reducible exact Keeps.refl _
    | with_reducible exact Or.inr rfl
    | with_reducible apply alu_keeps

theorem execShl_keeps (hm : Sub 0x460000 M) (c : CoreId) (w : W56) (h : Keeps M s t) :
    KeepsR M s (execShl c w t) := by
  unfold execShl
  repeat' first
    | with_reducible assumption
    | with_reducible exact Keeps.refl _
    | with_reducible exact Or.inr rfl
    | with_reducible apply alu_keeps

theorem execShr_keeps (hm : Sub 0x460000 M) (c : CoreId) (w : W56) (h : Keeps M s t) :
    KeepsR M s (execShr c w t) := by
  unfold execShr
  repeat' first
    | with_reducible assumption
    | with_reducible exact Keeps.refl _
    | with_reducible exact Or.inr rfl
    | with_reducible apply alu_keeps

theorem execSar_keeps (hm : Sub 0x460000 M) (c : CoreId) (w : W56) (h : Keeps M s t) :
    KeepsR M s (execSar c w t) := by
  unfold execSar
  repeat' first
    | with_reducible assumption
    | with_reducible exact Keeps.refl _
    | with_reducible exact Or.inr rfl
    | with_reducible apply alu_keeps

theorem execMul_keeps (hm : Sub 0x460000 M) (c : CoreId) (w : W56) (h : Keeps M s t) :
    KeepsR M s (execMul c w t) := by
  unfold execMul
  repeat' first
    | with_reducible assumption
    | with_reducible exact Keeps.refl _
    | with_reducible exact Or.inr rfl
    | with_reducible apply alu_keeps

theorem execCmpEq_keeps (hm : Sub 0x460000 M) (c : CoreId) (w : W56) (h : Keeps M s t) :
    KeepsR M s (execCmpEq c w t) := by
  unfold execCmpEq
  repeat' first
    | with_reducible assumption
    | with_reducible exact Keeps.refl _
    | with_reducible exact Or.inr rfl
    | with_reducible apply alu_keeps

theorem execCmpLt_keeps (hm : Sub 0x460000 M) (c : CoreId) (w : W56) (h : Keeps M s t) :
    KeepsR M s (execCmpLt c w t) := by
  unfold execCmpLt
  repeat' first
    | with_reducible assumption
    | with_reducible exact Keeps.refl _
    | with_reducible exact Or.inr rfl
    | with_reducible apply alu_keeps

theorem execCmpLtu_keeps (hm : Sub 0x460000 M) (c : CoreId) (w : W56) (h : Keeps M s t) :
    KeepsR M s (execCmpLtu c w t) := by
  unfold execCmpLtu
  repeat' first
    | with_reducible assumption
    | with_reducible exact Keeps.refl _
    | with_reducible exact Or.inr rfl
    | with_reducible apply alu_keeps

theorem execAddi_keeps (hm : Sub 0x460000 M) (c : CoreId) (w : W56) (h : Keeps M s t) :
    KeepsR M s (execAddi c w t) := by
  unfold execAddi
  repeat' first
    | with_reducible assumption
    | with_reducible exact Keeps.refl _
    | ((with_reducible refine hm.of ?_); exact rfl)
    | with_reducible exact Or.inr rfl
    | (with_reducible intro _)
    | with_reducible apply done_keeps
    | with_reducible apply scu_keeps

theorem execLi_keeps (hm : Sub 0x460000 M) (c : CoreId) (w : W56) (h : Keeps M s t) :
    KeepsR M s (execLi c w t) := by
  unfold execLi
  repeat' first
    | with_reducible assumption
    | with_reducible exact Keeps.refl _
    | ((with_reducible refine hm.of ?_); exact rfl)
    | with_reducible exact Or.inr rfl
    | (with_reducible intro _)
    | with_reducible apply done_keeps
    | with_reducible apply scu_keeps

theorem execLih_keeps (hm : Sub 0x460000 M) (c : CoreId) (w : W56) (h : Keeps M s t) :
    KeepsR M s (execLih c w t) := by
  unfold execLih
  repeat' first
    | with_reducible assumption
    | with_reducible exact Keeps.refl _
    | ((with_reducible refine hm.of ?_); exact rfl)
    | with_reducible exact Or.inr rfl
    | (with_reducible intro _)
    | with_reducible apply done_keeps
    | with_reducible apply scu_keeps

theorem jump_keeps (hm : Sub 0x40000 M) (c : CoreId) (k : Core) (t0 : BitVec 11) (h : Keeps M s t) :
    Keeps M s (jump t c k t0) := by
  unfold jump
  repeat' first
    | with_reducible assumption
    | with_reducible exact Keeps.refl _
    | with_reducible exact Or.inr rfl
    | with_reducible apply setCore_keeps

theorem execBeqz_keeps (hm : Sub 0x460000 M) (c : CoreId) (w : W56) (h : Keeps M s t) :
    KeepsR M s (execBeqz c w t) := by
  unfold execBeqz
  repeat' first
    | with_reducible assumption
    | with_reducible exact Keeps.refl _
    | ((with_reducible refine hm.of ?_); exact rfl)
    | with_reducible exact Or.inr rfl
    | (with_reducible intro _)
    | with_reducible apply done_keeps
    | with_reducible apply jump_keeps
    | with_reducible apply scu_keeps
    | with_reducible apply next_keeps
    | with_reducible exact fault_keeps _
    | with_reducible apply id_keeps
    | split

theorem execBnez_keeps (hm : Sub 0x460000 M) (c : CoreId) (w : W56) (h : Keeps M s t) :
    KeepsR M s (execBnez c w t) := by
  unfold execBnez
  repeat' first
    | with_reducible assumption
    | with_reducible exact Keeps.refl _
    | ((with_reducible refine hm.of ?_); exact rfl)
    | with_reducible exact Or.inr rfl
    | (with_reducible intro _)
    | with_reducible apply done_keeps
    | with_reducible apply jump_keeps
    | with_reducible apply scu_keeps
    | with_reducible apply next_keeps
    | with_reducible exact fault_keeps _
    | with_reducible apply id_keeps
    | split

theorem execJmp_keeps (hm : Sub 0x460000 M) (c : CoreId) (w : W56) (h : Keeps M s t) :
    KeepsR M s (execJmp c w t) := by
  unfold execJmp
  repeat' first
    | with_reducible assumption
    | with_reducible exact Keeps.refl _
    | ((with_reducible refine hm.of ?_); exact rfl)
    | with_reducible exact Or.inr rfl
    | (with_reducible intro _)
    | with_reducible apply jump_keeps
    | with_reducible apply scu_keeps

theorem execJr_keeps (hm : Sub 0x460000 M) (c : CoreId) (w : W56) (h : Keeps M s t) :
    KeepsR M s (execJr c w t) := by
  unfold execJr
  repeat' first
    | with_reducible assumption
    | with_reducible exact Keeps.refl _
    | ((with_reducible refine hm.of ?_); exact rfl)
    | with_reducible exact Or.inr rfl
    | (with_reducible intro _)
    | with_reducible apply jump_keeps
    | with_reducible apply setCore_keeps
    | with_reducible apply coreFault_keeps
    | with_reducible apply scu_keeps
    | with_reducible apply next_keeps
    | with_reducible exact fault_keeps _
    | with_reducible apply id_keeps
    | split

theorem execLoop_keeps (hm : Sub 0x460010 M) (c : CoreId) (w : W56) (h : Keeps M s t) :
    KeepsR M s (execLoop c w t) := by
  unfold execLoop
  repeat' first
    | with_reducible assumption
    | with_reducible exact Keeps.refl _
    | ((with_reducible refine hm.of ?_); exact rfl)
    | ((with_reducible refine Or.inl (hm.bit ?_)); exact rfl)
    | with_reducible exact Or.inr rfl
    | (with_reducible intro _)
    | (extract_lets +onlyGivenNames v_
       have hv_ : Keeps M s v_ := ?_; (on_goal 1 => (clear_value v_; rename' v_ => w_)); (on_goal 2 => (unfold v_; clear v_)))
    | with_reducible apply done_keeps
    | with_reducible apply setCore_keeps
    | with_reducible apply coreFault_keeps
    | with_reducible apply scu_keeps
    | with_reducible apply next_keeps
    | with_reducible exact fault_keeps _
    | with_reducible apply id_keeps
    | split
    | with_reducible apply mk_keeps

theorem execNop_keeps (hm : Sub 0x460000 M) (c : CoreId) (w : W56) (h : Keeps M s t) :
    KeepsR M s (execNop c w t) := by
  unfold execNop
  repeat' first
    | with_reducible assumption
    | with_reducible exact Keeps.refl _
    | ((with_reducible refine hm.of ?_); exact rfl)
    | with_reducible exact Or.inr rfl
    | (with_reducible intro _)
    | with_reducible apply done_keeps
    | with_reducible apply scu_keeps

theorem execHalt_keeps (hm : Sub 0x468000 M) (c : CoreId) (w : W56) (h : Keeps M s t) :
    KeepsR M s (execHalt c w t) := by
  unfold execHalt
  repeat' first
    | with_reducible assumption
    | with_reducible exact Keeps.refl _
    | ((with_reducible refine hm.of ?_); exact rfl)
    | with_reducible exact Or.inr rfl
    | (with_reducible intro _)
    | with_reducible apply atHalt_keeps
    | with_reducible apply setCore_keeps
    | with_reducible apply coreFault_keeps
    | with_reducible apply scu_keeps
    | with_reducible apply next_keeps
    | with_reducible exact fault_keeps _
    | with_reducible apply id_keeps
    | split

theorem execLdS_keeps (hm : Sub 0x460000 M) (c : CoreId) (w : W56) (h : Keeps M s t) :
    KeepsR M s (execLdS c w t) := by
  unfold execLdS
  repeat' first
    | with_reducible assumption
    | with_reducible exact Keeps.refl _
    | ((with_reducible refine hm.of ?_); exact rfl)
    | with_reducible exact Or.inr rfl
    | (with_reducible intro _)
    | with_reducible apply done_keeps
    | with_reducible apply setCore_keeps
    | with_reducible apply coreFault_keeps
    | with_reducible apply scu_keeps
    | with_reducible apply next_keeps
    | with_reducible exact fault_keeps _
    | with_reducible apply id_keeps
    | split

theorem execStS_keeps (hm : Sub 0x460040 M) (c : CoreId) (w : W56) (h : Keeps M s t) :
    KeepsR M s (execStS c w t) := by
  unfold execStS
  repeat' first
    | with_reducible assumption
    | with_reducible exact Keeps.refl _
    | ((with_reducible refine hm.of ?_); exact rfl)
    | with_reducible exact Or.inr rfl
    | (with_reducible intro _)
    | with_reducible apply done_keeps
    | with_reducible apply spWrite_keeps
    | with_reducible apply setCore_keeps
    | with_reducible apply coreFault_keeps
    | with_reducible apply scu_keeps
    | with_reducible apply next_keeps
    | with_reducible exact fault_keeps _
    | with_reducible apply id_keeps
    | split

theorem execPmNow_keeps (hm : Sub 0x460000 M) (c : CoreId) (w : W56) (h : Keeps M s t) :
    KeepsR M s (execPmNow c w t) := by
  unfold execPmNow
  repeat' first
    | with_reducible assumption
    | with_reducible exact Keeps.refl _
    | ((with_reducible refine hm.of ?_); exact rfl)
    | with_reducible exact Or.inr rfl
    | (with_reducible intro _)
    | with_reducible apply done_keeps
    | with_reducible apply scu_keeps

theorem execPmStep_keeps (hm : Sub 0x460000 M) (c : CoreId) (w : W56) (h : Keeps M s t) :
    KeepsR M s (execPmStep c w t) := by
  unfold execPmStep
  repeat' first
    | with_reducible assumption
    | with_reducible exact Keeps.refl _
    | ((with_reducible refine hm.of ?_); exact rfl)
    | with_reducible exact Or.inr rfl
    | (with_reducible intro _)
    | with_reducible apply done_keeps
    | with_reducible apply scu_keeps

theorem execFence_keeps (hm : Sub 0x460000 M) (c : CoreId) (w : W56) (h : Keeps M s t) :
    KeepsR M s (execFence c w t) := by
  unfold execFence
  repeat' first
    | with_reducible assumption
    | with_reducible exact Keeps.refl _
    | ((with_reducible refine hm.of ?_); exact rfl)
    | with_reducible exact Or.inr rfl
    | (with_reducible intro _)
    | with_reducible apply done_keeps
    | with_reducible apply scu_keeps

theorem execWaitPm_keeps (hm : Sub 0x460000 M) (c : CoreId) (w : W56) (h : Keeps M s t) :
    KeepsR M s (execWaitPm c w t) := by
  unfold execWaitPm
  repeat' first
    | with_reducible assumption
    | with_reducible exact Keeps.refl _
    | ((with_reducible refine hm.of ?_); exact rfl)
    | with_reducible exact Or.inr rfl
    | (with_reducible intro _)
    | with_reducible apply done_keeps
    | with_reducible apply setCore_keeps
    | with_reducible apply coreFault_keeps
    | with_reducible apply scu_keeps
    | with_reducible apply next_keeps
    | with_reducible exact fault_keeps _
    | with_reducible apply id_keeps
    | split

theorem execWaitRcpt_keeps (hm : Sub 0x460000 M) (c : CoreId) (w : W56) (h : Keeps M s t) :
    KeepsR M s (execWaitRcpt c w t) := by
  unfold execWaitRcpt
  repeat' first
    | with_reducible assumption
    | with_reducible exact Keeps.refl _
    | ((with_reducible refine hm.of ?_); exact rfl)
    | with_reducible exact Or.inr rfl
    | (with_reducible intro _)
    | (extract_lets +onlyGivenNames v_; clear_value v_; rename' v_ => w_)
    | with_reducible apply done_keeps
    | with_reducible apply setCore_keeps
    | with_reducible apply coreFault_keeps
    | with_reducible apply scu_keeps
    | with_reducible apply next_keeps
    | with_reducible exact fault_keeps _
    | with_reducible apply id_keeps
    | split

theorem execSend_keeps (hm : Sub 0x1c006e0008 M) (c : CoreId) (w : W56) (h : Keeps M s t) :
    KeepsR M s (execSend c w t) := by
  unfold execSend
  repeat' first
    | with_reducible assumption
    | with_reducible exact Keeps.refl _
    | ((with_reducible refine hm.of ?_); exact rfl)
    | with_reducible exact Or.inr rfl
    | (with_reducible intro _)
    | (extract_lets +onlyGivenNames v_; clear_value v_; rename' v_ => w_)
    | with_reducible apply done_keeps
    | with_reducible apply setCore_keeps
    | with_reducible apply coreFault_keeps
    | with_reducible apply sendEnv_keeps
    | with_reducible apply scu_keeps
    | with_reducible apply next_keeps
    | with_reducible exact fault_keeps _
    | with_reducible apply id_keeps
    | split

theorem execArm_keeps (hm : Sub 0x4e0000 M) (c : CoreId) (w : W56) (h : Keeps M s t) :
    KeepsR M s (execArm c w t) := by
  unfold execArm
  repeat' first
    | with_reducible assumption
    | with_reducible exact Keeps.refl _
    | ((with_reducible refine hm.of ?_); exact rfl)
    | with_reducible exact Or.inr rfl
    | (with_reducible intro _)
    | with_reducible apply done_keeps
    | with_reducible apply modPort_keeps
    | with_reducible apply scu_keeps

theorem execRcptAdd_keeps (hm : Sub 0x1c00c60008 M) (c : CoreId) (w : W56) (h : Keeps M s t) :
    KeepsR M s (execRcptAdd c w t) := by
  unfold execRcptAdd
  repeat' first
    | with_reducible assumption
    | with_reducible exact Keeps.refl _
    | ((with_reducible refine hm.of ?_); exact rfl)
    | with_reducible exact Or.inr rfl
    | (with_reducible intro _)
    | (extract_lets +onlyGivenNames v_
       first
       | (have hv_ : Keeps M s v_ := ?_; (on_goal 1 => (clear_value v_; rename' v_ => w_)); (on_goal 2 => (unfold v_; clear v_)))
       | (clear_value v_; rename' v_ => w_))
    | with_reducible apply done_keeps
    | with_reducible apply addReceipt_keeps
    | with_reducible apply sendReq_keeps
    | with_reducible apply setCore_keeps
    | with_reducible apply coreFault_keeps
    | with_reducible apply scu_keeps
    | with_reducible apply next_keeps
    | with_reducible exact fault_keeps _
    | with_reducible apply id_keeps
    | split

theorem execRcptRead_keeps (hm : Sub 0x460000 M) (c : CoreId) (w : W56) (h : Keeps M s t) :
    KeepsR M s (execRcptRead c w t) := by
  unfold execRcptRead
  repeat' first
    | with_reducible assumption
    | with_reducible exact Keeps.refl _
    | ((with_reducible refine hm.of ?_); exact rfl)
    | with_reducible exact Or.inr rfl
    | (with_reducible intro _)
    | with_reducible apply done_keeps
    | with_reducible apply scu_keeps

theorem execHmask_keeps (hm : Sub 0x4e0000 M) (c : CoreId) (w : W56) (h : Keeps M s t) :
    KeepsR M s (execHmask c w t) := by
  unfold execHmask
  repeat' first
    | with_reducible assumption
    | with_reducible exact Keeps.refl _
    | ((with_reducible refine hm.of ?_); exact rfl)
    | with_reducible exact Or.inr rfl
    | (with_reducible intro _)
    | with_reducible apply done_keeps
    | with_reducible apply modPort_keeps
    | with_reducible apply scu_keeps

theorem hretAdd_keeps (hm : Sub 0x820000 M) (c : CoreId) (h0 : Handler) (h : Keeps M s t) :
    Keeps M s (hretAdd t c h0) := by
  unfold hretAdd
  repeat' first
    | with_reducible assumption
    | with_reducible exact Keeps.refl _
    | ((with_reducible refine hm.of ?_); exact rfl)
    | with_reducible exact Or.inr rfl
    | with_reducible apply addReceipt_keeps
    | with_reducible apply post_keeps
    | (with_reducible refine fst_keeps (by with_reducible assumption) ?_)
    | split

theorem execHret_keeps (hm : Sub 0xc68000 M) (c : CoreId) (w : W56) (h : Keeps M s t) :
    KeepsR M s (execHret c w t) := by
  unfold execHret
  repeat' first
    | with_reducible assumption
    | with_reducible exact Keeps.refl _
    | ((with_reducible refine hm.of ?_); exact rfl)
    | with_reducible exact Or.inr rfl
    | (with_reducible intro _)
    | (extract_lets +onlyGivenNames v_
       have hv_ : Keeps M s v_ := ?_; (on_goal 1 => (clear_value v_; rename' v_ => w_)); (on_goal 2 => (unfold v_; clear v_)))
    | with_reducible apply atHalt_keeps
    | with_reducible apply hretAdd_keeps
    | with_reducible apply setCore_keeps
    | with_reducible apply coreFault_keeps
    | with_reducible apply scu_keeps
    | with_reducible apply next_keeps
    | with_reducible exact fault_keeps _
    | with_reducible apply id_keeps
    | split

theorem pushMsos_keeps (hm : Sub 0x10000000000 M) (c : CoreId) (x : Xfer) (a : Nat) (a4 : List Byte) (a5 : Nat)
    (h : Keeps M s t) :
    Keeps M s (pushMsos t c x a a4 a5) := by
  induction a5 generalizing t a a4 with
  | zero => rw [pushMsos]; exact h
  | succ n ih => exact ih _ _ (modHub_keeps (hm.of rfl) _ _ h)

theorem xferBegin_keeps (hm : Sub 0x10000080000 M) (c : CoreId) (h : Keeps M s t) :
    Keeps M s (xferBegin t c) := by
  unfold xferBegin
  repeat' first
    | with_reducible assumption
    | with_reducible exact Keeps.refl _
    | ((with_reducible refine hm.of ?_); exact rfl)
    | with_reducible exact Or.inr rfl
    | with_reducible apply pushMsos_keeps
    | with_reducible apply modPort_keeps
    | split

theorem xferIssue_keeps (hm : Sub 0x100004e0000 M) (out : Bool) (c : CoreId) (w : W56) (h : Keeps M s t) :
    KeepsR M s (xferIssue out c w t) := by
  unfold xferIssue
  repeat' first
    | with_reducible assumption
    | with_reducible exact Keeps.refl _
    | ((with_reducible refine hm.of ?_); exact rfl)
    | with_reducible exact Or.inr rfl
    | (with_reducible intro _)
    | (extract_lets +onlyGivenNames v_
       first
       | (have hv_ : Keeps M s v_ := ?_; (on_goal 1 => (clear_value v_; rename' v_ => w_)); (on_goal 2 => (unfold v_; clear v_)))
       | (clear_value v_; rename' v_ => w_))
    | with_reducible apply done_keeps
    | with_reducible apply modPort_keeps
    | with_reducible apply xferBegin_keeps
    | with_reducible apply issue_keeps
    | with_reducible apply setCore_keeps
    | with_reducible apply trace_keeps
    | with_reducible apply coreFault_keeps
    | with_reducible apply next_keeps
    | with_reducible exact fault_keeps _
    | (with_reducible refine fst_keeps (by with_reducible assumption) ?_)
    | with_reducible apply id_keeps
    | split

theorem execXferIn_keeps (hm : Sub 0x100004e0000 M) (c : CoreId) (w : W56) (h : Keeps M s t) :
    KeepsR M s (execXferIn c w t) := by
  unfold execXferIn
  repeat' first
    | with_reducible assumption
    | with_reducible exact Keeps.refl _
    | with_reducible exact Or.inr rfl
    | with_reducible apply xferIssue_keeps

theorem execXferOut_keeps (hm : Sub 0x100004e0000 M) (c : CoreId) (w : W56) (h : Keeps M s t) :
    KeepsR M s (execXferOut c w t) := by
  unfold execXferOut
  repeat' first
    | with_reducible assumption
    | with_reducible exact Keeps.refl _
    | with_reducible exact Or.inr rfl
    | with_reducible apply xferIssue_keeps

theorem xferMove_keeps (hm : Sub 0x4800040 M) (c : CoreId) (x : Xfer) (h : Keeps M s t) :
    Keeps M s (xferMove t c x) := by
  unfold xferMove
  repeat' first
    | with_reducible assumption
    | with_reducible exact Keeps.refl _
    | ((with_reducible refine hm.of ?_); exact rfl)
    | with_reducible exact Or.inr rfl
    | (extract_lets +onlyGivenNames v_; clear_value v_; rename' v_ => w_)
    | with_reducible apply spWrite_keeps
    | with_reducible apply pkgWrite_keeps
    | with_reducible apply wrMem_keeps
    | split

theorem execXferComplete_keeps (hm : Sub 0x98104ce0240 M) (c : CoreId) (ecc : EccAt) (atMem : Bool)
    (h : Keeps M s t) :
    KeepsR M s (execXferComplete c ecc atMem t) := by
  unfold execXferComplete
  repeat' first
    | with_reducible assumption
    | with_reducible exact Keeps.refl _
    | ((with_reducible refine hm.of ?_); exact rfl)
    | with_reducible exact Or.inr rfl
    | (extract_lets +onlyGivenNames v_
       have hv_ : Keeps M s v_ := ?_; (on_goal 1 => (clear_value v_; rename' v_ => w_)); (on_goal 2 => (unfold v_; clear v_)))
    | with_reducible apply modPort_keeps
    | with_reducible apply metEcc_keeps
    | with_reducible apply xferMove_keeps
    | with_reducible apply addReceipt_keeps
    | with_reducible apply xferBegin_keeps
    | with_reducible apply coreFaultAt_keeps
    | with_reducible apply next_keeps
    | with_reducible exact fault_keeps _
    | split

theorem msoLane_keeps (hm : Sub 0x80100020000 M) (h0 : Nat) (st : Nat) (ctx : BitVec 6) (bad : Option LaneFault)
    (h : Keeps M s t) :
    Keeps M s (msoLane t h0 st ctx bad) := by
  unfold msoLane
  repeat' first
    | with_reducible assumption
    | with_reducible exact Keeps.refl _
    | with_reducible exact Or.inr rfl
    | with_reducible apply laneFault_keeps
    | split

theorem msoFails_keeps (hm : Sub 0x460000 M) (m : Mso) (h : Keeps M s t) :
    Keeps M s (msoFails t m) := by
  unfold msoFails
  repeat' first
    | with_reducible assumption
    | with_reducible exact Keeps.refl _
    | with_reducible exact Or.inr rfl
    | with_reducible apply coreFaultAt_keeps
    | split

theorem msoApply_keeps (hm : Sub 0x468040 M) (h0 : Nat) (m : Mso) (h : Keeps M s t) :
    Keeps M s (msoApply h0 t m) := by
  unfold msoApply
  repeat' first
    | with_reducible assumption
    | with_reducible exact Keeps.refl _
    | ((with_reducible refine hm.of ?_); exact rfl)
    | with_reducible exact Or.inr rfl
    | (extract_lets +onlyGivenNames v_; clear_value v_; rename' v_ => w_)
    | with_reducible apply msoFails_keeps
    | with_reducible apply setFlags_keeps
    | with_reducible apply wrMem_keeps
    | split

theorem execMemorySideOperation_keeps (hm : Sub 0x981004e8240 M) (h0 : Fin 4) (reach : List Nat)
    (bad : Option LaneFault) (ecc : EccAt) (h : Keeps M s t) :
    KeepsR M s (execMemorySideOperation h0 reach bad ecc t) := by
  unfold execMemorySideOperation
  repeat' first
    | with_reducible assumption
    | with_reducible exact Keeps.refl _
    | ((with_reducible refine hm.of ?_); exact rfl)
    | with_reducible exact Or.inr rfl
    | (with_reducible intro _)
    | (extract_lets +onlyGivenNames v_
       first
       | (have hv_ : Keeps M s v_ := ?_; (on_goal 1 => (clear_value v_; rename' v_ => w_)); (on_goal 2 => (unfold v_; clear v_)))
       | (clear_value v_; rename' v_ => w_))
    | with_reducible apply modHub_keeps
    | with_reducible apply metEcc_keeps
    | with_reducible apply whenever_keeps
    | with_reducible apply msoApply_keeps
    | with_reducible apply msoLane_keeps
    | with_reducible apply next_keeps
    | with_reducible exact fault_keeps _
    | (with_reducible refine foldl_keeps (fun _ _ _ => ?_) ?_)
    | (with_reducible refine foldl_keeps1 (fun _ _ _ => ?_) ?_)
    | (with_reducible refine fst_keeps (by with_reducible assumption) ?_)
    | split

theorem countWait_keeps (hm : Sub 0x5000000 M) (n : Nat) (h : Keeps M s t) :
    Keeps M s (countWait t n) := by
  unfold countWait
  repeat' first
    | with_reducible assumption
    | with_reducible exact Keeps.refl _
    | ((with_reducible refine hm.of ?_); exact rfl)
    | with_reducible exact Or.inr rfl
    | (extract_lets +onlyGivenNames v_; clear_value v_; rename' v_ => w_)
    | with_reducible apply modQueue_keeps
    | with_reducible apply modCons_keeps
    | split

theorem recount_keeps (hm : Sub 0x5000000 M) (h : Keeps M s t) :
    Keeps M s (recount t) := by
  unfold recount
  repeat' first
    | with_reducible assumption
    | with_reducible exact Keeps.refl _
    | with_reducible exact Or.inr rfl
    | (with_reducible intro _)
    | with_reducible apply countWait_keeps
    | (with_reducible refine foldl_keeps (fun _ _ _ => ?_) ?_)

theorem book_keeps (hm : Sub 0x5000000 M) (n : Nat) (pm : Pm) (u0 : BitVec 16) (k : BitVec 40) (h : Keeps M s t) :
    Keeps M s (book t n pm u0 k) := by
  unfold book
  repeat' first
    | with_reducible assumption
    | with_reducible exact Keeps.refl _
    | ((with_reducible refine hm.of ?_); exact rfl)
    | with_reducible exact Or.inr rfl
    | (extract_lets +onlyGivenNames v_; clear_value v_; rename' v_ => w_)
    | with_reducible apply countWait_keeps
    | with_reducible apply modCons_keeps

theorem fireCons_keeps (hm : Sub 0x5020000 M) (n : Nat) (pm : Pm) (u0 : BitVec 16) (k : BitVec 40) (h : Keeps M s t) :
    Keeps M s (fireCons t n pm u0 k) := by
  unfold fireCons
  repeat' first
    | with_reducible assumption
    | with_reducible exact Keeps.refl _
    | ((with_reducible refine hm.of ?_); exact rfl)
    | with_reducible exact Or.inr rfl
    | (extract_lets +onlyGivenNames v_; clear_value v_; rename' v_ => w_)
    | with_reducible apply post_keeps
    | with_reducible apply modCons_keeps
    | with_reducible apply book_keeps
    | (with_reducible refine fst_keeps (by with_reducible assumption) ?_)
    | split

theorem toIdle_keeps (hm : Sub 0x5000000 M) (n : Nat) (h : Keeps M s t) :
    Keeps M s (toIdle t n) := by
  unfold toIdle
  repeat' first
    | with_reducible assumption
    | with_reducible exact Keeps.refl _
    | ((with_reducible refine hm.of ?_); exact rfl)
    | with_reducible exact Or.inr rfl
    | (extract_lets +onlyGivenNames v_
       first
       | (have hv_ : Keeps M s v_ := ?_; (on_goal 1 => (clear_value v_; rename' v_ => w_)); (on_goal 2 => (unfold v_; clear v_)))
       | (clear_value v_; rename' v_ => w_))
    | with_reducible apply modCons_keeps
    | with_reducible apply book_keeps
    | split

theorem dropClaim_keeps (hm : Sub 0x2000000 M) (n : Nat) (p : BitVec 256) (h : Keeps M s t) :
    Keeps M s (dropClaim t n p) := by
  unfold dropClaim
  repeat' first
    | with_reducible assumption
    | with_reducible exact Keeps.refl _
    | with_reducible exact Or.inr rfl
    | (extract_lets +onlyGivenNames v_; clear_value v_; rename' v_ => w_)
    | with_reducible apply putSlot_keeps
    | split

theorem returnCons_keeps (hm : Sub 0x3420000 M) (n : Nat) (err : Err) (bytes : Nat) (h : Keeps M s t) :
    Keeps M s (returnCons t n err bytes) := by
  unfold returnCons
  repeat' first
    | with_reducible assumption
    | with_reducible exact Keeps.refl _
    | ((with_reducible refine hm.of ?_); exact rfl)
    | with_reducible exact Or.inr rfl
    | (extract_lets +onlyGivenNames v_
       first
       | (have hv_ : Keeps M s v_ := ?_; (on_goal 1 => (clear_value v_; rename' v_ => w_)); (on_goal 2 => (unfold v_; clear v_)))
       | (clear_value v_; rename' v_ => w_))
    | with_reducible apply markStep_keeps
    | with_reducible apply dropClaim_keeps
    | with_reducible apply post_keeps
    | with_reducible apply modCons_keeps

theorem formRows_keeps (hm : Sub 0x30428050 M) (n : BitVec 20) (p : BitVec 256) (h : Keeps M s t) :
    Keeps M s (formRows t n p).1 := by
  unfold formRows
  repeat' first
    | with_reducible assumption
    | with_reducible exact Keeps.refl _
    | with_reducible exact Or.inr rfl
    | (extract_lets +onlyGivenNames v_
       first
       | (have hv_ : Keeps M s v_.1 := ?_; (on_goal 1 => (clear_value v_; rename' v_ => w_)); (on_goal 2 => (unfold v_; clear v_)))
       | (clear_value v_; rename' v_ => w_))
    | with_reducible apply runQuant_keeps
    | (with_reducible refine fst_keeps (by with_reducible assumption) ?_)
    | split

theorem partRows_keeps (hm : Sub 0x30008040 M) (n : BitVec 20) (p : BitVec 256) (m : Nat) (h : Keeps M s t) :
    Keeps M s (partRows t n p m).1 := by
  unfold partRows
  repeat' first
    | with_reducible assumption
    | with_reducible exact Keeps.refl _
    | with_reducible exact Or.inr rfl
    | (extract_lets +onlyGivenNames v_; clear_value v_; rename' v_ => w_)
    | with_reducible apply countRows_keeps
    | (with_reducible refine fst_keeps (by with_reducible assumption) ?_)
    | split

theorem putRows_keeps (hm : Sub 0x4800040 M) (rows : List (Nat × List Byte)) (h : Keeps M s t) :
    Keeps M s (putRows t rows) := by
  unfold putRows
  repeat' first
    | with_reducible assumption
    | with_reducible exact Keeps.refl _
    | with_reducible exact Or.inr rfl
    | (with_reducible intro _)
    | with_reducible apply pkgWrite_keeps
    | (with_reducible refine foldl_keeps (fun _ _ _ => ?_) ?_)

theorem edRows_keeps (hm : Sub 0x8000040 M) (g : Nat) (d : BitVec 256) (e : Nat) (a4 : List (Nat × List Byte))
    (a5 : Nat) (h : Keeps M s t) :
    Keeps M s (edRows t g d e a4 a5).1 := by
  induction a4 generalizing t a5 with
  | nil => exact h
  | cons x l ih =>
    obtain ⟨o, l'⟩ := x
    have hk := edWrite_keeps (hm.of rfl) g d e o l' h
    rw [edRows]; split
    · next q => rw [q] at hk; exact ih _ hk
    · next q => rw [q] at hk; exact hk

theorem deliver_keeps (hm : Sub 0x7820000 M) (n : Nat) (p : BitVec 256) (h : Keeps M s t) :
    Keeps M s (deliver t n p) := by
  unfold deliver
  repeat' first
    | with_reducible assumption
    | with_reducible exact Keeps.refl _
    | ((with_reducible refine hm.of ?_); exact rfl)
    | with_reducible exact Or.inr rfl
    | (extract_lets +onlyGivenNames v_
       have hv_ : Keeps M s v_ := ?_; (on_goal 1 => (clear_value v_; rename' v_ => w_)); (on_goal 2 => (unfold v_; clear v_)))
    | with_reducible apply addReceipt_keeps
    | with_reducible apply postPart_keeps
    | with_reducible apply trace_keeps
    | with_reducible apply modCons_keeps
    | with_reducible apply collectPart_keeps
    | with_reducible apply toIdle_keeps
    | (with_reducible refine fst_keeps (by with_reducible assumption) ?_)
    | split

theorem sendWrites_keeps (hm : Sub 0x1c00020008 M) (n : Nat) (p : BitVec 256) (rows : List (Nat × List Byte))
    (h : Keeps M s t) :
    Keeps M s (sendWrites t n p rows) := by
  unfold sendWrites
  repeat' first
    | with_reducible assumption
    | with_reducible exact Keeps.refl _
    | with_reducible exact Or.inr rfl
    | (with_reducible intro _)
    | with_reducible apply sendReq_keeps
    | (with_reducible refine foldl_keeps (fun _ _ _ => ?_) ?_)

theorem sendRemote_keeps (hm : Sub 0x1c31428058 M) (n : Nat) (p : BitVec 256) (h : Keeps M s t) :
    Keeps M s (sendRemote t n p) := by
  unfold sendRemote
  repeat' first
    | with_reducible assumption
    | with_reducible exact Keeps.refl _
    | ((with_reducible refine hm.of ?_); exact rfl)
    | with_reducible exact Or.inr rfl
    | (extract_lets +onlyGivenNames v_
       have hv_ : Keeps M s v_.1 := ?_; (on_goal 1 => (clear_value v_; rename' v_ => w_)); (on_goal 2 => (unfold v_; clear v_)))
    | with_reducible apply sendWrites_keeps
    | with_reducible apply modCons_keeps
    | with_reducible apply formRows_keeps
    | (with_reducible refine fst_keeps (by with_reducible assumption) ?_)
    | split

theorem enter_keeps (hm : Sub 0x1c3f428058 M) (n : Nat) (p : BitVec 256) (h : Keeps M s t) :
    Keeps M s (enter t n p) := by
  unfold enter
  repeat' first
    | with_reducible assumption
    | with_reducible exact Keeps.refl _
    | ((with_reducible refine hm.of ?_); exact rfl)
    | with_reducible exact Or.inr rfl
    | (extract_lets +onlyGivenNames v_
       first
       | (have hv_ : Keeps M s v_ := ?_; (on_goal 1 => (clear_value v_; rename' v_ => w_)); (on_goal 2 => (unfold v_; clear v_)))
       | (clear_value v_; rename' v_ => w_))
    | with_reducible apply returnCons_keeps
    | with_reducible apply claimSlot_keeps
    | with_reducible apply recount_keeps
    | with_reducible apply modStage_keeps
    | with_reducible apply modCons_keeps
    | with_reducible apply sendRemote_keeps
    | split

theorem edDeliver_keeps (hm : Sub 0xb420040 M) (n : Nat) (p : BitVec 256) (rows : List (Nat × List Byte))
    (done : State → State) (h : Keeps M s t) (hf_done : ∀ y0, Keeps M s y0 → Keeps M s (done y0)) :
    Keeps M s (edDeliver t n p rows done) := by
  unfold edDeliver
  repeat' first
    | with_reducible assumption
    | with_reducible exact Keeps.refl _
    | ((with_reducible refine hm.of ?_); exact rfl)
    | with_reducible exact Or.inr rfl
    | (with_reducible intro _)
    | with_reducible apply hf_done
    | (extract_lets +onlyGivenNames v_; clear_value v_; rename' v_ => w_)
    | with_reducible apply returnCons_keeps
    | with_reducible exact pendFor_keeps (hm.of rfl) _ _ _ (by with_reducible assumption) _ (by with_reducible assumption)
    | with_reducible apply poolEmpty_keeps
    | with_reducible apply edRows_keeps
    | with_reducible apply edFull_keeps
    | (with_reducible refine fst_keeps (by with_reducible assumption) ?_)
    | split

theorem countDone_keeps (hm : Sub 0x20000000 M) (p : BitVec 256) (h : Keeps M s t) :
    Keeps M s (countDone t p) := by
  unfold countDone
  repeat' first
    | with_reducible assumption
    | with_reducible exact Keeps.refl _
    | with_reducible exact Or.inr rfl
    | with_reducible apply countTensor_keeps
    | split

theorem finish_keeps (hm : Sub 0x3fc28050 M) (n : Nat) (p : BitVec 256) (h : Keeps M s t) :
    Keeps M s (finish t n p) := by
  unfold finish
  repeat' first
    | with_reducible assumption
    | with_reducible exact Keeps.refl _
    | ((with_reducible refine hm.of ?_); exact rfl)
    | with_reducible exact Or.inr rfl
    | (with_reducible intro _)
    | (extract_lets +onlyGivenNames v_
       first
       | (have hv_ : Keeps M s v_ := ?_; (on_goal 1 => (clear_value v_; rename' v_ => w_)); (on_goal 2 => (unfold v_; clear v_)))
       | (have hv_ : Keeps M s v_.1 := ?_; (on_goal 1 => (clear_value v_; rename' v_ => w_)); (on_goal 2 => (unfold v_; clear v_))))
    | with_reducible apply putRows_keeps
    | with_reducible apply countDone_keeps
    | with_reducible apply modStage_keeps
    | with_reducible apply edDeliver_keeps
    | with_reducible apply formRows_keeps
    | with_reducible apply deliver_keeps
    | (with_reducible refine fst_keeps (by with_reducible assumption) ?_)
    | with_reducible apply id_keeps
    | split

theorem cutShort_keeps (hm : Sub 0x3fc28040 M) (n : Nat) (p : BitVec 256) (err : Err) (bytes : Nat)
    (h : Keeps M s t) :
    Keeps M s (cutShort t n p err bytes) := by
  unfold cutShort
  repeat' first
    | with_reducible assumption
    | with_reducible exact Keeps.refl _
    | ((with_reducible refine hm.of ?_); exact rfl)
    | with_reducible exact Or.inr rfl
    | (with_reducible intro _)
    | (extract_lets +onlyGivenNames v_
       first
       | (have hv_ : Keeps M s v_.1 := ?_; (on_goal 1 => (clear_value v_; rename' v_ => w_)); (on_goal 2 => (unfold v_; clear v_)))
       | (clear_value v_; rename' v_ => w_))
    | with_reducible apply returnCons_keeps
    | with_reducible apply putRows_keeps
    | with_reducible apply edDeliver_keeps
    | with_reducible apply partRows_keeps
    | (with_reducible refine fst_keeps (by with_reducible assumption) ?_)
    | with_reducible apply id_keeps
    | split

theorem changeScale_keeps (hm : Sub 0x80020000 M) (f : Bool) (d : BitVec 8) (h : Keeps M s t) :
    Keeps M s (changeScale t f d) := by
  unfold changeScale
  repeat' first
    | with_reducible assumption
    | with_reducible exact Keeps.refl _
    | ((with_reducible refine hm.of ?_); exact rfl)
    | with_reducible exact Or.inr rfl
    | (extract_lets +onlyGivenNames v_
       first
       | (have hv_ : Keeps M s v_ := ?_; (on_goal 1 => (clear_value v_; rename' v_ => w_)); (on_goal 2 => (unfold v_; clear v_)))
       | (clear_value v_; rename' v_ => w_))
    | with_reducible apply modCommit_keeps
    | with_reducible apply postDenied_keeps
    | with_reducible apply post_keeps
    | (with_reducible refine fst_keeps (by with_reducible assumption) ?_)
    | split

theorem settleScale_keeps (hm : Sub 0x80020000 M) (f : Bool) (h : Keeps M s t) :
    Keeps M s (settleScale t f) := by
  unfold settleScale
  repeat' first
    | with_reducible assumption
    | with_reducible exact Keeps.refl _
    | ((with_reducible refine hm.of ?_); exact rfl)
    | with_reducible exact Or.inr rfl
    | (extract_lets +onlyGivenNames v_
       have hv_ : Keeps M s v_ := ?_; (on_goal 1 => (clear_value v_; rename' v_ => w_)); (on_goal 2 => (unfold v_; clear v_)))
    | with_reducible apply modCommit_keeps
    | with_reducible apply changeScale_keeps
    | split

theorem settleBits_keeps (hm : Sub 0x102000000 M) (b : Nat) (h : Keeps M s t) :
    Keeps M s (settleBits t b) := by
  unfold settleBits
  repeat' first
    | with_reducible assumption
    | with_reducible exact Keeps.refl _
    | ((with_reducible refine hm.of ?_); exact rfl)
    | ((with_reducible refine Or.inl (hm.bit ?_)); exact rfl)
    | with_reducible exact Or.inr rfl
    | (extract_lets +onlyGivenNames v_; clear_value v_; rename' v_ => w_)
    | with_reducible apply modCkpt_keeps
    | with_reducible apply clearBounds_keeps
    | (with_reducible refine fst_keeps (by with_reducible assumption) ?_)
    | split
    | with_reducible apply mk_keeps

theorem settleStep_keeps (hm : Sub 0x1aa420040 M) (k : BitVec 40) (h : Keeps M s t) :
    Keeps M s (settleStep t k) := by
  unfold settleStep
  repeat' first
    | with_reducible assumption
    | with_reducible exact Keeps.refl _
    | ((with_reducible refine hm.of ?_); exact rfl)
    | with_reducible exact Or.inr rfl
    | (with_reducible intro _)
    | (extract_lets +onlyGivenNames v_
       first
       | (have hv_ : Keeps M s v_ := ?_; (on_goal 1 => (clear_value v_; rename' v_ => w_)); (on_goal 2 => (unfold v_; clear v_)))
       | (clear_value v_; rename' v_ => w_))
    | with_reducible apply modCommit_keeps
    | with_reducible apply settleScale_keeps
    | with_reducible apply writeBounds_keeps
    | with_reducible apply modRun_keeps
    | with_reducible apply settleBits_keeps
    | with_reducible apply post_keeps
    | with_reducible apply flipStage_keeps
    | with_reducible apply skipStage_keeps
    | (with_reducible refine foldl_keeps (fun _ _ _ => ?_) ?_)
    | (with_reducible refine foldl_keeps1 (fun _ _ _ => ?_) ?_)
    | split

theorem keepBoundary_keeps (hm : Sub 0x400000 M) (k : BitVec 40) (h : Keeps M s t) :
    Keeps M s (keepBoundary t k) := by
  unfold keepBoundary
  repeat' first
    | with_reducible assumption
    | with_reducible exact Keeps.refl _
    | with_reducible exact Or.inr rfl
    | with_reducible apply modRun_keeps

theorem writeStepRecord_keeps (hm : Sub 0x4800040 M) (k : BitVec 40) (h : Keeps M s t) :
    Keeps M s (writeStepRecord t k) := by
  unfold writeStepRecord
  repeat' first
    | with_reducible assumption
    | with_reducible exact Keeps.refl _
    | with_reducible exact Or.inr rfl
    | with_reducible apply pkgWrite_keeps
    | split

theorem sendMembers_keeps (hm : Sub 0x1c00020008 M) (r : BitVec 256) (what : Nat) (h : Keeps M s t) :
    Keeps M s (sendMembers t r what) := by
  unfold sendMembers
  repeat' first
    | with_reducible assumption
    | with_reducible exact Keeps.refl _
    | with_reducible exact Or.inr rfl
    | (with_reducible intro _)
    | (extract_lets +onlyGivenNames v_; clear_value v_; rename' v_ => w_)
    | with_reducible apply sendReq_keeps
    | (with_reducible refine foldl_keeps (fun _ _ _ => ?_) ?_)
    | (with_reducible refine foldl_keeps1 (fun _ _ _ => ?_) ?_)
    | split

theorem commitAdd_keeps (hm : Sub 0x80820000 M) (r : BitVec 256) (what : Nat) (i : Nat) (h : Keeps M s t) :
    Keeps M s (commitAdd t r what i) := by
  unfold commitAdd
  repeat' first
    | with_reducible assumption
    | with_reducible exact Keeps.refl _
    | ((with_reducible refine hm.of ?_); exact rfl)
    | with_reducible exact Or.inr rfl
    | (extract_lets +onlyGivenNames v_
       first
       | (have hv_ : Keeps M s v_ := ?_; (on_goal 1 => (clear_value v_; rename' v_ => w_)); (on_goal 2 => (unfold v_; clear v_)))
       | (clear_value v_; rename' v_ => w_))
    | with_reducible apply modCommit_keeps
    | with_reducible apply applyAdd_keeps
    | split

theorem ownAdd_keeps (hm : Sub 0x80820000 M) (r : BitVec 256) (what : Nat) (h : Keeps M s t) :
    Keeps M s (ownAdd t r what) := by
  unfold ownAdd
  repeat' first
    | with_reducible assumption
    | with_reducible exact Keeps.refl _
    | with_reducible exact Or.inr rfl
    | with_reducible apply commitAdd_keeps
    | split

theorem postRound_keeps (hm : Sub 0x20000 M) (done : Bool) (cause : Nat) (h : Keeps M s t) :
    Keeps M s (postRound t done cause) := by
  unfold postRound
  repeat' first
    | with_reducible assumption
    | with_reducible exact Keeps.refl _
    | with_reducible exact Or.inr rfl
    | with_reducible apply post_keeps

theorem closeRound_keeps (hm : Sub 0x80800000 M) (r : BitVec 256) (o : RoundOutcome) (h : Keeps M s t) :
    Keeps M s (closeRound t r o) := by
  unfold closeRound
  repeat' first
    | with_reducible assumption
    | with_reducible exact Keeps.refl _
    | ((with_reducible refine hm.of ?_); exact rfl)
    | with_reducible exact Or.inr rfl
    | (extract_lets +onlyGivenNames v_
       first
       | (have hv_ : Keeps M s v_ := ?_; (on_goal 1 => (clear_value v_; rename' v_ => w_)); (on_goal 2 => (unfold v_; clear v_)))
       | (clear_value v_; rename' v_ => w_))
    | with_reducible apply modCommit_keeps
    | with_reducible apply setCount_keeps

theorem discardEvict_keeps (hm : Sub 0x28000 M) (e : Evict) (h : Keeps M s t) :
    Keeps M s (discardEvict t e) := by
  unfold discardEvict
  repeat' first
    | with_reducible assumption
    | with_reducible exact Keeps.refl _
    | ((with_reducible refine hm.of ?_); exact rfl)
    | with_reducible exact Or.inr rfl
    | (extract_lets +onlyGivenNames v_
       have hv_ : Keeps M s v_ := ?_; (on_goal 1 => (clear_value v_; rename' v_ => w_)); (on_goal 2 => (unfold v_; clear v_)))
    | with_reducible apply modCtx_keeps
    | with_reducible apply post_keeps

theorem discardEvicts_keeps (hm : Sub 0x128000 M) (h : Keeps M s t) :
    Keeps M s (discardEvicts t) := by
  unfold discardEvicts
  repeat' first
    | with_reducible assumption
    | with_reducible exact Keeps.refl _
    | ((with_reducible refine hm.of ?_); exact rfl)
    | ((with_reducible refine Or.inl (hm.bit ?_)); exact rfl)
    | with_reducible exact Or.inr rfl
    | (with_reducible intro _)
    | (extract_lets +onlyGivenNames v_
       have hv_ : Keeps M s v_ := ?_; (on_goal 1 => (clear_value v_; rename' v_ => w_)); (on_goal 2 => (unfold v_; clear v_)))
    | with_reducible apply discardEvict_keeps
    | (with_reducible refine foldl_keeps (fun _ _ _ => ?_) ?_)
    | (with_reducible refine foldl_keeps1 (fun _ _ _ => ?_) ?_)
    | split
    | with_reducible apply mk_keeps

theorem stopCores_keeps (hm : Sub 0x40000 M) (h : Keeps M s t) :
    Keeps M s (stopCores t) := by
  unfold stopCores
  repeat' first
    | with_reducible assumption
    | with_reducible exact Keeps.refl _
    | ((with_reducible refine Or.inl (hm.bit ?_)); exact rfl)
    | with_reducible exact Or.inr rfl
    | split
    | with_reducible apply mk_keeps

theorem stopFor_keeps (hm : Sub 0x568004 M) (k : BitVec 40) (h : Keeps M s t) :
    Keeps M s (stopFor t k) := by
  unfold stopFor
  repeat' first
    | with_reducible assumption
    | with_reducible exact Keeps.refl _
    | ((with_reducible refine hm.of ?_); exact rfl)
    | ((with_reducible refine Or.inl (hm.bit ?_)); exact rfl)
    | with_reducible exact Or.inr rfl
    | (extract_lets +onlyGivenNames v_
       first
       | (have hv_ : Keeps M s v_ := ?_; (on_goal 1 => (clear_value v_; rename' v_ => w_)); (on_goal 2 => (unfold v_; clear v_)))
       | (clear_value v_; rename' v_ => w_))
    | with_reducible apply modRun_keeps
    | with_reducible apply stopCores_keeps
    | with_reducible apply discardEvicts_keeps
    | split
    | with_reducible apply mk_keeps

theorem rollRound_keeps (hm : Sub 0x1c80d6800c M) (r : BitVec 256) (cause : Nat) (sendAbort : Bool)
    (h : Keeps M s t) :
    Keeps M s (rollRound t r cause sendAbort) := by
  unfold rollRound
  repeat' first
    | with_reducible assumption
    | with_reducible exact Keeps.refl _
    | ((with_reducible refine hm.of ?_); exact rfl)
    | with_reducible exact Or.inr rfl
    | (extract_lets +onlyGivenNames v_
       first
       | (have hv_ : Keeps M s v_ := ?_; (on_goal 1 => (clear_value v_; rename' v_ => w_)); (on_goal 2 => (unfold v_; clear v_)))
       | (clear_value v_; rename' v_ => w_))
    | with_reducible apply modCommit_keeps
    | with_reducible apply ownAdd_keeps
    | with_reducible apply closeRound_keeps
    | with_reducible apply postRound_keeps
    | with_reducible apply stopFor_keeps
    | with_reducible apply sendMembers_keeps
    | split

theorem beginRollback_keeps (hm : Sub 0x1c80d6800c M) (h : Keeps M s t) :
    Keeps M s (beginRollback t) := by
  unfold beginRollback
  repeat' first
    | with_reducible assumption
    | with_reducible exact Keeps.refl _
    | ((with_reducible refine hm.of ?_); exact rfl)
    | with_reducible exact Or.inr rfl
    | with_reducible apply modCommit_keeps
    | with_reducible apply rollRound_keeps
    | with_reducible apply stopFor_keeps
    | split

theorem vote_keeps (hm : Sub 0x1c80820008 M) (r : BitVec 256) (h : Keeps M s t) :
    Keeps M s (vote t r) := by
  unfold vote
  repeat' first
    | with_reducible assumption
    | with_reducible exact Keeps.refl _
    | ((with_reducible refine hm.of ?_); exact rfl)
    | with_reducible exact Or.inr rfl
    | with_reducible apply modCommit_keeps
    | with_reducible apply ownAdd_keeps
    | with_reducible apply sendMembers_keeps

theorem tryConfirm_keeps (hm : Sub 0x1c80820008 M) (r : BitVec 256) (h : Keeps M s t) :
    Keeps M s (tryConfirm t r) := by
  unfold tryConfirm
  repeat' first
    | with_reducible assumption
    | with_reducible exact Keeps.refl _
    | ((with_reducible refine hm.of ?_); exact rfl)
    | with_reducible exact Or.inr rfl
    | with_reducible apply modCommit_keeps
    | with_reducible apply ownAdd_keeps
    | with_reducible apply sendMembers_keeps
    | split

theorem tryVote_keeps (hm : Sub 0x1c80d6800c M) (r : BitVec 256) (h : Keeps M s t) :
    Keeps M s (tryVote t r) := by
  unfold tryVote
  repeat' first
    | with_reducible assumption
    | with_reducible exact Keeps.refl _
    | ((with_reducible refine hm.of ?_); exact rfl)
    | with_reducible exact Or.inr rfl
    | with_reducible apply rollRound_keeps
    | with_reducible apply vote_keeps
    | with_reducible apply tryConfirm_keeps
    | split

theorem openRound_keeps (hm : Sub 0x1c80d6800c M) (r : BitVec 256) (pc : Pm) (j : BitVec 40) (h : Keeps M s t) :
    Keeps M s (openRound t r pc j) := by
  unfold openRound
  repeat' first
    | with_reducible assumption
    | with_reducible exact Keeps.refl _
    | ((with_reducible refine hm.of ?_); exact rfl)
    | with_reducible exact Or.inr rfl
    | (extract_lets +onlyGivenNames v_
       first
       | (have hv_ : Keeps M s v_ := ?_; (on_goal 1 => (clear_value v_; rename' v_ => w_)); (on_goal 2 => (unfold v_; clear v_)))
       | (clear_value v_; rename' v_ => w_))
    | with_reducible apply modCommit_keeps
    | with_reducible apply rollRound_keeps
    | with_reducible apply tryVote_keeps
    | split

theorem commitRound_keeps (hm : Sub 0x1daad6804c M) (r : BitVec 256) (cause : Nat) (h : Keeps M s t) :
    Keeps M s (commitRound t r cause) := by
  unfold commitRound
  repeat' first
    | with_reducible assumption
    | with_reducible exact Keeps.refl _
    | ((with_reducible refine hm.of ?_); exact rfl)
    | with_reducible exact Or.inr rfl
    | (extract_lets +onlyGivenNames v_
       first
       | (have hv_ : Keeps M s v_ := ?_; (on_goal 1 => (clear_value v_; rename' v_ => w_)); (on_goal 2 => (unfold v_; clear v_)))
       | (clear_value v_; rename' v_ => w_))
    | with_reducible apply modCommit_keeps
    | with_reducible apply modRun_keeps
    | with_reducible apply closeRound_keeps
    | with_reducible apply settleStep_keeps
    | with_reducible apply postRound_keeps
    | with_reducible apply openRound_keeps
    | split

theorem tryCommit_keeps (hm : Sub 0x1daad6804c M) (r : BitVec 256) (h : Keeps M s t) :
    Keeps M s (tryCommit t r) := by
  unfold tryCommit
  repeat' first
    | with_reducible assumption
    | with_reducible exact Keeps.refl _
    | with_reducible exact Or.inr rfl
    | with_reducible apply commitRound_keeps
    | split

theorem roundGoesOn_keeps (hm : Sub 0x1daad6804c M) (r : BitVec 256) (h : Keeps M s t) :
    Keeps M s (roundGoesOn t r) := by
  unfold roundGoesOn
  repeat' first
    | with_reducible assumption
    | with_reducible exact Keeps.refl _
    | ((with_reducible refine hm.of ?_); exact rfl)
    | with_reducible exact Or.inr rfl
    | with_reducible apply tryConfirm_keeps
    | with_reducible apply tryCommit_keeps

theorem fireCommit_keeps (hm : Sub 0x1daad6804c M) (pc : Pm) (j : BitVec 40) (h : Keeps M s t) :
    Keeps M s (fireCommit t pc j) := by
  unfold fireCommit
  repeat' first
    | with_reducible assumption
    | with_reducible exact Keeps.refl _
    | ((with_reducible refine hm.of ?_); exact rfl)
    | with_reducible exact Or.inr rfl
    | with_reducible apply modCommit_keeps
    | with_reducible apply roundGoesOn_keeps
    | with_reducible apply openRound_keeps
    | (with_reducible refine fst_keeps (by with_reducible assumption) ?_)
    | split

theorem commitArrives_keeps (hm : Sub 0x1daad6804c M) (src : BitVec 15) (what : Nat) (n : BitVec 32)
    (h : Keeps M s t) :
    Keeps M s (commitArrives t src what n) := by
  unfold commitArrives
  repeat' first
    | with_reducible assumption
    | with_reducible exact Keeps.refl _
    | ((with_reducible refine hm.of ?_); exact rfl)
    | with_reducible exact Or.inr rfl
    | (extract_lets +onlyGivenNames v_
       have hv_ : Keeps M s v_ := ?_; (on_goal 1 => (clear_value v_; rename' v_ => w_)); (on_goal 2 => (unfold v_; clear v_)))
    | with_reducible apply modCommit_keeps
    | with_reducible apply rollRound_keeps
    | with_reducible apply roundGoesOn_keeps
    | with_reducible apply commitAdd_keeps
    | split

theorem answerArrives_keeps (hm : Sub 0x1daad6804c M) (src : BitVec 15) (n : BitVec 32) (o : RoundOutcome)
    (h : Keeps M s t) :
    Keeps M s (answerArrives t src n o) := by
  unfold answerArrives
  repeat' first
    | with_reducible assumption
    | with_reducible exact Keeps.refl _
    | ((with_reducible refine hm.of ?_); exact rfl)
    | with_reducible exact Or.inr rfl
    | (extract_lets +onlyGivenNames v_
       first
       | (have hv_ : Keeps M s v_ := ?_; (on_goal 1 => (clear_value v_; rename' v_ => w_)); (on_goal 2 => (unfold v_; clear v_)))
       | (clear_value v_; rename' v_ => w_))
    | with_reducible apply modCommit_keeps
    | with_reducible apply rollRound_keeps
    | with_reducible apply commitRound_keeps
    | split

theorem warnWrite_keeps (hm : Sub 0x104820040 M) (e : BitVec 512) (h : Keeps M s t) :
    Keeps M s (warnWrite t e) := by
  unfold warnWrite
  repeat' first
    | with_reducible assumption
    | with_reducible exact Keeps.refl _
    | ((with_reducible refine hm.of ?_); exact rfl)
    | with_reducible exact Or.inr rfl
    | (with_reducible intro _)
    | (extract_lets +onlyGivenNames v_
       first
       | (have hf_ : ∀ x y, Keeps M s x → Keeps M s (v_ x y) := ?_; (on_goal 1 => (clear_value v_; rename' v_ => w_)); (on_goal 2 => (unfold v_; clear v_; intro _ _ _)))
       | (clear_value v_; rename' v_ => w_))
    | with_reducible apply modCkpt_keeps
    | with_reducible apply postDenied_keeps
    | with_reducible apply post_keeps
    | with_reducible apply pkgWrite_keeps
    | (with_reducible refine fst_keeps (by with_reducible assumption) ?_)
    | with_reducible apply hf_
    | split

theorem movePins_keeps (hm : Sub 0x8000000 M) (up : Bool) (l : List (Nat × Nat)) (h : Keeps M s t) :
    Keeps M s (movePins up l t) := by
  unfold movePins
  repeat' first
    | with_reducible assumption
    | with_reducible exact Keeps.refl _
    | with_reducible exact Or.inr rfl
    | (with_reducible intro _)
    | with_reducible apply modStage_keeps
    | (with_reducible refine foldl_keeps (fun _ _ _ => ?_) ?_)

theorem discardGen_keeps (hm : Sub 0x8000040 M) (g : Option Gen) (h : Keeps M s t) :
    Keeps M s (discardGen t g) := by
  unfold discardGen
  repeat' first
    | with_reducible assumption
    | with_reducible exact Keeps.refl _
    | ((with_reducible refine hm.of ?_); exact rfl)
    | with_reducible exact Or.inr rfl
    | (with_reducible intro _)
    | with_reducible apply freeEds_keeps
    | with_reducible apply movePins_keeps
    | (with_reducible refine foldl_keeps (fun _ _ _ => ?_) ?_)
    | (with_reducible refine foldl_keeps1 (fun _ _ _ => ?_) ?_)
    | split

theorem ckptFault_keeps (hm : Sub 0x108020040 M) (err : Err) (h : Keeps M s t) :
    Keeps M s (ckptFault t err) := by
  unfold ckptFault
  repeat' first
    | with_reducible assumption
    | with_reducible exact Keeps.refl _
    | ((with_reducible refine hm.of ?_); exact rfl)
    | with_reducible exact Or.inr rfl
    | (extract_lets +onlyGivenNames v_
       have hv_ : Keeps M s v_ := ?_; (on_goal 1 => (clear_value v_; rename' v_ => w_)); (on_goal 2 => (unfold v_; clear v_)))
    | with_reducible apply modCkpt_keeps
    | with_reducible apply post_keeps
    | with_reducible apply discardGen_keeps

theorem writeCut_keeps (hm : Sub 0x108020050 M) (r : BitVec 256) (j : BitVec 40) (b : Boundary) (h : Keeps M s t) :
    Keeps M s (writeCut t r j b) := by
  unfold writeCut
  repeat' first
    | with_reducible assumption
    | with_reducible exact Keeps.refl _
    | ((with_reducible refine hm.of ?_); exact rfl)
    | ((with_reducible refine Or.inl (hm.bit ?_)); exact rfl)
    | with_reducible exact Or.inr rfl
    | (extract_lets +onlyGivenNames v_
       first
       | (have hv_ : Keeps M s v_ := ?_; (on_goal 1 => (clear_value v_; rename' v_ => w_)); (on_goal 2 => (unfold v_; clear v_)))
       | (clear_value v_; rename' v_ => w_))
    | with_reducible apply modCkpt_keeps
    | with_reducible apply ckptFault_keeps
    | with_reducible apply post_keeps
    | with_reducible apply movePins_keeps
    | with_reducible apply discardGen_keeps
    | (with_reducible refine fst_keeps (by with_reducible assumption) ?_)
    | split
    | with_reducible apply mk_keeps

theorem fireCut_keeps (hm : Sub 0x108020050 M) (j : BitVec 40) (h : Keeps M s t) :
    Keeps M s (fireCut t j) := by
  unfold fireCut
  repeat' first
    | with_reducible assumption
    | with_reducible exact Keeps.refl _
    | ((with_reducible refine hm.of ?_); exact rfl)
    | with_reducible exact Or.inr rfl
    | with_reducible apply post_keeps
    | with_reducible apply writeCut_keeps
    | split

theorem restoreCounts_keeps (hm : Sub 0x800000 M) (cs : Tab (BitVec 32)) (keep : List (BitVec 14)) (h : Keeps M s t) :
    Keeps M s (restoreCounts t cs keep) := by
  unfold restoreCounts
  repeat' first
    | with_reducible assumption
    | with_reducible exact Keeps.refl _
    | with_reducible exact Or.inr rfl
    | (with_reducible intro _)
    | (extract_lets +onlyGivenNames v_; clear_value v_; rename' v_ => w_)
    | with_reducible apply modRcpt_keeps

theorem restoreSlots_keeps (hm : Sub 0x6000000 M) (k : BitVec 40) (sl : Tab Slot) (h : Keeps M s t) :
    Keeps M s (restoreSlots t k sl) := by
  unfold restoreSlots
  repeat' first
    | with_reducible assumption
    | with_reducible exact Keeps.refl _
    | ((with_reducible refine hm.of ?_); exact rfl)
    | ((with_reducible refine Or.inl (hm.bit ?_)); exact rfl)
    | with_reducible exact Or.inr rfl
    | (with_reducible intro _)
    | (extract_lets +onlyGivenNames v_
       have hv_ : Keeps M s v_ := ?_; (on_goal 1 => (clear_value v_; rename' v_ => w_)); (on_goal 2 => (unfold v_; clear v_)))
    | with_reducible apply resetOcc_keeps
    | (with_reducible refine foldl_keeps (fun _ _ _ => ?_) ?_)
    | (with_reducible refine foldl_keeps1 (fun _ _ _ => ?_) ?_)
    | split
    | with_reducible apply mk_keeps

theorem restoreQstats_keeps (hm : Sub 0x40 M) (l : List (Nat × List Byte)) (h : Keeps M s t) :
    Keeps M s (restoreQstats t l) := by
  unfold restoreQstats
  repeat' first
    | with_reducible assumption
    | with_reducible exact Keeps.refl _
    | with_reducible exact Or.inr rfl
    | (with_reducible intro _)
    | with_reducible apply wrMem_keeps
    | (with_reducible refine foldl_keeps (fun _ _ _ => ?_) ?_)

theorem restartTables_keeps (hm : Sub 0x400000 M) (k : BitVec 40) (h : Keeps M s t) :
    Keeps M s (restartTables t k) := by
  unfold restartTables
  repeat' first
    | with_reducible assumption
    | with_reducible exact Keeps.refl _
    | with_reducible exact Or.inr rfl
    | (with_reducible intro _)
    | with_reducible apply modRun_keeps

theorem substituteAll_keeps (hm : Sub 0x800000e0240 M) (n : Nat) (l : List (BitVec 32)) (h : Keeps M s t) :
    Keeps M s (substituteAll t n l) := by
  unfold substituteAll
  repeat' first
    | with_reducible assumption
    | with_reducible exact Keeps.refl _
    | with_reducible exact Or.inr rfl
    | (with_reducible intro _)
    | with_reducible apply substitute_keeps
    | (with_reducible refine foldl_keeps (fun _ _ _ => ?_) ?_)
    | (with_reducible refine foldl_keeps1 (fun _ _ _ => ?_) ?_)
    | split

theorem spareBoundary_keeps (hm : Sub 0x800000e0240 M) (h : Keeps M s t) :
    Keeps M s (spareBoundary t) := by
  unfold spareBoundary
  repeat' first
    | with_reducible assumption
    | with_reducible exact Keeps.refl _
    | ((with_reducible refine hm.of ?_); exact rfl)
    | with_reducible exact Or.inr rfl
    | (extract_lets +onlyGivenNames v_
       first
       | (have hv_ : Keeps M s v_ := ?_; (on_goal 1 => (clear_value v_; rename' v_ => w_)); (on_goal 2 => (unfold v_; clear v_)))
       | (clear_value v_; rename' v_ => w_))
    | with_reducible apply modSh_keeps
    | with_reducible apply substituteAll_keeps

theorem spareRestore_keeps (hm : Sub 0x800000e0240 M) (h : Keeps M s t) :
    Keeps M s (spareRestore t) := by
  unfold spareRestore
  repeat' first
    | with_reducible assumption
    | with_reducible exact Keeps.refl _
    | ((with_reducible refine hm.of ?_); exact rfl)
    | with_reducible exact Or.inr rfl
    | (extract_lets +onlyGivenNames v_
       first
       | (have hv_ : Keeps M s v_ := ?_; (on_goal 1 => (clear_value v_; rename' v_ => w_)); (on_goal 2 => (unfold v_; clear v_)))
       | (clear_value v_; rename' v_ => w_))
    | with_reducible apply modSh_keeps
    | with_reducible apply substituteAll_keeps

theorem makeRekey_keeps (hm : Sub 0x10000420000 M) (q : RekeyReq) (h : Keeps M s t) :
    Keeps M s (makeRekey t q) := by
  unfold makeRekey
  repeat' first
    | with_reducible assumption
    | with_reducible exact Keeps.refl _
    | ((with_reducible refine hm.of ?_); exact rfl)
    | with_reducible exact Or.inr rfl
    | (with_reducible intro _)
    | (extract_lets +onlyGivenNames v_
       first
       | (have hv_ : Keeps M s v_ := ?_; (on_goal 1 => (clear_value v_; rename' v_ => w_)); (on_goal 2 => (unfold v_; clear v_)))
       | (have hf_ : ∀ x y z, Keeps M s x → Keeps M s (v_ x y z) := ?_; (on_goal 1 => (clear_value v_; rename' v_ => w_)); (on_goal 2 => (unfold v_; clear v_; intro _ _ _ _)))
       | (clear_value v_; rename' v_ => w_))
    | with_reducible apply modHub_keeps
    | with_reducible apply modRun_keeps
    | with_reducible apply post_keeps
    | (with_reducible refine fst_keeps (by with_reducible assumption) ?_)
    | with_reducible apply hf_
    | split

theorem rekeyAll_keeps (hm : Sub 0x10000420000 M) (h : Keeps M s t) :
    Keeps M s (rekeyAll t) := by
  unfold rekeyAll
  repeat' first
    | with_reducible assumption
    | with_reducible exact Keeps.refl _
    | ((with_reducible refine hm.of ?_); exact rfl)
    | with_reducible exact Or.inr rfl
    | (with_reducible intro _)
    | (extract_lets +onlyGivenNames v_
       first
       | (have hv_ : Keeps M s v_.1 := ?_; (on_goal 1 => (clear_value v_; rename' v_ => w_)); (on_goal 2 => (unfold v_; clear v_)))
       | (clear_value v_; rename' v_ => w_))
    | with_reducible apply makeRekey_keeps
    | with_reducible apply modRun_keeps
    | with_reducible apply postDenied_keeps
    | (with_reducible refine foldl_keeps (fun _ _ _ => ?_) ?_)
    | (with_reducible refine foldl_keeps1 (fun _ _ _ => ?_) ?_)
    | (with_reducible refine fst_keeps (by with_reducible assumption) ?_)
    | split

theorem returnLinks_keeps (hm : Sub 0x400000000 M) (h : Keeps M s t) :
    Keeps M s (returnLinks t) := by
  unfold returnLinks
  repeat' first
    | with_reducible assumption
    | with_reducible exact Keeps.refl _
    | ((with_reducible refine Or.inl (hm.bit ?_)); exact rfl)
    | with_reducible exact Or.inr rfl
    | split
    | with_reducible apply mk_keeps

theorem resetStatHalf_keeps (hm : Sub 0x10000000 M) (k : BitVec 40) (h : Keeps M s t) :
    Keeps M s (resetStatHalf t k) := by
  unfold resetStatHalf
  repeat' first
    | with_reducible assumption
    | with_reducible exact Keeps.refl _
    | ((with_reducible refine Or.inl (hm.bit ?_)); exact rfl)
    | with_reducible exact Or.inr rfl
    | split
    | with_reducible apply mk_keeps

theorem beginBits_keeps (hm : Sub 0x102000000 M) (b : Nat) (h : Keeps M s t) :
    Keeps M s (beginBits t b) := by
  unfold beginBits
  repeat' first
    | with_reducible assumption
    | with_reducible exact Keeps.refl _
    | ((with_reducible refine hm.of ?_); exact rfl)
    | with_reducible exact Or.inr rfl
    | with_reducible apply modCkpt_keeps
    | with_reducible apply setBounds_keeps

theorem boundsAt_keeps (hm : Sub 0x20020010 M) (k : BitVec 40) (l : Layer) (h : Keeps M s t) :
    Keeps M s (boundsAt k t l) := by
  unfold boundsAt
  repeat' first
    | with_reducible assumption
    | with_reducible exact Keeps.refl _
    | ((with_reducible refine hm.of ?_); exact rfl)
    | with_reducible exact Or.inr rfl
    | (extract_lets +onlyGivenNames v_
       have hv_ : Keeps M s v_ := ?_; (on_goal 1 => (clear_value v_; rename' v_ => w_)); (on_goal 2 => (unfold v_; clear v_)))
    | with_reducible apply writeBounds_keeps
    | with_reducible apply pendBounds_keeps
    | split

theorem boundary_keeps (hm : Sub 0x905bece0354 M) (k : BitVec 40) (h : Keeps M s t) :
    Keeps M s (boundary t k) := by
  unfold boundary
  repeat' first
    | with_reducible assumption
    | with_reducible exact Keeps.refl _
    | ((with_reducible refine hm.of ?_); exact rfl)
    | ((with_reducible refine Or.inl (hm.bit ?_)); exact rfl)
    | with_reducible exact Or.inr rfl
    | (with_reducible intro _)
    | (extract_lets +onlyGivenNames v_
       first
       | (have hv_ : Keeps M s v_ := ?_; (on_goal 1 => (clear_value v_; rename' v_ => w_)); (on_goal 2 => (unfold v_; clear v_)))
       | (clear_value v_; rename' v_ => w_))
    | with_reducible apply modCommit_keeps
    | with_reducible apply writeStepRecord_keeps
    | with_reducible apply beginBits_keeps
    | with_reducible apply modRun_keeps
    | with_reducible apply resetStatHalf_keeps
    | with_reducible apply boundsAt_keeps
    | with_reducible apply rekeyAll_keeps
    | with_reducible apply settleStep_keeps
    | with_reducible apply returnLinks_keeps
    | with_reducible apply spareBoundary_keeps
    | with_reducible apply qstatReset_keeps
    | with_reducible apply keepBoundary_keeps
    | with_reducible apply modTb_keeps
    | (with_reducible refine foldl_keeps (fun _ _ _ => ?_) ?_)
    | (with_reducible refine foldl_keeps1 (fun _ _ _ => ?_) ?_)
    | split
    | with_reducible apply mk_keeps

theorem rollStages_keeps (hm : Sub 0x8000040 M) (k : BitVec 40) (h : Keeps M s t) :
    Keeps M s (rollStages t k) := by
  unfold rollStages
  repeat' first
    | with_reducible assumption
    | with_reducible exact Keeps.refl _
    | ((with_reducible refine hm.of ?_); exact rfl)
    | with_reducible exact Or.inr rfl
    | (with_reducible intro _)
    | with_reducible apply freeEds_keeps
    | with_reducible apply modStage_keeps
    | with_reducible apply dropPending_keeps
    | (with_reducible refine foldl_keeps (fun _ _ _ => ?_) ?_)

theorem restoreStep_keeps (hm : Sub 0x802ffce0240 M) (k : BitVec 40) (b : Boundary) (h : Keeps M s t) :
    Keeps M s (restoreStep t k b) := by
  unfold restoreStep
  repeat' first
    | with_reducible assumption
    | with_reducible exact Keeps.refl _
    | ((with_reducible refine hm.of ?_); exact rfl)
    | ((with_reducible refine Or.inl (hm.bit ?_)); exact rfl)
    | with_reducible exact Or.inr rfl
    | (with_reducible intro _)
    | (extract_lets +onlyGivenNames v_
       have hv_ : Keeps M s v_ := ?_; (on_goal 1 => (clear_value v_; rename' v_ => w_)); (on_goal 2 => (unfold v_; clear v_)))
    | with_reducible apply modCommit_keeps
    | with_reducible apply restartTables_keeps
    | with_reducible apply modRun_keeps
    | with_reducible apply spareRestore_keeps
    | with_reducible apply restoreQstats_keeps
    | with_reducible apply resetStatHalf_keeps
    | with_reducible apply clearColls_keeps
    | with_reducible apply rollStages_keeps
    | with_reducible apply restoreSlots_keeps
    | with_reducible apply restoreCounts_keeps
    | (with_reducible refine foldl_keeps (fun _ _ _ => ?_) ?_)
    | (with_reducible refine foldl_keeps1 (fun _ _ _ => ?_) ?_)
    | split
    | with_reducible apply mk_keeps

theorem withCommit_keeps (hm : Sub 0x0 M) (f : BitVec 256 → State) (h : Keeps M s t) (hf_f : ∀ y0, Keeps M s (f y0)) :
    KeepsR M s (withCommit t f) := by
  unfold withCommit
  repeat' first
    | with_reducible assumption
    | with_reducible exact Keeps.refl _
    | with_reducible exact Or.inr rfl
    | (with_reducible intro _)
    | with_reducible apply hf_f
    | with_reducible apply next_keeps
    | with_reducible exact fault_keeps _
    | split

theorem execMemberReady_keeps (hm : Sub 0x1daad6804c M) (h : Keeps M s t) :
    KeepsR M s (execMemberReady t) := by
  unfold execMemberReady
  repeat' first
    | with_reducible assumption
    | with_reducible exact Keeps.refl _
    | ((with_reducible refine hm.of ?_); exact rfl)
    | with_reducible exact Or.inr rfl
    | (with_reducible intro _)
    | with_reducible apply roundGoesOn_keeps
    | with_reducible apply tryVote_keeps
    | with_reducible apply withCommit_keeps

theorem execVoteWindowExpiry_keeps (hm : Sub 0x1c80d6800c M) (h : Keeps M s t) :
    KeepsR M s (execVoteWindowExpiry t) := by
  unfold execVoteWindowExpiry
  repeat' first
    | with_reducible assumption
    | with_reducible exact Keeps.refl _
    | ((with_reducible refine hm.of ?_); exact rfl)
    | with_reducible exact Or.inr rfl
    | (with_reducible intro _)
    | with_reducible apply rollRound_keeps
    | with_reducible apply withCommit_keeps
    | with_reducible apply next_keeps
    | with_reducible exact fault_keeps _
    | with_reducible apply id_keeps
    | split

theorem execConfirmDeadline_keeps (hm : Sub 0x1c80020008 M) (h : Keeps M s t) :
    KeepsR M s (execConfirmDeadline t) := by
  unfold execConfirmDeadline
  repeat' first
    | with_reducible assumption
    | with_reducible exact Keeps.refl _
    | ((with_reducible refine hm.of ?_); exact rfl)
    | with_reducible exact Or.inr rfl
    | (with_reducible intro _)
    | with_reducible apply modCommit_keeps
    | with_reducible apply sendMembers_keeps
    | with_reducible apply withCommit_keeps
    | with_reducible apply next_keeps
    | with_reducible exact fault_keeps _
    | with_reducible apply id_keeps
    | split

theorem execDoubtDeadline_keeps (hm : Sub 0x1c80d6800c M) (h : Keeps M s t) :
    KeepsR M s (execDoubtDeadline t) := by
  unfold execDoubtDeadline
  repeat' first
    | with_reducible assumption
    | with_reducible exact Keeps.refl _
    | ((with_reducible refine hm.of ?_); exact rfl)
    | with_reducible exact Or.inr rfl
    | (with_reducible intro _)
    | with_reducible apply rollRound_keeps
    | with_reducible apply withCommit_keeps
    | with_reducible apply next_keeps
    | with_reducible exact fault_keeps _
    | with_reducible apply id_keeps
    | split

theorem execRollbackRestore_keeps (hm : Sub 0x802ffce0240 M) (h : Keeps M s t) :
    KeepsR M s (execRollbackRestore t) := by
  unfold execRollbackRestore
  repeat' first
    | with_reducible assumption
    | with_reducible exact Keeps.refl _
    | with_reducible exact Or.inr rfl
    | with_reducible apply whenever_keeps
    | with_reducible apply restoreStep_keeps
    | with_reducible apply next_keeps
    | with_reducible exact fault_keeps _
    | (with_reducible refine getD_keeps ?_ (fun _ _ => ?_))
    | split

theorem copyRequest_keeps (hm : Sub 0x1c00020008 M) (r : BitVec 256) (h : Keeps M s t) :
    Keeps M s (copyRequest t r) := by
  unfold copyRequest
  repeat' first
    | with_reducible assumption
    | with_reducible exact Keeps.refl _
    | with_reducible exact Or.inr rfl
    | (extract_lets +onlyGivenNames v_; clear_value v_; rename' v_ => w_)
    | with_reducible apply sendReq_keeps

theorem execLocalWriteComplete_keeps (hm : Sub 0x1d02020008 M) (h : Keeps M s t) :
    KeepsR M s (execLocalWriteComplete t) := by
  unfold execLocalWriteComplete
  repeat' first
    | with_reducible assumption
    | with_reducible exact Keeps.refl _
    | ((with_reducible refine hm.of ?_); exact rfl)
    | ((with_reducible refine Or.inl (hm.bit ?_)); exact rfl)
    | with_reducible exact Or.inr rfl
    | (with_reducible intro _)
    | (extract_lets +onlyGivenNames v_
       have hv_ : Keeps M s v_ := ?_; (on_goal 1 => (clear_value v_; rename' v_ => w_)); (on_goal 2 => (unfold v_; clear v_)))
    | with_reducible apply modCkpt_keeps
    | with_reducible apply copyRequest_keeps
    | with_reducible apply next_keeps
    | with_reducible exact fault_keeps _
    | (with_reducible refine foldl_keeps (fun _ _ _ => ?_) ?_)
    | (with_reducible refine foldl_keeps1 (fun _ _ _ => ?_) ?_)
    | split
    | with_reducible apply mk_keeps

theorem execGenerationSealed_keeps (hm : Sub 0x100820000 M) (h : Keeps M s t) :
    KeepsR M s (execGenerationSealed t) := by
  unfold execGenerationSealed
  repeat' first
    | with_reducible assumption
    | with_reducible exact Keeps.refl _
    | ((with_reducible refine hm.of ?_); exact rfl)
    | with_reducible exact Or.inr rfl
    | (extract_lets +onlyGivenNames v_
       have hv_ : Keeps M s v_ := ?_; (on_goal 1 => (clear_value v_; rename' v_ => w_)); (on_goal 2 => (unfold v_; clear v_)))
    | with_reducible apply modCkpt_keeps
    | with_reducible apply addReceipt_keeps
    | with_reducible apply post_keeps
    | with_reducible apply next_keeps
    | with_reducible exact fault_keeps _
    | (with_reducible refine fst_keeps (by with_reducible assumption) ?_)
    | split

theorem execConsignStart_keeps (hm : Sub 0x99d3f4e8258 M) (n : BitVec 20) (ecc : EccAt) (h : Keeps M s t) :
    KeepsR M s (execConsignStart n ecc t) := by
  unfold execConsignStart
  repeat' first
    | with_reducible assumption
    | with_reducible exact Keeps.refl _
    | ((with_reducible refine hm.of ?_); exact rfl)
    | with_reducible exact Or.inr rfl
    | (extract_lets +onlyGivenNames v_; clear_value v_; rename' v_ => w_)
    | with_reducible apply metEcc_keeps
    | with_reducible apply enter_keeps
    | with_reducible apply whenever_keeps

theorem execConsignDelivered_keeps (hm : Sub 0x9813fce8250 M) (n : BitVec 20) (ecc : EccAt) (h : Keeps M s t) :
    KeepsR M s (execConsignDelivered n ecc t) := by
  unfold execConsignDelivered
  repeat' first
    | with_reducible assumption
    | with_reducible exact Keeps.refl _
    | ((with_reducible refine hm.of ?_); exact rfl)
    | with_reducible exact Or.inr rfl
    | (extract_lets +onlyGivenNames v_
       first
       | (have hv_ : Keeps M s v_ := ?_; (on_goal 1 => (clear_value v_; rename' v_ => w_)); (on_goal 2 => (unfold v_; clear v_)))
       | (clear_value v_; rename' v_ => w_))
    | with_reducible apply metEcc_keeps
    | with_reducible apply whenever_keeps
    | with_reducible apply finish_keeps
    | with_reducible apply next_keeps
    | with_reducible exact fault_keeps _
    | split

theorem execConsignReturned_keeps (hm : Sub 0x103fc28040 M) (n : BitVec 20) (cause : ReturnCause) (bytes : Nat)
    (h : Keeps M s t) :
    KeepsR M s (execConsignReturned n cause bytes t) := by
  unfold execConsignReturned
  repeat' first
    | with_reducible assumption
    | with_reducible exact Keeps.refl _
    | ((with_reducible refine hm.of ?_); exact rfl)
    | with_reducible exact Or.inr rfl
    | (extract_lets +onlyGivenNames v_; clear_value v_; rename' v_ => w_)
    | with_reducible apply returnCons_keeps
    | with_reducible apply whenever_keeps
    | with_reducible apply cutShort_keeps
    | with_reducible apply modE2e_keeps
    | with_reducible apply next_keeps
    | with_reducible exact fault_keeps _
    | split

theorem execRemotePostAck_keeps (hm : Sub 0x25000000 M) (n : BitVec 20) (h : Keeps M s t) :
    KeepsR M s (execRemotePostAck n t) := by
  unfold execRemotePostAck
  repeat' first
    | with_reducible assumption
    | with_reducible exact Keeps.refl _
    | ((with_reducible refine hm.of ?_); exact rfl)
    | with_reducible exact Or.inr rfl
    | (extract_lets +onlyGivenNames v_; clear_value v_; rename' v_ => w_)
    | with_reducible apply countDone_keeps
    | with_reducible apply whenever_keeps
    | with_reducible apply toIdle_keeps

theorem tickNs_keeps (hm : Sub 0x400020328 M) (h : Keeps M s t) :
    Keeps M s (tickNs t) := by
  unfold tickNs
  repeat' first
    | with_reducible assumption
    | with_reducible exact Keeps.refl _
    | ((with_reducible refine hm.of ?_); exact rfl)
    | ((with_reducible refine Or.inl (hm.bit ?_)); exact rfl)
    | with_reducible exact Or.inr rfl
    | (extract_lets +onlyGivenNames v_; clear_value v_; rename' v_ => w_)
    | with_reducible apply slots_keeps
    | split
    | with_reducible apply mk_keeps

theorem queueStart_keeps (hm : Sub 0x460000 M) (e : StartEnt) (c : CoreId) (h : Keeps M s t) :
    Keeps M s (queueStart t e c) := by
  unfold queueStart
  repeat' first
    | with_reducible assumption
    | with_reducible exact Keeps.refl _
    | ((with_reducible refine hm.of ?_); exact rfl)
    | with_reducible exact Or.inr rfl
    | (extract_lets +onlyGivenNames v_; clear_value v_; rename' v_ => w_)
    | with_reducible apply coreFault_keeps
    | with_reducible apply modCore_keeps
    | split

theorem beginIfIdle_keeps (hm : Sub 0x48000 M) (c : CoreId) (h : Keeps M s t) :
    Keeps M s (beginIfIdle t c) := by
  unfold beginIfIdle
  repeat' first
    | with_reducible assumption
    | with_reducible exact Keeps.refl _
    | ((with_reducible refine hm.of ?_); exact rfl)
    | with_reducible exact Or.inr rfl
    | (extract_lets +onlyGivenNames v_; clear_value v_; rename' v_ => w_)
    | with_reducible apply takeStart_keeps
    | with_reducible apply modCore_keeps
    | split

theorem handStart_keeps (hm : Sub 0x468000 M) (e : StartEnt) (cs : List CoreId) (h : Keeps M s t) :
    Keeps M s (handStart t e cs) := by
  unfold handStart
  repeat' first
    | with_reducible assumption
    | with_reducible exact Keeps.refl _
    | ((with_reducible refine hm.of ?_); exact rfl)
    | with_reducible exact Or.inr rfl
    | (with_reducible intro _)
    | with_reducible apply queueStart_keeps
    | with_reducible apply beginIfIdle_keeps
    | (with_reducible refine foldl_keeps (fun _ _ _ => ?_) ?_)

theorem modEvict_keeps (hm : Sub 0x100000 M) (u0 : BitVec 16) (f : Evict → Evict) (h : Keeps M s t) :
    Keeps M s (modEvict t u0 f) := by
  unfold modEvict
  repeat' first
    | with_reducible assumption
    | with_reducible exact Keeps.refl _
    | ((with_reducible refine Or.inl (hm.bit ?_)); exact rfl)
    | with_reducible exact Or.inr rfl
    | split
    | with_reducible apply mk_keeps

theorem beginEvict_keeps (hm : Sub 0x140000 M) (u0 : BitVec 16) (starts : List StartEnt) (h : Keeps M s t) :
    Keeps M s (beginEvict t u0 starts) := by
  unfold beginEvict
  repeat' first
    | with_reducible assumption
    | with_reducible exact Keeps.refl _
    | ((with_reducible refine hm.of ?_); exact rfl)
    | ((with_reducible refine Or.inl (hm.bit ?_)); exact rfl)
    | with_reducible exact Or.inr rfl
    | (with_reducible intro _)
    | (extract_lets +onlyGivenNames v_; clear_value v_; rename' v_ => w_)
    | with_reducible apply modCore_keeps
    | (with_reducible refine foldl_keeps (fun _ _ _ => ?_) ?_)
    | (with_reducible refine foldl_keeps1 (fun _ _ _ => ?_) ?_)
    | split
    | with_reducible apply mk_keeps

theorem startLc_keeps (hm : Sub 0x568000 M) (e : StartEnt) (cs : List CoreId) (h : Keeps M s t) :
    Keeps M s (startLc t e cs) := by
  unfold startLc
  repeat' first
    | with_reducible assumption
    | with_reducible exact Keeps.refl _
    | ((with_reducible refine hm.of ?_); exact rfl)
    | with_reducible exact Or.inr rfl
    | (with_reducible intro _)
    | (extract_lets +onlyGivenNames v_
       first
       | (have hv_ : Keeps M s v_ := ?_; (on_goal 1 => (clear_value v_; rename' v_ => w_)); (on_goal 2 => (unfold v_; clear v_)))
       | (clear_value v_; rename' v_ => w_))
    | with_reducible apply modEvict_keeps
    | with_reducible apply beginEvict_keeps
    | with_reducible apply handStart_keeps
    | (with_reducible refine foldl_keeps (fun _ _ _ => ?_) ?_)
    | (with_reducible refine foldl_keeps1 (fun _ _ _ => ?_) ?_)
    | split

theorem startBe_keeps (hm : Sub 0x568000 M) (e : StartEnt) (cs : List CoreId) (h : Keeps M s t) :
    Keeps M s (startBe t e cs) := by
  unfold startBe
  repeat' first
    | with_reducible assumption
    | with_reducible exact Keeps.refl _
    | ((with_reducible refine hm.of ?_); exact rfl)
    | with_reducible exact Or.inr rfl
    | (with_reducible intro _)
    | (extract_lets +onlyGivenNames v_
       first
       | (have hv_ : Keeps M s v_ := ?_; (on_goal 1 => (clear_value v_; rename' v_ => w_)); (on_goal 2 => (unfold v_; clear v_)))
       | (clear_value v_; rename' v_ => w_))
    | with_reducible apply modEvict_keeps
    | with_reducible apply modCore_keeps
    | with_reducible apply handStart_keeps
    | (with_reducible refine foldl_keeps (fun _ _ _ => ?_) ?_)
    | (with_reducible refine foldl_keeps1 (fun _ _ _ => ?_) ?_)
    | split

theorem fireStart_keeps (hm : Sub 0x568000 M) (u0 : BitVec 16) (a : BitVec 11) (k : BitVec 40) (pm : Pm)
    (h : Keeps M s t) :
    Keeps M s (fireStart t u0 a k pm) := by
  unfold fireStart
  repeat' first
    | with_reducible assumption
    | with_reducible exact Keeps.refl _
    | with_reducible exact Or.inr rfl
    | (extract_lets +onlyGivenNames v_; clear_value v_; rename' v_ => w_)
    | with_reducible apply startLc_keeps
    | with_reducible apply startBe_keeps
    | split

theorem leaveIdle_keeps (hm : Sub 0xc0000 M) (v : Evict) (h : Keeps M s t) :
    Keeps M s (leaveIdle t v) := by
  unfold leaveIdle
  repeat' first
    | with_reducible assumption
    | with_reducible exact Keeps.refl _
    | ((with_reducible refine hm.of ?_); exact rfl)
    | with_reducible exact Or.inr rfl
    | (with_reducible intro _)
    | with_reducible apply modPort_keeps
    | with_reducible apply modCore_keeps
    | (with_reducible refine foldl_keeps (fun _ _ _ => ?_) ?_)

theorem restoreCore_keeps (hm : Sub 0x4e0040 M) (v : Evict) (c : CoreId) (h : Keeps M s t) :
    Keeps M s (restoreCore t v c) := by
  unfold restoreCore
  repeat' first
    | with_reducible assumption
    | with_reducible exact Keeps.refl _
    | ((with_reducible refine hm.of ?_); exact rfl)
    | with_reducible exact Or.inr rfl
    | (extract_lets +onlyGivenNames v_
       first
       | (have hv_ : Keeps M s v_ := ?_; (on_goal 1 => (clear_value v_; rename' v_ => w_)); (on_goal 2 => (unfold v_; clear v_)))
       | (clear_value v_; rename' v_ => w_))
    | with_reducible apply zeroMem_keeps
    | with_reducible apply modPort_keeps
    | with_reducible apply coreFault_keeps
    | with_reducible apply modCore_keeps
    | split

theorem answerEnv_keeps (hm : Sub 0x1c00a20008 M) (h0 : BitVec 512) (ent : Fin 16) (from_ : Option Origin)
    (code : Err) (h : Keeps M s t) :
    Keeps M s (answerEnv t h0 ent from_ code) := by
  unfold answerEnv
  repeat' first
    | with_reducible assumption
    | with_reducible exact Keeps.refl _
    | ((with_reducible refine hm.of ?_); exact rfl)
    | ((with_reducible refine Or.inl (hm.bit ?_)); exact rfl)
    | with_reducible exact Or.inr rfl
    | (extract_lets +onlyGivenNames v_; clear_value v_; rename' v_ => w_)
    | with_reducible apply send_keeps
    | with_reducible apply answerReq_keeps
    | with_reducible apply addReceipt_keeps
    | split
    | with_reducible apply mk_keeps

theorem refuseEnv_keeps (hm : Sub 0x1c00aa0008 M) (h0 : BitVec 512) (ent : Fin 16) (from_ : Option Origin)
    (code : Err) (h : Keeps M s t) :
    Keeps M s (refuseEnv t h0 ent from_ code) := by
  unfold refuseEnv
  repeat' first
    | with_reducible assumption
    | with_reducible exact Keeps.refl _
    | ((with_reducible refine hm.of ?_); exact rfl)
    | with_reducible exact Or.inr rfl
    | (extract_lets +onlyGivenNames v_
       have hv_ : Keeps M s v_ := ?_; (on_goal 1 => (clear_value v_; rename' v_ => w_)); (on_goal 2 => (unfold v_; clear v_)))
    | with_reducible apply modPort_keeps
    | with_reducible apply answerEnv_keeps
    | split

theorem acceptEnv_keeps (hm : Sub 0x1c00aa0008 M) (h0 : BitVec 512) (pay : List Byte) (ent : Fin 16)
    (from_ : Option Origin) (h : Keeps M s t) :
    Keeps M s (acceptEnv t h0 pay ent from_) := by
  unfold acceptEnv
  repeat' first
    | with_reducible assumption
    | with_reducible exact Keeps.refl _
    | ((with_reducible refine hm.of ?_); exact rfl)
    | with_reducible exact Or.inr rfl
    | (extract_lets +onlyGivenNames v_; clear_value v_; rename' v_ => w_)
    | with_reducible apply modPort_keeps
    | with_reducible apply answerEnv_keeps

theorem guestArrives_keeps (hm : Sub 0x1c00a20008 M) (h0 : BitVec 512) (pay : List Byte) (ent : Fin 16)
    (from_ : Option Origin) (h : Keeps M s t) :
    Keeps M s (guestArrives t h0 pay ent from_) := by
  unfold guestArrives
  repeat' first
    | with_reducible assumption
    | with_reducible exact Keeps.refl _
    | ((with_reducible refine hm.of ?_); exact rfl)
    | ((with_reducible refine Or.inl (hm.bit ?_)); exact rfl)
    | with_reducible exact Or.inr rfl
    | (extract_lets +onlyGivenNames v_; clear_value v_; rename' v_ => w_)
    | with_reducible apply send_keeps
    | with_reducible apply answerEnv_keeps
    | split
    | with_reducible apply mk_keeps

theorem dropFlight_keeps (hm : Sub 0x200000 M) (i : Nat) (h : Keeps M s t) :
    Keeps M s (dropFlight t i) := by
  unfold dropFlight
  repeat' first
    | with_reducible assumption
    | with_reducible exact Keeps.refl _
    | ((with_reducible refine Or.inl (hm.bit ?_)); exact rfl)
    | with_reducible exact Or.inr rfl
    | split
    | with_reducible apply mk_keeps

theorem execEnvelopeArrival_keeps (hm : Sub 0x1c00aa0008 M) (i : Nat) (h : Keeps M s t) :
    KeepsR M s (execEnvelopeArrival i t) := by
  unfold execEnvelopeArrival
  repeat' first
    | with_reducible assumption
    | with_reducible exact Keeps.refl _
    | ((with_reducible refine hm.of ?_); exact rfl)
    | with_reducible exact Or.inr rfl
    | (extract_lets +onlyGivenNames v_
       have hv_ : Keeps M s v_ := ?_; (on_goal 1 => (clear_value v_; rename' v_ => w_)); (on_goal 2 => (unfold v_; clear v_)))
    | with_reducible apply dropFlight_keeps
    | with_reducible apply refuseEnv_keeps
    | with_reducible apply acceptEnv_keeps
    | with_reducible apply guestArrives_keeps
    | with_reducible apply next_keeps
    | with_reducible exact fault_keeps _
    | split

theorem freeOutbox_keeps (hm : Sub 0x80000 M) (c : CoreId) (ent : Fin 16) (h : Keeps M s t) :
    Keeps M s (freeOutbox t c ent) := by
  unfold freeOutbox
  repeat' first
    | with_reducible assumption
    | with_reducible exact Keeps.refl _
    | with_reducible exact Or.inr rfl
    | with_reducible apply modPort_keeps

theorem execAcknowledgementArrival_keeps (hm : Sub 0x1c00aa0008 M) (i : Nat) (h : Keeps M s t) :
    KeepsR M s (execAcknowledgementArrival i t) := by
  unfold execAcknowledgementArrival
  repeat' first
    | with_reducible assumption
    | with_reducible exact Keeps.refl _
    | ((with_reducible refine hm.of ?_); exact rfl)
    | with_reducible exact Or.inr rfl
    | (extract_lets +onlyGivenNames v_
       first
       | (have hv_ : Keeps M s v_ := ?_; (on_goal 1 => (clear_value v_; rename' v_ => w_)); (on_goal 2 => (unfold v_; clear v_)))
       | (clear_value v_; rename' v_ => w_))
    | with_reducible apply addReceipt_keeps
    | with_reducible apply freeOutbox_keeps
    | with_reducible apply dropFlight_keeps
    | with_reducible apply answerEnv_keeps
    | with_reducible apply next_keeps
    | with_reducible exact fault_keeps _
    | split

theorem undeliverable_keeps (hm : Sub 0x4a0000 M) (c : CoreId) (ent : Fin 16) (h0 : BitVec 512) (h : Keeps M s t) :
    Keeps M s (undeliverable t c ent h0) := by
  unfold undeliverable
  repeat' first
    | with_reducible assumption
    | with_reducible exact Keeps.refl _
    | ((with_reducible refine hm.of ?_); exact rfl)
    | with_reducible exact Or.inr rfl
    | with_reducible apply freeOutbox_keeps
    | with_reducible apply post_keeps
    | with_reducible apply markBad_keeps

theorem execDeadLetterArrival_keeps (hm : Sub 0x1c00ea0018 M) (i : Nat) (h : Keeps M s t) :
    KeepsR M s (execDeadLetterArrival i t) := by
  unfold execDeadLetterArrival
  repeat' first
    | with_reducible assumption
    | with_reducible exact Keeps.refl _
    | ((with_reducible refine hm.of ?_); exact rfl)
    | ((with_reducible refine Or.inl (hm.bit ?_)); exact rfl)
    | with_reducible exact Or.inr rfl
    | (extract_lets +onlyGivenNames v_
       first
       | (have hv_ : Keeps M s v_ := ?_; (on_goal 1 => (clear_value v_; rename' v_ => w_)); (on_goal 2 => (unfold v_; clear v_)))
       | (clear_value v_; rename' v_ => w_))
    | with_reducible apply modPort_keeps
    | with_reducible apply dropFlight_keeps
    | with_reducible apply undeliverable_keeps
    | with_reducible apply answerEnv_keeps
    | with_reducible apply next_keeps
    | with_reducible exact fault_keeps _
    | split
    | with_reducible apply mk_keeps

theorem execEnvelopeRetry_keeps (hm : Sub 0x1c002a0008 M) (c : CoreId) (e : Fin 16) (h : Keeps M s t) :
    KeepsR M s (execEnvelopeRetry c e t) := by
  unfold execEnvelopeRetry
  repeat' first
    | with_reducible assumption
    | with_reducible exact Keeps.refl _
    | ((with_reducible refine hm.of ?_); exact rfl)
    | with_reducible exact Or.inr rfl
    | with_reducible apply modPort_keeps
    | with_reducible apply whenever_keeps
    | with_reducible apply launch_keeps
    | with_reducible apply next_keeps
    | with_reducible exact fault_keeps _
    | split

theorem execDispatch_keeps (hm : Sub 0xc0040 M) (c : CoreId) (h : Keeps M s t) :
    KeepsR M s (execDispatch c t) := by
  unfold execDispatch
  repeat' first
    | with_reducible assumption
    | with_reducible exact Keeps.refl _
    | with_reducible exact Or.inr rfl
    | with_reducible apply dispatchEnv_keeps
    | with_reducible apply whenever_keeps
    | with_reducible apply next_keeps
    | with_reducible exact fault_keeps _
    | split

theorem execGuestAnswerTimeout_keeps (hm : Sub 0x1c00a20008 M) (i : Nat) (h : Keeps M s t) :
    KeepsR M s (execGuestAnswerTimeout i t) := by
  unfold execGuestAnswerTimeout
  repeat' first
    | with_reducible assumption
    | with_reducible exact Keeps.refl _
    | ((with_reducible refine hm.of ?_); exact rfl)
    | with_reducible exact Or.inr rfl
    | with_reducible apply whenever_keeps
    | with_reducible apply dropFlight_keeps
    | with_reducible apply answerEnv_keeps
    | with_reducible apply next_keeps
    | with_reducible exact fault_keeps _
    | split

theorem guestRefused_keeps (hm : Sub 0x8000020008 M) (die : BitVec 5) (err : Err) (h : Keeps M s t) :
    Keeps M s (guestRefused t die err) := by
  unfold guestRefused
  repeat' first
    | with_reducible assumption
    | with_reducible exact Keeps.refl _
    | ((with_reducible refine hm.of ?_); exact rfl)
    | with_reducible exact Or.inr rfl
    | (extract_lets +onlyGivenNames v_
       first
       | (have hv_ : Keeps M s v_ := ?_; (on_goal 1 => (clear_value v_; rename' v_ => w_)); (on_goal 2 => (unfold v_; clear v_)))
       | (clear_value v_; rename' v_ => w_))
    | with_reducible apply send_keeps
    | with_reducible apply modSite_keeps
    | with_reducible apply post_keeps

theorem execGuestRequest_keeps (hm : Sub 0x19c04a20048 M) (die : BitVec 5) (r : GuestReq) (h : Keeps M s t) :
    KeepsR M s (execGuestRequest die r t) := by
  unfold execGuestRequest
  repeat' first
    | with_reducible assumption
    | with_reducible exact Keeps.refl _
    | ((with_reducible refine hm.of ?_); exact rfl)
    | ((with_reducible refine Or.inl (hm.bit ?_)); exact rfl)
    | with_reducible exact Or.inr rfl
    | (with_reducible intro _)
    | (extract_lets +onlyGivenNames v_
       first
       | (have hf_ : ∀ x y z, Keeps M s z → KeepsR M s (v_ x y z) := ?_; (on_goal 1 => (clear_value v_; rename' v_ => w_)); (on_goal 2 => (unfold v_; clear v_; intro _ _ _ _)))
       | (clear_value v_; rename' v_ => w_))
    | with_reducible apply modHub_keeps
    | with_reducible apply send_keeps
    | with_reducible apply addReceipt_keeps
    | with_reducible apply sendReq_keeps
    | with_reducible apply guestRefused_keeps
    | with_reducible apply pkgWrite_keeps
    | with_reducible apply next_keeps
    | with_reducible exact fault_keeps _
    | (with_reducible refine getD_keeps ?_ (fun _ _ => ?_))
    | with_reducible apply hf_
    | split
    | with_reducible apply mk_keeps

theorem remoteWaits_keeps (hm : Sub 0x4000000 M) (q : Nat) (who : BitVec 15 × BitVec 20) (h : Keeps M s t) :
    Keeps M s (remoteWaits t q who) := by
  unfold remoteWaits
  repeat' first
    | with_reducible assumption
    | with_reducible exact Keeps.refl _
    | with_reducible exact Or.inr rfl
    | with_reducible apply modQueue_keeps
    | split

theorem remoteStarts_keeps (hm : Sub 0x4000000 M) (q : Nat) (who : BitVec 15 × BitVec 20) (h : Keeps M s t) :
    Keeps M s (remoteStarts t q who) := by
  unfold remoteStarts
  repeat' first
    | with_reducible assumption
    | with_reducible exact Keeps.refl _
    | with_reducible exact Or.inr rfl
    | with_reducible apply modQueue_keeps
    | split

theorem runWrite_keeps (hm : Sub 0x7820040 M) (p : Packet) (h : Keeps M s t) :
    Keeps M s (runWrite t p).1 := by
  unfold runWrite
  repeat' first
    | with_reducible assumption
    | with_reducible exact Keeps.refl _
    | ((with_reducible refine hm.of ?_); exact rfl)
    | with_reducible exact Or.inr rfl
    | (extract_lets +onlyGivenNames v_
       first
       | (have hv_ : Keeps M s v_ := ?_; (on_goal 1 => (clear_value v_; rename' v_ => w_)); (on_goal 2 => (unfold v_; clear v_)))
       | (clear_value v_; rename' v_ => w_))
    | with_reducible apply remoteStarts_keeps
    | with_reducible apply claimSlot_keeps
    | with_reducible apply recount_keeps
    | with_reducible apply addReceipt_keeps
    | with_reducible apply postPart_keeps
    | with_reducible apply remoteWaits_keeps
    | with_reducible apply pkgWrite_keeps
    | (with_reducible refine getD_keeps ?_ (fun _ _ => ?_))
    | (with_reducible refine fst_keeps (by with_reducible assumption) ?_)
    | split

theorem runRcptAdd_keeps (hm : Sub 0x820000 M) (h0 : Fin 4) (p : Packet) (h : Keeps M s t) :
    Keeps M s (runRcptAdd t h0 p).1 := by
  unfold runRcptAdd
  repeat' first
    | with_reducible assumption
    | with_reducible exact Keeps.refl _
    | ((with_reducible refine hm.of ?_); exact rfl)
    | with_reducible exact Or.inr rfl
    | (extract_lets +onlyGivenNames v_; clear_value v_; rename' v_ => w_)
    | with_reducible apply addReceipt_keeps
    | with_reducible apply post_keeps
    | (with_reducible refine fst_keeps (by with_reducible assumption) ?_)
    | split

theorem runPiece_keeps (hm : Sub 0x99f14ce8248 M) (h0 : Fin 4) (p : Packet) (met : PieceMet) (h : Keeps M s t) :
    Keeps M s (runPiece t h0 p met).1 := by
  unfold runPiece
  repeat' first
    | with_reducible assumption
    | with_reducible exact Keeps.refl _
    | ((with_reducible refine hm.of ?_); exact rfl)
    | with_reducible exact Or.inr rfl
    | (extract_lets +onlyGivenNames v_
       first
       | (have hv_ : Keeps M s v_ := ?_; (on_goal 1 => (clear_value v_; rename' v_ => w_)); (on_goal 2 => (unfold v_; clear v_)))
       | (clear_value v_; rename' v_ => w_))
    | with_reducible apply laneCheck_keeps
    | with_reducible apply metEcc_keeps
    | with_reducible apply pieceArrives_keeps
    | with_reducible apply lanesGone_keeps
    | with_reducible apply abortArrives_keeps
    | (with_reducible refine fst_keeps (by with_reducible assumption) ?_)
    | split

theorem runCommit_keeps (hm : Sub 0x1daad6804c M) (p : Packet) (h : Keeps M s t) :
    Keeps M s (runCommit t p).1 := by
  unfold runCommit
  repeat' first
    | with_reducible assumption
    | with_reducible exact Keeps.refl _
    | with_reducible exact Or.inr rfl
    | (extract_lets +onlyGivenNames v_; clear_value v_; rename' v_ => w_)
    | with_reducible apply commitArrives_keeps
    | (with_reducible refine fst_keeps (by with_reducible assumption) ?_)
    | split

theorem runReq_keeps (hm : Sub 0x99fbffe824c M) (h0 : Fin 4) (p : Packet) (met : PieceMet) (h : Keeps M s t) :
    Keeps M s (runReq t h0 p met).1 := by
  unfold runReq
  repeat' first
    | with_reducible assumption
    | with_reducible exact Keeps.refl _
    | ((with_reducible refine hm.of ?_); exact rfl)
    | ((with_reducible refine Or.inl (hm.bit ?_)); exact rfl)
    | with_reducible exact Or.inr rfl
    | (extract_lets +onlyGivenNames v_
       first
       | (have hv_ : Keeps M s v_.1 := ?_; (on_goal 1 => (clear_value v_; rename' v_ => w_)); (on_goal 2 => (unfold v_; clear v_)))
       | (clear_value v_; rename' v_ => w_))
    | with_reducible apply runRcptAdd_keeps
    | with_reducible apply runCommit_keeps
    | with_reducible apply runPiece_keeps
    | with_reducible apply runWrite_keeps
    | (with_reducible refine fst_keeps (by with_reducible assumption) ?_)
    | split
    | with_reducible apply mk_keeps

theorem runOne_keeps (hm : Sub 0x99fbffe824c M) (h0 : Fin 4) (p : Packet) (met : PieceMet) (h : Keeps M s t) :
    Keeps M s (runOne t h0 p met).1 := by
  unfold runOne
  repeat' first
    | with_reducible assumption
    | with_reducible exact Keeps.refl _
    | ((with_reducible refine hm.of ?_); exact rfl)
    | with_reducible exact Or.inr rfl
    | (extract_lets +onlyGivenNames v_
       first
       | (have hv_ : Keeps M s v_ := ?_; (on_goal 1 => (clear_value v_; rename' v_ => w_)); (on_goal 2 => (unfold v_; clear v_)))
       | (have hv_ : Keeps M s v_.1 := ?_; (on_goal 1 => (clear_value v_; rename' v_ => w_)); (on_goal 2 => (unfold v_; clear v_)))
       | (clear_value v_; rename' v_ => w_))
    | with_reducible apply answerReq_keeps
    | with_reducible apply sendRsp_keeps
    | with_reducible apply modE2e_keeps
    | with_reducible apply runReq_keeps
    | (with_reducible refine fst_keeps (by with_reducible assumption) ?_)
    | split

theorem runHeld_keeps (hm : Sub 0x99fbffe824c M) (h0 : Fin 4) (pkg : BitVec 15) (shub : BitVec 2) (a4 : Nat)
    (h : Keeps M s t) :
    Keeps M s (runHeld t h0 pkg shub a4) := by
  induction a4 generalizing t with
  | zero => exact h
  | succ n ih =>
    rw [runHeld]; split
    · exact h
    · split
      · exact h
      · split
        · exact h
        · dsimp only
          split
          · exact ih (runOne_keeps (hm.of rfl) _ _ _ (modE2e_keeps (hm.of rfl) _ _ h))
          · exact runOne_keeps (hm.of rfl) _ _ _ (modE2e_keeps (hm.of rfl) _ _ h)

theorem runAll_keeps (hm : Sub 0x99fbffe824c M) (h0 : Fin 4) (h : Keeps M s t) :
    Keeps M s (runAll t h0) := by
  unfold runAll
  repeat' first
    | with_reducible assumption
    | with_reducible exact Keeps.refl _
    | with_reducible exact Or.inr rfl
    | (with_reducible intro _)
    | with_reducible apply runHeld_keeps
    | (with_reducible refine foldl_keeps (fun _ _ _ => ?_) ?_)

theorem arrive_keeps (hm : Sub 0x99fbffe824c M) (h0 : Fin 4) (p : Packet) (met : PieceMet) (h : Keeps M s t) :
    Keeps M s (arrive t h0 p met) := by
  unfold arrive
  repeat' first
    | with_reducible assumption
    | with_reducible exact Keeps.refl _
    | ((with_reducible refine hm.of ?_); exact rfl)
    | with_reducible exact Or.inr rfl
    | (with_reducible intro _)
    | (extract_lets +onlyGivenNames v_
       first
       | (have hv_ : Keeps M s v_ := ?_; (on_goal 1 => (clear_value v_; rename' v_ => w_)); (on_goal 2 => (unfold v_; clear v_)))
       | (have hf_ : ∀ x, Keeps M s x → Keeps M s (v_ x) := ?_; (on_goal 1 => (clear_value v_; rename' v_ => w_)); (on_goal 2 => (unfold v_; clear v_; intro _ _)))
       | (clear_value v_; rename' v_ => w_))
    | with_reducible apply sendRsp_keeps
    | with_reducible apply runAll_keeps
    | with_reducible apply modE2e_keeps
    | (with_reducible refine fst_keeps (by with_reducible assumption) ?_)
    | with_reducible apply hf_
    | split

theorem ackArrives_keeps (hm : Sub 0x99fbffe824c M) (h0 : Fin 4) (p : Packet) (h : Keeps M s t) :
    Keeps M s (ackArrives t h0 p) := by
  unfold ackArrives
  repeat' first
    | with_reducible assumption
    | with_reducible exact Keeps.refl _
    | ((with_reducible refine hm.of ?_); exact rfl)
    | with_reducible exact Or.inr rfl
    | (extract_lets +onlyGivenNames v_; clear_value v_; rename' v_ => w_)
    | with_reducible apply runAll_keeps
    | with_reducible apply modE2e_keeps
    | split

theorem dropReq_keeps (hm : Sub 0x1c00020008 M) (h0 : Nat) (r : Req) (h : Keeps M s t) :
    Keeps M s (dropReq t h0 r) := by
  unfold dropReq
  repeat' first
    | with_reducible assumption
    | with_reducible exact Keeps.refl _
    | ((with_reducible refine hm.of ?_); exact rfl)
    | with_reducible exact Or.inr rfl
    | with_reducible apply sendWaiting_keeps
    | with_reducible apply modE2e_keeps

theorem rcptLost_keeps (hm : Sub 0x420000 M) (c : CoreId) (r : BitVec 14) (err : Err) (h : Keeps M s t) :
    Keeps M s (rcptLost t c r err) := by
  unfold rcptLost
  repeat' first
    | with_reducible assumption
    | with_reducible exact Keeps.refl _
    | ((with_reducible refine hm.of ?_); exact rfl)
    | with_reducible exact Or.inr rfl
    | with_reducible apply post_keeps
    | with_reducible apply markBad_keeps

theorem returnRemote_keeps (hm : Sub 0x1c03420008 M) (h0 : Nat) (n : BitVec 20) (err : Err) (i : Nat)
    (h : Keeps M s t) :
    Keeps M s (returnRemote t h0 n err i) := by
  unfold returnRemote
  repeat' first
    | with_reducible assumption
    | with_reducible exact Keeps.refl _
    | ((with_reducible refine hm.of ?_); exact rfl)
    | with_reducible exact Or.inr rfl
    | with_reducible apply returnCons_keeps
    | with_reducible apply sendWaiting_keeps
    | with_reducible apply modE2e_keeps
    | split

theorem pieceLost_keeps (hm : Sub 0x1e00020008 M) (h0 : Nat) (r : Req) (err : Err) (h : Keeps M s t) :
    Keeps M s (pieceLost t h0 r err) := by
  unfold pieceLost
  repeat' first
    | with_reducible assumption
    | with_reducible exact Keeps.refl _
    | with_reducible exact Or.inr rfl
    | (extract_lets +onlyGivenNames v_; clear_value v_; rename' v_ => w_)
    | with_reducible apply failColl_keeps
    | (with_reducible refine fst_keeps (by with_reducible assumption) ?_)
    | split

theorem completeReq_keeps (hm : Sub 0x9fabf6804c M) (h0 : Nat) (r : Req) (err : Err) (data : List Byte)
    (h : Keeps M s t) :
    Keeps M s (completeReq t h0 r err data) := by
  unfold completeReq
  repeat' first
    | with_reducible assumption
    | with_reducible exact Keeps.refl _
    | ((with_reducible refine hm.of ?_); exact rfl)
    | with_reducible exact Or.inr rfl
    | (extract_lets +onlyGivenNames v_
       have hv_ : Keeps M s v_ := ?_; (on_goal 1 => (clear_value v_; rename' v_ => w_)); (on_goal 2 => (unfold v_; clear v_)))
    | with_reducible apply pieceLost_keeps
    | with_reducible apply send_keeps
    | with_reducible apply returnRemote_keeps
    | with_reducible apply rcptLost_keeps
    | with_reducible apply guestRefused_keeps
    | with_reducible apply ckptFault_keeps
    | with_reducible apply answerArrives_keeps
    | with_reducible apply answerEnv_keeps
    | with_reducible apply dropReq_keeps
    | split

theorem rspArrives_keeps (hm : Sub 0x99fbffe824c M) (h0 : Fin 4) (p : Packet) (h : Keeps M s t) :
    Keeps M s (rspArrives t h0 p) := by
  unfold rspArrives
  repeat' first
    | with_reducible assumption
    | with_reducible exact Keeps.refl _
    | ((with_reducible refine hm.of ?_); exact rfl)
    | with_reducible exact Or.inr rfl
    | (with_reducible intro _)
    | (extract_lets +onlyGivenNames v_
       have hv_ : Keeps M s v_ := ?_; (on_goal 1 => (clear_value v_; rename' v_ => w_)); (on_goal 2 => (unfold v_; clear v_)))
    | with_reducible apply completeReq_keeps
    | with_reducible apply modE2e_keeps
    | with_reducible apply ackArrives_keeps
    | (with_reducible refine foldl_keeps (fun _ _ _ => ?_) ?_)
    | (with_reducible refine foldl_keeps1 (fun _ _ _ => ?_) ?_)
    | split

theorem execWritePacket_keeps (hm : Sub 0x99fbffe824c M) (h0 : Fin 4) (p : Packet) (h : Keeps M s t) :
    KeepsR M s (execWritePacket h0 p t) := by
  unfold execWritePacket
  repeat' first
    | with_reducible assumption
    | with_reducible exact Keeps.refl _
    | ((with_reducible refine hm.of ?_); exact rfl)
    | with_reducible exact Or.inr rfl
    | with_reducible apply whenever_keeps
    | with_reducible apply arrive_keeps
    | with_reducible apply leavePool_keeps

theorem execEnvelopePacket_keeps (hm : Sub 0x99fbffe824c M) (h0 : Fin 4) (p : Packet) (h : Keeps M s t) :
    KeepsR M s (execEnvelopePacket h0 p t) := by
  unfold execEnvelopePacket
  repeat' first
    | with_reducible assumption
    | with_reducible exact Keeps.refl _
    | ((with_reducible refine hm.of ?_); exact rfl)
    | with_reducible exact Or.inr rfl
    | with_reducible apply whenever_keeps
    | with_reducible apply arrive_keeps
    | with_reducible apply leavePool_keeps

theorem execRcptAddPacket_keeps (hm : Sub 0x99fbffe824c M) (h0 : Fin 4) (p : Packet) (h : Keeps M s t) :
    KeepsR M s (execRcptAddPacket h0 p t) := by
  unfold execRcptAddPacket
  repeat' first
    | with_reducible assumption
    | with_reducible exact Keeps.refl _
    | ((with_reducible refine hm.of ?_); exact rfl)
    | with_reducible exact Or.inr rfl
    | with_reducible apply whenever_keeps
    | with_reducible apply arrive_keeps
    | with_reducible apply leavePool_keeps

theorem execE2eAck_keeps (hm : Sub 0x99fbffe824c M) (h0 : Fin 4) (p : Packet) (h : Keeps M s t) :
    KeepsR M s (execE2eAck h0 p t) := by
  unfold execE2eAck
  repeat' first
    | with_reducible assumption
    | with_reducible exact Keeps.refl _
    | ((with_reducible refine hm.of ?_); exact rfl)
    | with_reducible exact Or.inr rfl
    | with_reducible apply whenever_keeps
    | with_reducible apply leavePool_keeps
    | with_reducible apply ackArrives_keeps

theorem execRsp_keeps (hm : Sub 0x99fbffe824c M) (h0 : Fin 4) (p : Packet) (h : Keeps M s t) :
    KeepsR M s (execRsp h0 p t) := by
  unfold execRsp
  repeat' first
    | with_reducible assumption
    | with_reducible exact Keeps.refl _
    | ((with_reducible refine hm.of ?_); exact rfl)
    | with_reducible exact Or.inr rfl
    | with_reducible apply whenever_keeps
    | with_reducible apply leavePool_keeps
    | with_reducible apply rspArrives_keeps

theorem execPacketTransit_keeps (hm : Sub 0xc00020008 M) (l : Fin 12) (cls : Bool) (p : Packet) (h : Keeps M s t) :
    KeepsR M s (execPacketTransit l cls p t) := by
  unfold execPacketTransit
  repeat' first
    | with_reducible assumption
    | with_reducible exact Keeps.refl _
    | ((with_reducible refine hm.of ?_); exact rfl)
    | with_reducible exact Or.inr rfl
    | (extract_lets +onlyGivenNames v_
       first
       | (have hv_ : Keeps M s v_ := ?_; (on_goal 1 => (clear_value v_; rename' v_ => w_)); (on_goal 2 => (unfold v_; clear v_)))
       | (clear_value v_; rename' v_ => w_))
    | with_reducible apply whenever_keeps
    | with_reducible apply leavePool_keeps
    | with_reducible apply post_keeps
    | with_reducible apply noWay_keeps
    | with_reducible apply dormantAnswer_keeps
    | with_reducible exact routePacket_keeps (hm.of rfl) _ _ _ (by with_reducible assumption) _ (by with_reducible assumption)
    | with_reducible apply next_keeps
    | with_reducible exact fault_keeps _
    | (with_reducible refine getD_keeps ?_ (fun _ _ => ?_))
    | (with_reducible refine fst_keeps (by with_reducible assumption) ?_)
    | split

theorem execBusyResendTimer_keeps (hm : Sub 0x1c00020008 M) (h0 : Fin 4) (i : Nat) (h : Keeps M s t) :
    KeepsR M s (execBusyResendTimer h0 i t) := by
  unfold execBusyResendTimer
  repeat' first
    | with_reducible assumption
    | with_reducible exact Keeps.refl _
    | with_reducible exact Or.inr rfl
    | with_reducible apply whenever_keeps
    | with_reducible apply launchReq_keeps
    | with_reducible apply next_keeps
    | with_reducible exact fault_keeps _
    | split

theorem execRequestTimeout_keeps (hm : Sub 0x9fabf6804c M) (h0 : Fin 4) (i : Nat) (h : Keeps M s t) :
    KeepsR M s (execRequestTimeout h0 i t) := by
  unfold execRequestTimeout
  repeat' first
    | with_reducible assumption
    | with_reducible exact Keeps.refl _
    | with_reducible exact Or.inr rfl
    | with_reducible apply whenever_keeps
    | with_reducible apply completeReq_keeps
    | with_reducible apply next_keeps
    | with_reducible exact fault_keeps _
    | split

theorem execE2eAckTimer_keeps (hm : Sub 0x1c00020008 M) (h0 : Fin 4) (i : Nat) (h : Keeps M s t) :
    KeepsR M s (execE2eAckTimer h0 i t) := by
  unfold execE2eAckTimer
  repeat' first
    | with_reducible assumption
    | with_reducible exact Keeps.refl _
    | ((with_reducible refine hm.of ?_); exact rfl)
    | with_reducible exact Or.inr rfl
    | (extract_lets +onlyGivenNames v_; clear_value v_; rename' v_ => w_)
    | with_reducible exact routePacket_keeps (hm.of rfl) _ _ _ (by with_reducible assumption) _ (by with_reducible assumption)
    | with_reducible apply modE2e_keeps
    | with_reducible apply next_keeps
    | with_reducible exact fault_keeps _
    | (with_reducible refine getD_keeps ?_ (fun _ _ => ?_))
    | split

theorem execStreamWindowIdle_keeps (hm : Sub 0x1000000000 M) (h0 : Fin 4) (i : Nat) (h : Keeps M s t) :
    KeepsR M s (execStreamWindowIdle h0 i t) := by
  unfold execStreamWindowIdle
  repeat' first
    | with_reducible assumption
    | with_reducible exact Keeps.refl _
    | with_reducible exact Or.inr rfl
    | with_reducible apply whenever_keeps
    | with_reducible apply modE2e_keeps
    | with_reducible apply next_keeps
    | with_reducible exact fault_keeps _
    | split

theorem execPiece_keeps (hm : Sub 0x99fbffe824c M) (h0 : Fin 4) (p : Packet) (met : PieceMet) (h : Keeps M s t) :
    KeepsR M s (execPiece h0 p met t) := by
  unfold execPiece
  repeat' first
    | with_reducible assumption
    | with_reducible exact Keeps.refl _
    | ((with_reducible refine hm.of ?_); exact rfl)
    | with_reducible exact Or.inr rfl
    | with_reducible apply whenever_keeps
    | with_reducible apply arrive_keeps
    | with_reducible apply leavePool_keeps

theorem execCollAbort_keeps (hm : Sub 0x99fbffe824c M) (h0 : Fin 4) (p : Packet) (h : Keeps M s t) :
    KeepsR M s (execCollAbort h0 p t) := by
  unfold execCollAbort
  repeat' first
    | with_reducible assumption
    | with_reducible exact Keeps.refl _
    | ((with_reducible refine hm.of ?_); exact rfl)
    | with_reducible exact Or.inr rfl
    | with_reducible apply whenever_keeps
    | with_reducible apply arrive_keeps
    | with_reducible apply leavePool_keeps

theorem execCommitVote_keeps (hm : Sub 0x99fbffe824c M) (h0 : Fin 4) (p : Packet) (h : Keeps M s t) :
    KeepsR M s (execCommitVote h0 p t) := by
  unfold execCommitVote
  repeat' first
    | with_reducible assumption
    | with_reducible exact Keeps.refl _
    | ((with_reducible refine hm.of ?_); exact rfl)
    | with_reducible exact Or.inr rfl
    | with_reducible apply whenever_keeps
    | with_reducible apply arrive_keeps
    | with_reducible apply leavePool_keeps

theorem execCommitConfirm_keeps (hm : Sub 0x99fbffe824c M) (h0 : Fin 4) (p : Packet) (h : Keeps M s t) :
    KeepsR M s (execCommitConfirm h0 p t) := by
  unfold execCommitConfirm
  repeat' first
    | with_reducible assumption
    | with_reducible exact Keeps.refl _
    | ((with_reducible refine hm.of ?_); exact rfl)
    | with_reducible exact Or.inr rfl
    | with_reducible apply whenever_keeps
    | with_reducible apply arrive_keeps
    | with_reducible apply leavePool_keeps

theorem execCommitAbort_keeps (hm : Sub 0x99fbffe824c M) (h0 : Fin 4) (p : Packet) (h : Keeps M s t) :
    KeepsR M s (execCommitAbort h0 p t) := by
  unfold execCommitAbort
  repeat' first
    | with_reducible assumption
    | with_reducible exact Keeps.refl _
    | ((with_reducible refine hm.of ?_); exact rfl)
    | with_reducible exact Or.inr rfl
    | with_reducible apply whenever_keeps
    | with_reducible apply arrive_keeps
    | with_reducible apply leavePool_keeps

theorem execCommitQuery_keeps (hm : Sub 0x99fbffe824c M) (h0 : Fin 4) (p : Packet) (h : Keeps M s t) :
    KeepsR M s (execCommitQuery h0 p t) := by
  unfold execCommitQuery
  repeat' first
    | with_reducible assumption
    | with_reducible exact Keeps.refl _
    | ((with_reducible refine hm.of ?_); exact rfl)
    | with_reducible exact Or.inr rfl
    | with_reducible apply whenever_keeps
    | with_reducible apply arrive_keeps
    | with_reducible apply leavePool_keeps

theorem execCommitQueryAnswer_keeps (hm : Sub 0x99fbffe824c M) (h0 : Fin 4) (p : Packet) (h : Keeps M s t) :
    KeepsR M s (execCommitQueryAnswer h0 p t) := by
  unfold execCommitQueryAnswer
  repeat' first
    | with_reducible assumption
    | with_reducible exact Keeps.refl _
    | ((with_reducible refine hm.of ?_); exact rfl)
    | with_reducible exact Or.inr rfl
    | with_reducible apply whenever_keeps
    | with_reducible apply leavePool_keeps
    | with_reducible apply rspArrives_keeps

theorem replayNoted_keeps (hm : Sub 0x80100020000 M) (src : BitVec 32) (pm : Pm) (ch : BitVec 32) (h : Keeps M s t) :
    Keeps M s (replayNoted t src pm ch) := by
  unfold replayNoted
  repeat' first
    | with_reducible assumption
    | with_reducible exact Keeps.refl _
    | ((with_reducible refine hm.of ?_); exact rfl)
    | with_reducible exact Or.inr rfl
    | (extract_lets +onlyGivenNames v_
       first
       | (have hv_ : Keeps M s v_ := ?_; (on_goal 1 => (clear_value v_; rename' v_ => w_)); (on_goal 2 => (unfold v_; clear v_)))
       | (clear_value v_; rename' v_ => w_))
    | with_reducible apply modSh_keeps
    | with_reducible apply warn_keeps
    | (with_reducible refine fst_keeps (by with_reducible assumption) ?_)
    | split

theorem modWay_keeps (hm : Sub 0x2000000000 M) (b : Nat) (p : Nat) (up : Bool) (f : HdiWay → HdiWay)
    (h : Keeps M s t) :
    Keeps M s (modWay t b p up f) := by
  unfold modWay
  repeat' first
    | with_reducible assumption
    | with_reducible exact Keeps.refl _
    | with_reducible exact Or.inr rfl
    | with_reducible apply modHdi_keeps

theorem sendFrame_keeps (hm : Sub 0x6000000000 M) (b : Nat) (p : Nat) (up : Bool) (h : Keeps M s t) :
    Keeps M s (sendFrame t b p up).1 := by
  unfold sendFrame
  repeat' first
    | with_reducible assumption
    | with_reducible exact Keeps.refl _
    | ((with_reducible refine hm.of ?_); exact rfl)
    | with_reducible exact Or.inr rfl
    | (with_reducible intro _)
    | (extract_lets +onlyGivenNames v_
       first
       | (have hv_ : Keeps M s v_ := ?_; (on_goal 1 => (clear_value v_; rename' v_ => w_)); (on_goal 2 => (unfold v_; clear v_)))
       | (have hf_ : ∀ x y, Keeps M s x → Keeps M s (v_ x y) := ?_; (on_goal 1 => (clear_value v_; rename' v_ => w_)); (on_goal 2 => (unfold v_; clear v_; intro _ _ _)))
       | (clear_value v_; rename' v_ => w_))
    | with_reducible apply modWay_keeps
    | with_reducible apply modFlow_keeps
    | (with_reducible refine fst_keeps (by with_reducible assumption) ?_)
    | with_reducible apply hf_
    | split

theorem handOn_keeps (hm : Sub 0x6000000008 M) (b : Nat) (up : Bool) (p : Nat) (u0 : HdiUnit) (h : Keeps M s t) :
    ∀ v, handOn t b up p u0 = some v → Keeps M s v := by
  intro v hv; unfold handOn at hv; dsimp only at hv
  split at hv
  · cases hv
    repeat' first
      | with_reducible assumption
      | ((with_reducible refine hm.of ?_); exact rfl)
      | with_reducible apply modWay_keeps
      | with_reducible apply send_keeps
  · split at hv
    · split at hv
      · cases hv
        repeat' first
          | with_reducible assumption
          | ((with_reducible refine hm.of ?_); exact rfl)
          | with_reducible apply modWay_keeps
          | with_reducible apply modFlow_keeps
      · cases hv
    · cases hv
      repeat' first
        | with_reducible assumption
        | ((with_reducible refine hm.of ?_); exact rfl)
        | with_reducible apply modWay_keeps

theorem handAll_keeps (hm : Sub 0x6000000008 M) (b : Nat) (up : Bool) (low : BitVec 16)
    (a3 : List (BitVec 16 × Nat × HdiUnit)) (a4 : State × List (BitVec 16 × Nat × HdiUnit) × List HdiChan)
    (hp_a4 : Keeps M s a4.1) :
    Keeps M s (handAll b up low a3 a4).1 := by
  induction a3 generalizing a4 with
  | nil => exact hp_a4
  | cons x l ih =>
    obtain ⟨s1, kept, shut⟩ := a4
    rw [handAll]; split
    · split
      · next e => exact ih _ (handOn_keeps (hm.of rfl) _ _ _ _ hp_a4 _ e)
      · exact ih _ hp_a4
    · exact ih _ hp_a4

theorem drainFlow_keeps (hm : Sub 0x6000000008 M) (b : Nat) (up : Bool) (h : Keeps M s t) :
    Keeps M s (drainFlow t b up) := by
  unfold drainFlow
  repeat' first
    | with_reducible assumption
    | with_reducible exact Keeps.refl _
    | ((with_reducible refine hm.of ?_); exact rfl)
    | with_reducible exact Or.inr rfl
    | (extract_lets +onlyGivenNames v_
       first
       | (have hv_ : Keeps M s v_.1 := ?_; (on_goal 1 => (clear_value v_; rename' v_ => w_)); (on_goal 2 => (unfold v_; clear v_)))
       | (clear_value v_; rename' v_ => w_))
    | with_reducible apply handAll_keeps
    | with_reducible apply modFlow_keeps

theorem takeUnits_keeps (hm : Sub 0x6000000008 M) (b : Nat) (p : Nat) (up : Bool) (fr : HdiFrame) (h : Keeps M s t) :
    Keeps M s (takeUnits t b p up fr) := by
  unfold takeUnits
  repeat' first
    | with_reducible assumption
    | with_reducible exact Keeps.refl _
    | ((with_reducible refine hm.of ?_); exact rfl)
    | with_reducible exact Or.inr rfl
    | (with_reducible intro _)
    | (extract_lets +onlyGivenNames v_
       first
       | (have hv_ : Keeps M s v_ := ?_; (on_goal 1 => (clear_value v_; rename' v_ => w_)); (on_goal 2 => (unfold v_; clear v_)))
       | (clear_value v_; rename' v_ => w_))
    | with_reducible apply modFlow_keeps
    | with_reducible apply drainFlow_keeps
    | (with_reducible refine foldl_keeps (fun _ _ _ => ?_) ?_)

theorem movePort_keeps (hm : Sub 0x6000000000 M) (b : Nat) (p : Nat) (h : Keeps M s t) :
    Keeps M s (movePort t b p) := by
  unfold movePort
  repeat' first
    | with_reducible assumption
    | with_reducible exact Keeps.refl _
    | ((with_reducible refine hm.of ?_); exact rfl)
    | with_reducible exact Or.inr rfl
    | (extract_lets +onlyGivenNames v_
       first
       | (have hv_ : Keeps M s v_ := ?_; (on_goal 1 => (clear_value v_; rename' v_ => w_)); (on_goal 2 => (unfold v_; clear v_)))
       | (clear_value v_; rename' v_ => w_))
    | with_reducible apply modFlow_keeps
    | with_reducible apply modHdi_keeps

theorem nakArrives_keeps (hm : Sub 0x6000020000 M) (b : Nat) (p : Nat) (up : Bool) (h : Keeps M s t) :
    Keeps M s (nakArrives t b p up) := by
  unfold nakArrives
  repeat' first
    | with_reducible assumption
    | with_reducible exact Keeps.refl _
    | ((with_reducible refine hm.of ?_); exact rfl)
    | with_reducible exact Or.inr rfl
    | (extract_lets +onlyGivenNames v_; clear_value v_; rename' v_ => w_)
    | with_reducible apply movePort_keeps
    | with_reducible apply modWay_keeps
    | with_reducible apply post_keeps
    | with_reducible apply modHdi_keeps
    | split

theorem takeUi126_keeps (hm : Sub 0x6000020000 M) (b : Nat) (p : Nat) (up : Bool) (h : Keeps M s t) :
    Keeps M s (takeUi126 t b p up) := by
  unfold takeUi126
  repeat' first
    | with_reducible assumption
    | with_reducible exact Keeps.refl _
    | ((with_reducible refine hm.of ?_); exact rfl)
    | with_reducible exact Or.inr rfl
    | (extract_lets +onlyGivenNames v_
       first
       | (have hv_ : Keeps M s v_ := ?_; (on_goal 1 => (clear_value v_; rename' v_ => w_)); (on_goal 2 => (unfold v_; clear v_)))
       | (clear_value v_; rename' v_ => w_))
    | with_reducible apply nakArrives_keeps
    | with_reducible apply modWay_keeps
    | split

theorem replayEnds_keeps (hm : Sub 0x82100020000 M) (b : Nat) (p : Nat) (up : Bool) (h : Keeps M s t) :
    Keeps M s (replayEnds t b p up) := by
  unfold replayEnds
  repeat' first
    | with_reducible assumption
    | with_reducible exact Keeps.refl _
    | ((with_reducible refine hm.of ?_); exact rfl)
    | with_reducible exact Or.inr rfl
    | (extract_lets +onlyGivenNames v_
       have hv_ : Keeps M s v_ := ?_; (on_goal 1 => (clear_value v_; rename' v_ => w_)); (on_goal 2 => (unfold v_; clear v_)))
    | with_reducible apply modWay_keeps
    | with_reducible apply post_keeps
    | with_reducible apply modHdi_keeps
    | with_reducible apply replayNoted_keeps
    | split

theorem frameArrives_keeps (hm : Sub 0x86100020008 M) (b : Nat) (p : Nat) (up : Bool) (crcOk : Bool) (fr : HdiFrame)
    (h : Keeps M s t) :
    Keeps M s (frameArrives t b p up crcOk fr) := by
  unfold frameArrives
  repeat' first
    | with_reducible assumption
    | with_reducible exact Keeps.refl _
    | ((with_reducible refine hm.of ?_); exact rfl)
    | with_reducible exact Or.inr rfl
    | (extract_lets +onlyGivenNames v_
       have hv_ : Keeps M s v_ := ?_; (on_goal 1 => (clear_value v_; rename' v_ => w_)); (on_goal 2 => (unfold v_; clear v_)))
    | with_reducible apply takeUi126_keeps
    | with_reducible apply modWay_keeps
    | with_reducible apply replayEnds_keeps
    | with_reducible apply takeUnits_keeps
    | split

theorem offer_keeps (hm : Sub 0x4000000000 M) (b : Nat) (up : Bool) (u0 : HdiUnit) (h : Keeps M s t) :
    Keeps M s (offer b up t u0) := by
  unfold offer
  repeat' first
    | with_reducible assumption
    | with_reducible exact Keeps.refl _
    | with_reducible exact Or.inr rfl
    | with_reducible apply modFlow_keeps
    | split

theorem execHdiFrameReceived_keeps (hm : Sub 0x86100020008 M) (b : Fin 40) (p : Fin 4) (up : Bool) (crcOk : Bool)
    (units : List HdiUnit) (h : Keeps M s t) :
    KeepsR M s (execHdiFrameReceived b p up crcOk units t) := by
  unfold execHdiFrameReceived
  repeat' first
    | with_reducible assumption
    | with_reducible exact Keeps.refl _
    | ((with_reducible refine hm.of ?_); exact rfl)
    | with_reducible exact Or.inr rfl
    | (with_reducible intro _)
    | (extract_lets +onlyGivenNames v_
       first
       | (have hv_ : Keeps M s v_ := ?_; (on_goal 1 => (clear_value v_; rename' v_ => w_)); (on_goal 2 => (unfold v_; clear v_)))
       | (have hv_ : Keeps M s v_.1 := ?_; (on_goal 1 => (clear_value v_; rename' v_ => w_)); (on_goal 2 => (unfold v_; clear v_))))
    | with_reducible apply whenever_keeps
    | with_reducible apply frameArrives_keeps
    | with_reducible apply sendFrame_keeps
    | with_reducible apply modFlow_keeps
    | with_reducible apply offer_keeps
    | with_reducible apply next_keeps
    | with_reducible exact fault_keeps _
    | (with_reducible refine foldl_keeps (fun _ _ _ => ?_) ?_)

theorem quiesceSched_keeps (hm : Sub 0x4 M) (h : Keeps M s t) :
    Keeps M s (quiesceSched t) := by
  unfold quiesceSched
  repeat' first
    | with_reducible assumption
    | with_reducible exact Keeps.refl _
    | ((with_reducible refine Or.inl (hm.bit ?_)); exact rfl)
    | with_reducible exact Or.inr rfl
    | split
    | with_reducible apply mk_keeps

theorem hubSplit_keeps (hm : Sub 0x20004 M) (b : Nat) (h : Keeps M s t) :
    Keeps M s (hubSplit t b) := by
  unfold hubSplit
  repeat' first
    | with_reducible assumption
    | with_reducible exact Keeps.refl _
    | ((with_reducible refine hm.of ?_); exact rfl)
    | with_reducible exact Or.inr rfl
    | with_reducible apply quiesceSched_keeps
    | with_reducible apply post_keeps

theorem retirePort_keeps (hm : Sub 0x8e100460004 M) (b : Nat) (p : Nat) (h : Keeps M s t) :
    Keeps M s (retirePort t b p) := by
  unfold retirePort
  repeat' first
    | with_reducible assumption
    | with_reducible exact Keeps.refl _
    | ((with_reducible refine hm.of ?_); exact rfl)
    | with_reducible exact Or.inr rfl
    | (extract_lets +onlyGivenNames v_
       first
       | (have hv_ : Keeps M s v_ := ?_; (on_goal 1 => (clear_value v_; rename' v_ => w_)); (on_goal 2 => (unfold v_; clear v_)))
       | (clear_value v_; rename' v_ => w_))
    | with_reducible apply modSite_keeps
    | with_reducible apply movePort_keeps
    | with_reducible apply retireSite_keeps
    | with_reducible apply recordRetired_keeps
    | with_reducible apply hubSplit_keeps
    | with_reducible apply post_keeps
    | with_reducible apply modHdi_keeps
    | split

theorem spareWires_keeps (hm : Sub 0x82100020000 M) (b : Nat) (p : Nat) (ws : List (Bool × BitVec 10))
    (h : Keeps M s t) :
    Keeps M s (spareWires t b p ws) := by
  unfold spareWires
  repeat' first
    | with_reducible assumption
    | with_reducible exact Keeps.refl _
    | ((with_reducible refine hm.of ?_); exact rfl)
    | with_reducible exact Or.inr rfl
    | (with_reducible intro _)
    | (extract_lets +onlyGivenNames v_; clear_value v_; rename' v_ => w_)
    | with_reducible apply modHdi_keeps
    | with_reducible apply lastingFault_keeps
    | (with_reducible refine foldl_keeps (fun _ _ _ => ?_) ?_)

theorem execHdiRetrainDone_keeps (hm : Sub 0x8e100460004 M) (b : Fin 40) (p : Fin 4)
    (badWires : List (Bool × BitVec 10)) (clockBad : Bool) (h : Keeps M s t) :
    KeepsR M s (execHdiRetrainDone b p badWires clockBad t) := by
  unfold execHdiRetrainDone
  repeat' first
    | with_reducible assumption
    | with_reducible exact Keeps.refl _
    | ((with_reducible refine hm.of ?_); exact rfl)
    | with_reducible exact Or.inr rfl
    | (extract_lets +onlyGivenNames v_; clear_value v_; rename' v_ => w_)
    | with_reducible apply whenever_keeps
    | with_reducible apply retirePort_keeps
    | with_reducible apply spareWires_keeps
    | with_reducible apply modHdi_keeps
    | with_reducible apply next_keeps
    | with_reducible exact fault_keeps _
    | split

theorem failPacket_keeps (hm : Sub 0xc00020008 M) (l : Nat) (w : Bool × Packet) (h : Keeps M s t) :
    Keeps M s (failPacket t l w) := by
  unfold failPacket
  repeat' first
    | with_reducible assumption
    | with_reducible exact Keeps.refl _
    | ((with_reducible refine hm.of ?_); exact rfl)
    | with_reducible exact Or.inr rfl
    | (extract_lets +onlyGivenNames v_; clear_value v_; rename' v_ => w_)
    | with_reducible apply putOnLink_keeps
    | with_reducible apply noWay_keeps
    | with_reducible exact routePacket_keeps (hm.of rfl) _ _ _ (by with_reducible assumption) _ (by with_reducible assumption)
    | (with_reducible refine getD_keeps ?_ (fun _ _ => ?_))
    | (with_reducible refine fst_keeps (by with_reducible assumption) ?_)
    | split

theorem goDown_keeps (hm : Sub 0xc00020008 M) (l : Nat) (cause : BitVec 4) (h : Keeps M s t) :
    Keeps M s (goDown t l cause) := by
  unfold goDown
  repeat' first
    | with_reducible assumption
    | with_reducible exact Keeps.refl _
    | ((with_reducible refine hm.of ?_); exact rfl)
    | with_reducible exact Or.inr rfl
    | (with_reducible intro _)
    | (extract_lets +onlyGivenNames v_
       first
       | (have hv_ : Keeps M s v_ := ?_; (on_goal 1 => (clear_value v_; rename' v_ => w_)); (on_goal 2 => (unfold v_; clear v_)))
       | (clear_value v_; rename' v_ => w_))
    | with_reducible apply modLink_keeps
    | with_reducible apply post_keeps
    | with_reducible apply failPacket_keeps
    | (with_reducible refine foldl_keeps (fun _ _ _ => ?_) ?_)
    | (with_reducible refine foldl_keeps1 (fun _ _ _ => ?_) ?_)
    | split

theorem linkFails_keeps (hm : Sub 0x80d00020008 M) (l : Nat) (cause : BitVec 4) (h : Keeps M s t) :
    Keeps M s (linkFails t l cause) := by
  unfold linkFails
  repeat' first
    | with_reducible assumption
    | with_reducible exact Keeps.refl _
    | ((with_reducible refine hm.of ?_); exact rfl)
    | with_reducible exact Or.inr rfl
    | (extract_lets +onlyGivenNames v_
       have hv_ : Keeps M s v_ := ?_; (on_goal 1 => (clear_value v_; rename' v_ => w_)); (on_goal 2 => (unfold v_; clear v_)))
    | with_reducible apply recordRetired_keeps
    | with_reducible apply goDown_keeps
    | with_reducible apply post_keeps

theorem linkDenied_keeps (hm : Sub 0x80d00020008 M) (l : Nat) (h : Keeps M s t) :
    Keeps M s (linkDenied t l) := by
  unfold linkDenied
  repeat' first
    | with_reducible assumption
    | with_reducible exact Keeps.refl _
    | ((with_reducible refine hm.of ?_); exact rfl)
    | with_reducible exact Or.inr rfl
    | with_reducible apply linkFails_keeps
    | with_reducible apply postDenied_keeps

theorem resendAll_keeps (hm : Sub 0xc00000008 M) (l : Nat) (h : Keeps M s t) :
    Keeps M s (resendAll t l) := by
  unfold resendAll
  repeat' first
    | with_reducible assumption
    | with_reducible exact Keeps.refl _
    | ((with_reducible refine hm.of ?_); exact rfl)
    | with_reducible exact Or.inr rfl
    | (with_reducible intro _)
    | with_reducible apply putFlit_keeps
    | with_reducible apply modLink_keeps
    | (with_reducible refine foldl_keeps (fun _ _ _ => ?_) ?_)

theorem makeReplay_keeps (hm : Sub 0x80d00020008 M) (l : Nat) (n : Nat) (h : Keeps M s t) :
    Keeps M s (makeReplay t l n) := by
  unfold makeReplay
  repeat' first
    | with_reducible assumption
    | with_reducible exact Keeps.refl _
    | ((with_reducible refine hm.of ?_); exact rfl)
    | with_reducible exact Or.inr rfl
    | (extract_lets +onlyGivenNames v_
       have hv_ : Keeps M s v_ := ?_; (on_goal 1 => (clear_value v_; rename' v_ => w_)); (on_goal 2 => (unfold v_; clear v_)))
    | with_reducible apply resendAll_keeps
    | with_reducible apply modLink_keeps
    | with_reducible apply replayNoted_keeps
    | with_reducible apply modLinkCtr_keeps

theorem startRetrain_keeps (hm : Sub 0xc00020000 M) (l : Nat) (h : Keeps M s t) :
    Keeps M s (startRetrain t l) := by
  unfold startRetrain
  repeat' first
    | with_reducible assumption
    | with_reducible exact Keeps.refl _
    | ((with_reducible refine hm.of ?_); exact rfl)
    | with_reducible exact Or.inr rfl
    | (extract_lets +onlyGivenNames v_
       have hv_ : Keeps M s v_ := ?_; (on_goal 1 => (clear_value v_; rename' v_ => w_)); (on_goal 2 => (unfold v_; clear v_)))
    | with_reducible apply modLink_keeps
    | with_reducible apply post_keeps
    | with_reducible apply modLinkCtr_keeps

theorem replayNeeded_keeps (hm : Sub 0x80d00020008 M) (l : Nat) (h : Keeps M s t) :
    Keeps M s (replayNeeded t l) := by
  unfold replayNeeded
  repeat' first
    | with_reducible assumption
    | with_reducible exact Keeps.refl _
    | ((with_reducible refine hm.of ?_); exact rfl)
    | with_reducible exact Or.inr rfl
    | (extract_lets +onlyGivenNames v_; clear_value v_; rename' v_ => w_)
    | with_reducible apply linkFails_keeps
    | with_reducible apply makeReplay_keeps
    | with_reducible apply startRetrain_keeps
    | split

theorem ackFlits_keeps (hm : Sub 0xc00020000 M) (l : Nat) (ack : BitVec 16) (h : Keeps M s t) :
    Keeps M s (ackFlits t l ack) := by
  unfold ackFlits
  repeat' first
    | with_reducible assumption
    | with_reducible exact Keeps.refl _
    | ((with_reducible refine hm.of ?_); exact rfl)
    | with_reducible exact Or.inr rfl
    | (extract_lets +onlyGivenNames v_
       first
       | (have hv_ : Keeps M s v_ := ?_; (on_goal 1 => (clear_value v_; rename' v_ => w_)); (on_goal 2 => (unfold v_; clear v_)))
       | (clear_value v_; rename' v_ => w_))
    | with_reducible apply modLink_keeps
    | with_reducible apply post_keeps
    | with_reducible apply modLinkCtr_keeps
    | split

theorem returnStamps_keeps (hm : Sub 0x400000000 M) (l : Nat) (h0 : BitVec 512) (h : Keeps M s t) :
    Keeps M s (returnStamps t l h0) := by
  unfold returnStamps
  repeat' first
    | with_reducible assumption
    | with_reducible exact Keeps.refl _
    | with_reducible exact Or.inr rfl
    | (with_reducible intro _)
    | (extract_lets +onlyGivenNames v_; clear_value v_; rename' v_ => w_)
    | with_reducible apply modLink_keeps

theorem countFlit_keeps (hm : Sub 0x800000000 M) (l : Nat) (f : Flit) (h : Keeps M s t) :
    Keeps M s (countFlit t l f) := by
  unfold countFlit
  repeat' first
    | with_reducible assumption
    | with_reducible exact Keeps.refl _
    | with_reducible exact Or.inr rfl
    | (extract_lets +onlyGivenNames v_; clear_value v_; rename' v_ => w_)
    | with_reducible apply modLinkCtr_keeps

theorem dropPacket_keeps (hm : Sub 0xc00020000 M) (l : Nat) (q : Nat) (n : Nat) (h : Keeps M s t) :
    Keeps M s (dropPacket t l q n) := by
  unfold dropPacket
  repeat' first
    | with_reducible assumption
    | with_reducible exact Keeps.refl _
    | ((with_reducible refine hm.of ?_); exact rfl)
    | with_reducible exact Or.inr rfl
    | with_reducible apply oweStamps_keeps
    | with_reducible apply post_keeps
    | with_reducible apply modLinkCtr_keeps

theorem takeSlot_keeps (hm : Sub 0xc00020000 M) (l : Nat) (h0 : BitVec 512) (n : Nat) (unit : List Byte)
    (h : Keeps M s t) :
    Keeps M s (takeSlot t l h0 n unit) := by
  unfold takeSlot
  repeat' first
    | with_reducible assumption
    | with_reducible exact Keeps.refl _
    | ((with_reducible refine hm.of ?_); exact rfl)
    | with_reducible exact Or.inr rfl
    | (with_reducible intro _)
    | (extract_lets +onlyGivenNames v_
       first
       | (have hv_ : Keeps M s v_ := ?_; (on_goal 1 => (clear_value v_; rename' v_ => w_)); (on_goal 2 => (unfold v_; clear v_)))
       | (have hf_ : ∀ x y, Keeps M s x → Keeps M s (v_ x y) := ?_; (on_goal 1 => (clear_value v_; rename' v_ => w_)); (on_goal 2 => (unfold v_; clear v_; intro _ _ _)))
       | (clear_value v_; rename' v_ => w_))
    | with_reducible apply dropPacket_keeps
    | with_reducible apply modLink_keeps
    | with_reducible apply oweStamps_keeps
    | (with_reducible refine fst_keeps (by with_reducible assumption) ?_)
    | with_reducible apply hf_
    | split

theorem takeSlots_keeps (hm : Sub 0xc00020000 M) (l : Nat) (f : Flit) (h : Keeps M s t) :
    Keeps M s (takeSlots t l f) := by
  unfold takeSlots
  repeat' first
    | with_reducible assumption
    | with_reducible exact Keeps.refl _
    | with_reducible exact Or.inr rfl
    | (with_reducible intro _)
    | with_reducible apply takeSlot_keeps
    | (with_reducible refine foldl_keeps (fun _ _ _ => ?_) ?_)
    | (with_reducible refine foldl_keeps1 (fun _ _ _ => ?_) ?_)
    | (with_reducible refine getD_keeps ?_ (fun _ _ => ?_))
    | split

theorem flitHeader_keeps (hm : Sub 0x80d00020008 M) (l : Nat) (h0 : BitVec 512) (h : Keeps M s t) :
    Keeps M s (flitHeader t l h0) := by
  unfold flitHeader
  repeat' first
    | with_reducible assumption
    | with_reducible exact Keeps.refl _
    | ((with_reducible refine hm.of ?_); exact rfl)
    | with_reducible exact Or.inr rfl
    | (extract_lets +onlyGivenNames v_
       have hv_ : Keeps M s v_ := ?_; (on_goal 1 => (clear_value v_; rename' v_ => w_)); (on_goal 2 => (unfold v_; clear v_)))
    | with_reducible apply replayNeeded_keeps
    | with_reducible apply ackFlits_keeps
    | with_reducible apply returnStamps_keeps
    | split

theorem refuseFlit_keeps (hm : Sub 0x400000000 M) (l : Nat) (h : Keeps M s t) :
    Keeps M s (refuseFlit t l) := by
  unfold refuseFlit
  repeat' first
    | with_reducible assumption
    | with_reducible exact Keeps.refl _
    | with_reducible exact Or.inr rfl
    | with_reducible apply modLink_keeps

theorem acceptFlit_keeps (hm : Sub 0x80d00020008 M) (l : Nat) (f : Flit) (h : Keeps M s t) :
    Keeps M s (acceptFlit t l f) := by
  unfold acceptFlit
  repeat' first
    | with_reducible assumption
    | with_reducible exact Keeps.refl _
    | ((with_reducible refine hm.of ?_); exact rfl)
    | with_reducible exact Or.inr rfl
    | (extract_lets +onlyGivenNames v_
       have hv_ : Keeps M s v_ := ?_; (on_goal 1 => (clear_value v_; rename' v_ => w_)); (on_goal 2 => (unfold v_; clear v_)))
    | with_reducible apply modLink_keeps
    | with_reducible apply flitHeader_keeps
    | with_reducible apply takeSlots_keeps
    | with_reducible apply modLinkCtr_keeps

theorem flitArrives_keeps (hm : Sub 0x80d00020008 M) (l : Nat) (f : Flit) (h : Keeps M s t) :
    Keeps M s (flitArrives t l f) := by
  unfold flitArrives
  repeat' first
    | with_reducible assumption
    | with_reducible exact Keeps.refl _
    | ((with_reducible refine hm.of ?_); exact rfl)
    | with_reducible exact Or.inr rfl
    | (extract_lets +onlyGivenNames v_
       have hv_ : Keeps M s v_ := ?_; (on_goal 1 => (clear_value v_; rename' v_ => w_)); (on_goal 2 => (unfold v_; clear v_)))
    | with_reducible apply answerLink_keeps
    | with_reducible apply acceptFlit_keeps
    | with_reducible apply refuseFlit_keeps
    | with_reducible apply countFlit_keeps
    | split

theorem retireLanes_keeps (hm : Sub 0x80100020000 M) (l : Nat) (bad : BitVec 8) (h : Keeps M s t) :
    Keeps M s (retireLanes t l bad) := by
  unfold retireLanes
  repeat' first
    | with_reducible assumption
    | with_reducible exact Keeps.refl _
    | with_reducible exact Or.inr rfl
    | (with_reducible intro _)
    | with_reducible apply lastingFault_keeps
    | (with_reducible refine foldl_keeps (fun _ _ _ => ?_) ?_)
    | (with_reducible refine foldl_keeps1 (fun _ _ _ => ?_) ?_)
    | split

theorem backInService_keeps (hm : Sub 0x80000000000 M) (chs : List (BitVec 32)) (h : Keeps M s t) :
    Keeps M s (backInService t chs) := by
  unfold backInService
  repeat' first
    | with_reducible assumption
    | with_reducible exact Keeps.refl _
    | with_reducible exact Or.inr rfl
    | with_reducible apply modSh_keeps

theorem postWidth_keeps (hm : Sub 0x20000 M) (l : Nat) (cause : Err) (ol : BitVec 2) (nl : BitVec 2)
    (or_ : BitVec 2) (nr : BitVec 2) (h : Keeps M s t) :
    Keeps M s (postWidth t l cause ol nl or_ nr) := by
  unfold postWidth
  repeat' first
    | with_reducible assumption
    | with_reducible exact Keeps.refl _
    | with_reducible exact Or.inr rfl
    | with_reducible apply post_keeps
    | (with_reducible refine fst_keeps (by with_reducible assumption) ?_)
    | split

theorem retrained_keeps (hm : Sub 0x80d00020008 M) (l : Nat) (ok : BitVec 8) (h : Keeps M s t) :
    Keeps M s (retrained t l ok) := by
  unfold retrained
  repeat' first
    | with_reducible assumption
    | with_reducible exact Keeps.refl _
    | ((with_reducible refine hm.of ?_); exact rfl)
    | with_reducible exact Or.inr rfl
    | (extract_lets +onlyGivenNames v_
       first
       | (have hv_ : Keeps M s v_ := ?_; (on_goal 1 => (clear_value v_; rename' v_ => w_)); (on_goal 2 => (unfold v_; clear v_)))
       | (clear_value v_; rename' v_ => w_))
    | with_reducible apply answerLink_keeps
    | with_reducible apply modLink_keeps
    | with_reducible apply retireLanes_keeps
    | with_reducible apply postWidth_keeps
    | with_reducible apply makeReplay_keeps
    | with_reducible apply linkDenied_keeps
    | with_reducible apply laneRetrained_keeps
    | split

theorem retrainLower_keeps (hm : Sub 0x80d00020008 M) (l : Nat) (h : Keeps M s t) :
    Keeps M s (retrainLower t l) := by
  unfold retrainLower
  repeat' first
    | with_reducible assumption
    | with_reducible exact Keeps.refl _
    | ((with_reducible refine hm.of ?_); exact rfl)
    | with_reducible exact Or.inr rfl
    | (extract_lets +onlyGivenNames v_; clear_value v_; rename' v_ => w_)
    | with_reducible apply linkFails_keeps
    | with_reducible apply modLink_keeps
    | with_reducible apply postWidth_keeps
    | with_reducible apply linkDenied_keeps
    | split

theorem authFails_keeps (hm : Sub 0xc00020008 M) (l : Nat) (cause : BitVec 4) (step : Nat) (h : Keeps M s t) :
    Keeps M s (authFails t l cause step) := by
  unfold authFails
  repeat' first
    | with_reducible assumption
    | with_reducible exact Keeps.refl _
    | ((with_reducible refine hm.of ?_); exact rfl)
    | with_reducible exact Or.inr rfl
    | with_reducible apply modLink_keeps
    | with_reducible apply goDown_keeps
    | with_reducible apply post_keeps

theorem comeUp_keeps (hm : Sub 0x80400020000 M) (l : Nat) (live : BitVec 8) (secret : BitVec 384) (h : Keeps M s t) :
    Keeps M s (comeUp t l live secret) := by
  unfold comeUp
  repeat' first
    | with_reducible assumption
    | with_reducible exact Keeps.refl _
    | ((with_reducible refine hm.of ?_); exact rfl)
    | with_reducible exact Or.inr rfl
    | (extract_lets +onlyGivenNames v_
       have hv_ : Keeps M s v_ := ?_; (on_goal 1 => (clear_value v_; rename' v_ => w_)); (on_goal 2 => (unfold v_; clear v_)))
    | with_reducible apply modLink_keeps
    | with_reducible apply post_keeps
    | with_reducible apply laneRetrained_keeps
    | with_reducible apply backInService_keeps

theorem trained_keeps (hm : Sub 0x80d00020008 M) (l : Nat) (r : TrainResult) (h : Keeps M s t) :
    Keeps M s (trained t l r) := by
  unfold trained
  repeat' first
    | with_reducible assumption
    | with_reducible exact Keeps.refl _
    | ((with_reducible refine hm.of ?_); exact rfl)
    | with_reducible exact Or.inr rfl
    | (extract_lets +onlyGivenNames v_
       first
       | (have hv_ : Keeps M s v_ := ?_; (on_goal 1 => (clear_value v_; rename' v_ => w_)); (on_goal 2 => (unfold v_; clear v_)))
       | (clear_value v_; rename' v_ => w_))
    | with_reducible apply linkFails_keeps
    | with_reducible apply modLink_keeps
    | with_reducible apply authFails_keeps
    | with_reducible apply retireLanes_keeps
    | with_reducible apply linkDenied_keeps
    | with_reducible apply goDown_keeps
    | with_reducible apply post_keeps
    | with_reducible apply comeUp_keeps
    | (with_reducible refine fst_keeps (by with_reducible assumption) ?_)
    | split

theorem sendLinkCtl_keeps (hm : Sub 0x400020008 M) (l : Nat) (kind : Nat) (lanes : BitVec 2) (rate : BitVec 2)
    (h : Keeps M s t) :
    Keeps M s (sendLinkCtl t l kind lanes rate) := by
  unfold sendLinkCtl
  repeat' first
    | with_reducible assumption
    | with_reducible exact Keeps.refl _
    | with_reducible exact Or.inr rfl
    | with_reducible apply queueFrame_keeps

theorem askWidth_keeps (hm : Sub 0x400020008 M) (l : Nat) (lanes : BitVec 2) (rate : BitVec 2) (h : Keeps M s t) :
    Keeps M s (askWidth t l lanes rate) := by
  unfold askWidth
  repeat' first
    | with_reducible assumption
    | with_reducible exact Keeps.refl _
    | ((with_reducible refine hm.of ?_); exact rfl)
    | with_reducible exact Or.inr rfl
    | with_reducible apply modLink_keeps
    | with_reducible apply sendLinkCtl_keeps

theorem changeTo_keeps (hm : Sub 0x400000000 M) (l : Nat) (b : BitVec 2 × BitVec 2) (h : Keeps M s t) :
    Keeps M s (changeTo t l b) := by
  unfold changeTo
  repeat' first
    | with_reducible assumption
    | with_reducible exact Keeps.refl _
    | with_reducible exact Or.inr rfl
    | (extract_lets +onlyGivenNames v_; clear_value v_; rename' v_ => w_)
    | with_reducible apply modLink_keeps
    | (with_reducible refine fst_keeps (by with_reducible assumption) ?_)
    | split

theorem peerWidth_keeps (hm : Sub 0x400020008 M) (l : Nat) (lanes : BitVec 2) (rate : BitVec 2) (h : Keeps M s t) :
    Keeps M s (peerWidth t l lanes rate) := by
  unfold peerWidth
  repeat' first
    | with_reducible assumption
    | with_reducible exact Keeps.refl _
    | ((with_reducible refine hm.of ?_); exact rfl)
    | with_reducible exact Or.inr rfl
    | (extract_lets +onlyGivenNames v_
       first
       | (have hv_ : Keeps M s v_ := ?_; (on_goal 1 => (clear_value v_; rename' v_ => w_)); (on_goal 2 => (unfold v_; clear v_)))
       | (clear_value v_; rename' v_ => w_))
    | with_reducible apply modLink_keeps
    | with_reducible apply postDenied_keeps
    | with_reducible apply changeTo_keeps
    | with_reducible apply sendLinkCtl_keeps
    | split

theorem peerAnswers_keeps (hm : Sub 0x400000000 M) (l : Nat) (lanes : BitVec 2) (rate : BitVec 2) (h : Keeps M s t) :
    Keeps M s (peerAnswers t l lanes rate) := by
  unfold peerAnswers
  repeat' first
    | with_reducible assumption
    | with_reducible exact Keeps.refl _
    | with_reducible exact Or.inr rfl
    | (extract_lets +onlyGivenNames v_; clear_value v_; rename' v_ => w_)
    | with_reducible apply changeTo_keeps
    | (with_reducible refine fst_keeps (by with_reducible assumption) ?_)
    | split

theorem widthChanged_keeps (hm : Sub 0xc00020008 M) (l : Nat) (h : Keeps M s t) :
    Keeps M s (widthChanged t l) := by
  unfold widthChanged
  repeat' first
    | with_reducible assumption
    | with_reducible exact Keeps.refl _
    | ((with_reducible refine hm.of ?_); exact rfl)
    | with_reducible exact Or.inr rfl
    | (extract_lets +onlyGivenNames v_
       first
       | (have hv_ : Keeps M s v_ := ?_; (on_goal 1 => (clear_value v_; rename' v_ => w_)); (on_goal 2 => (unfold v_; clear v_)))
       | (clear_value v_; rename' v_ => w_))
    | with_reducible apply resendAll_keeps
    | with_reducible apply answerLink_keeps
    | with_reducible apply modLink_keeps
    | with_reducible apply postWidth_keeps

theorem trainAgain_keeps (hm : Sub 0xc00020008 M) (l : Nat) (cause : BitVec 4) (h : Keeps M s t) :
    Keeps M s (trainAgain t l cause) := by
  unfold trainAgain
  repeat' first
    | with_reducible assumption
    | with_reducible exact Keeps.refl _
    | ((with_reducible refine hm.of ?_); exact rfl)
    | with_reducible exact Or.inr rfl
    | (extract_lets +onlyGivenNames v_
       have hv_ : Keeps M s v_ := ?_; (on_goal 1 => (clear_value v_; rename' v_ => w_)); (on_goal 2 => (unfold v_; clear v_)))
    | with_reducible apply modLink_keeps
    | with_reducible apply goDown_keeps
    | with_reducible apply sendLinkCtl_keeps
    | split

theorem ringIrq_keeps (hm : Sub 0x10008 M) (c : Fin 64) (now : Bool) (h : Keeps M s t) :
    Keeps M s (ringIrq t c now) := by
  unfold ringIrq
  repeat' first
    | with_reducible assumption
    | with_reducible exact Keeps.refl _
    | ((with_reducible refine hm.of ?_); exact rfl)
    | with_reducible exact Or.inr rfl
    | (extract_lets +onlyGivenNames v_; clear_value v_; rename' v_ => w_)
    | with_reducible apply send_keeps
    | with_reducible apply modDoor_keeps
    | split

theorem writeRec_keeps (hm : Sub 0x10088 M) (c : Fin 64) (r : Rec) (h : Keeps M s t) :
    Keeps M s (writeRec t c r) := by
  unfold writeRec
  repeat' first
    | with_reducible assumption
    | with_reducible exact Keeps.refl _
    | ((with_reducible refine hm.of ?_); exact rfl)
    | with_reducible exact Or.inr rfl
    | (extract_lets +onlyGivenNames v_
       first
       | (have hv_ : Keeps M s v_ := ?_; (on_goal 1 => (clear_value v_; rename' v_ => w_)); (on_goal 2 => (unfold v_; clear v_)))
       | (clear_value v_; rename' v_ => w_))
    | with_reducible apply ringIrq_keeps
    | with_reducible apply modDoor_keeps
    | with_reducible apply wrHost_keeps

theorem takeHeld_keeps (hm : Sub 0x30000 M) (c : Fin 64) (r : Rec) (h : Keeps M s t) :
    Keeps M s (takeHeld t c r) := by
  unfold takeHeld
  repeat' first
    | with_reducible assumption
    | with_reducible exact Keeps.refl _
    | ((with_reducible refine hm.of ?_); exact rfl)
    | with_reducible exact Or.inr rfl
    | with_reducible apply modDoor_keeps
    | with_reducible apply modPaths_keeps
    | split

theorem countDrop_keeps (hm : Sub 0x10000 M) (c : Fin 64) (isTrace : Bool) (h : Keeps M s t) :
    Keeps M s (countDrop t c isTrace) := by
  unfold countDrop
  repeat' first
    | with_reducible assumption
    | with_reducible exact Keeps.refl _
    | with_reducible exact Or.inr rfl
    | with_reducible apply modDoor_keeps

theorem holdLog_keeps (hm : Sub 0x10000 M) (c : Fin 64) (r : Rec) (h : Keeps M s t) :
    Keeps M s (holdLog t c r) := by
  unfold holdLog
  repeat' first
    | with_reducible assumption
    | with_reducible exact Keeps.refl _
    | with_reducible exact Or.inr rfl
    | (extract_lets +onlyGivenNames v_
       first
       | (have hv_ : Keeps M s v_ := ?_; (on_goal 1 => (clear_value v_; rename' v_ => w_)); (on_goal 2 => (unfold v_; clear v_)))
       | (clear_value v_; rename' v_ => w_))
    | with_reducible apply countDrop_keeps
    | with_reducible apply modDoor_keeps
    | split

theorem deliverHeld_keeps (hm : Sub 0x30088 M) (c : Fin 64) (h : Keeps M s t) :
    Keeps M s (deliverHeld t c) := by
  unfold deliverHeld
  repeat' first
    | with_reducible assumption
    | with_reducible exact Keeps.refl _
    | ((with_reducible refine hm.of ?_); exact rfl)
    | with_reducible exact Or.inr rfl
    | (extract_lets +onlyGivenNames v_; clear_value v_; rename' v_ => w_)
    | with_reducible apply writeRec_keeps
    | with_reducible apply modDoor_keeps
    | with_reducible apply takeHeld_keeps
    | split

theorem writeNow_keeps (hm : Sub 0x10088 M) (c : Fin 64) (r : Rec) (h : Keeps M s t) :
    Keeps M s (writeNow t c r) := by
  unfold writeNow
  repeat' first
    | with_reducible assumption
    | with_reducible exact Keeps.refl _
    | ((with_reducible refine hm.of ?_); exact rfl)
    | with_reducible exact Or.inr rfl
    | (extract_lets +onlyGivenNames v_; clear_value v_; rename' v_ => w_)
    | with_reducible apply writeRec_keeps
    | with_reducible apply modDoor_keeps
    | split

theorem toRings_keeps (hm : Sub 0x30088 M) (r : Rec) (h : Keeps M s t) :
    Keeps M s (toRings t r) := by
  unfold toRings
  repeat' first
    | with_reducible assumption
    | with_reducible exact Keeps.refl _
    | ((with_reducible refine hm.of ?_); exact rfl)
    | with_reducible exact Or.inr rfl
    | (with_reducible intro _)
    | (extract_lets +onlyGivenNames v_
       first
       | (have hv_ : Keeps M s v_ := ?_; (on_goal 1 => (clear_value v_; rename' v_ => w_)); (on_goal 2 => (unfold v_; clear v_)))
       | (clear_value v_; rename' v_ => w_))
    | with_reducible apply countDrop_keeps
    | with_reducible apply writeNow_keeps
    | with_reducible apply modDoor_keeps
    | with_reducible apply modPaths_keeps
    | with_reducible apply holdLog_keeps
    | (with_reducible refine foldl_keeps (fun _ _ _ => ?_) ?_)
    | (with_reducible refine foldl_keeps1 (fun _ _ _ => ?_) ?_)
    | split

theorem toShordo_keeps (hm : Sub 0x20000 M) (r : Rec) (h : Keeps M s t) :
    Keeps M s (toShordo t r) := by
  unfold toShordo
  repeat' first
    | with_reducible assumption
    | with_reducible exact Keeps.refl _
    | with_reducible exact Or.inr rfl
    | with_reducible apply modPaths_keeps
    | split

theorem releaseRec_keeps (hm : Sub 0x400030088 M) (r : Rec) (h : Keeps M s t) :
    Keeps M s (releaseRec t r) := by
  unfold releaseRec
  repeat' first
    | with_reducible assumption
    | with_reducible exact Keeps.refl _
    | ((with_reducible refine hm.of ?_); exact rfl)
    | with_reducible exact Or.inr rfl
    | (extract_lets +onlyGivenNames v_
       first
       | (have hv_ : Keeps M s v_ := ?_; (on_goal 1 => (clear_value v_; rename' v_ => w_)); (on_goal 2 => (unfold v_; clear v_)))
       | (clear_value v_; rename' v_ => w_))
    | with_reducible apply toShordo_keeps
    | with_reducible apply forwardOwn_keeps
    | with_reducible apply modPaths_keeps
    | with_reducible apply toRings_keeps

theorem loseSource_keeps (hm : Sub 0x20100 M) (h : Keeps M s t) :
    Keeps M s (loseSource t) := by
  unfold loseSource
  repeat' first
    | with_reducible assumption
    | with_reducible exact Keeps.refl _
    | ((with_reducible refine hm.of ?_); exact rfl)
    | with_reducible exact Or.inr rfl
    | with_reducible apply post_keeps
    | with_reducible apply modTb_keeps
    | split

theorem sourceReturns_keeps (hm : Sub 0x100 M) (h : Keeps M s t) :
    Keeps M s (sourceReturns t) := by
  unfold sourceReturns
  repeat' first
    | with_reducible assumption
    | with_reducible exact Keeps.refl _
    | with_reducible exact Or.inr rfl
    | with_reducible apply modTb_keeps
    | split

theorem sendTiming_keeps (hm : Sub 0x400020008 M) (root : BitVec 15) (period : BitVec 26) (pm : Pm)
    (h : Keeps M s t) :
    Keeps M s (sendTiming t root period pm) := by
  unfold sendTiming
  repeat' first
    | with_reducible assumption
    | with_reducible exact Keeps.refl _
    | with_reducible exact Or.inr rfl
    | (with_reducible intro _)
    | with_reducible apply queueFrame_keeps
    | (with_reducible refine foldl_keeps (fun _ _ _ => ?_) ?_)

theorem setTime_keeps (hm : Sub 0x100 M) (l : Nat) (root : BitVec 15) (pm : Pm) (h : Keeps M s t) :
    Keeps M s (setTime t l root pm) := by
  unfold setTime
  repeat' first
    | with_reducible assumption
    | with_reducible exact Keeps.refl _
    | with_reducible exact Or.inr rfl
    | (extract_lets +onlyGivenNames v_
       first
       | (have hv_ : Keeps M s v_ := ?_; (on_goal 1 => (clear_value v_; rename' v_ => w_)); (on_goal 2 => (unfold v_; clear v_)))
       | (clear_value v_; rename' v_ => w_))
    | with_reducible apply sourceReturns_keeps
    | with_reducible apply modTb_keeps

theorem laneLive_keeps (hm : Sub 0x80c00020000 M) (l : Nat) (h : Keeps M s t) :
    Keeps M s (laneLive t l) := by
  unfold laneLive
  repeat' first
    | with_reducible assumption
    | with_reducible exact Keeps.refl _
    | ((with_reducible refine hm.of ?_); exact rfl)
    | with_reducible exact Or.inr rfl
    | (extract_lets +onlyGivenNames v_
       first
       | (have hv_ : Keeps M s v_ := ?_; (on_goal 1 => (clear_value v_; rename' v_ => w_)); (on_goal 2 => (unfold v_; clear v_)))
       | (clear_value v_; rename' v_ => w_))
    | with_reducible apply modLink_keeps
    | with_reducible apply transientFault_keeps
    | with_reducible apply modLinkCtr_keeps
    | split

theorem timingArrives_keeps (hm : Sub 0x80c00020108 M) (l : Nat) (root : BitVec 15) (period : BitVec 26) (pm : Pm)
    (h : Keeps M s t) :
    Keeps M s (timingArrives t l root period pm) := by
  unfold timingArrives
  repeat' first
    | with_reducible assumption
    | with_reducible exact Keeps.refl _
    | ((with_reducible refine hm.of ?_); exact rfl)
    | with_reducible exact Or.inr rfl
    | (extract_lets +onlyGivenNames v_
       have hv_ : Keeps M s v_ := ?_; (on_goal 1 => (clear_value v_; rename' v_ => w_)); (on_goal 2 => (unfold v_; clear v_)))
    | with_reducible apply setTime_keeps
    | with_reducible apply post_keeps
    | with_reducible apply slot_keeps
    | with_reducible apply sendTiming_keeps
    | with_reducible apply modTb_keeps
    | with_reducible apply laneLive_keeps
    | (with_reducible refine fst_keeps (by with_reducible assumption) ?_)
    | split

theorem switchSource_keeps (hm : Sub 0x20100 M) (l : Nat) (h : Keeps M s t) :
    Keeps M s (switchSource t l) := by
  unfold switchSource
  repeat' first
    | with_reducible assumption
    | with_reducible exact Keeps.refl _
    | ((with_reducible refine hm.of ?_); exact rfl)
    | with_reducible exact Or.inr rfl
    | (extract_lets +onlyGivenNames v_; clear_value v_; rename' v_ => w_)
    | with_reducible apply loseSource_keeps
    | with_reducible apply modTb_keeps
    | split

theorem lock_keeps (hm : Sub 0x20110 M) (h : Keeps M s t) :
    Keeps M s (lock t) := by
  unfold lock
  repeat' first
    | with_reducible assumption
    | with_reducible exact Keeps.refl _
    | ((with_reducible refine hm.of ?_); exact rfl)
    | ((with_reducible refine Or.inl (hm.bit ?_)); exact rfl)
    | with_reducible exact Or.inr rfl
    | (extract_lets +onlyGivenNames v_
       first
       | (have hv_ : Keeps M s v_ := ?_; (on_goal 1 => (clear_value v_; rename' v_ => w_)); (on_goal 2 => (unfold v_; clear v_)))
       | (clear_value v_; rename' v_ => w_))
    | with_reducible apply post_keeps
    | with_reducible apply modTb_keeps
    | split
    | with_reducible apply mk_keeps

theorem pulseGuests_keeps (hm : Sub 0x8 M) (pm : Pm) (h : Keeps M s t) :
    Keeps M s (pulseGuests t pm) := by
  unfold pulseGuests
  repeat' first
    | with_reducible assumption
    | with_reducible exact Keeps.refl _
    | with_reducible exact Or.inr rfl
    | (with_reducible intro _)
    | with_reducible apply send_keeps
    | (with_reducible refine foldl_keeps (fun _ _ _ => ?_) ?_)
    | (with_reducible refine foldl_keeps1 (fun _ _ _ => ?_) ?_)
    | split

theorem pulse_keeps (hm : Sub 0x308 M) (h : Keeps M s t) :
    Keeps M s (pulse t) := by
  unfold pulse
  repeat' first
    | with_reducible assumption
    | with_reducible exact Keeps.refl _
    | ((with_reducible refine hm.of ?_); exact rfl)
    | ((with_reducible refine Or.inl (hm.bit ?_)); exact rfl)
    | with_reducible exact Or.inr rfl
    | with_reducible apply pulseGuests_keeps
    | with_reducible apply modTb_keeps
    | split
    | with_reducible apply mk_keeps

theorem takeDelay_keeps (hm : Sub 0x100 M) (d : Nat) (h : Keeps M s t) :
    Keeps M s (takeDelay t d) := by
  unfold takeDelay
  repeat' first
    | with_reducible assumption
    | with_reducible exact Keeps.refl _
    | with_reducible exact Or.inr rfl
    | (extract_lets +onlyGivenNames v_; clear_value v_; rename' v_ => w_)
    | with_reducible apply modTb_keeps

theorem urgentSched_keeps (hm : Sub 0x1c80d6800c M) (isStop : Bool) (h : Keeps M s t) :
    Keeps M s (urgentSched t isStop) := by
  unfold urgentSched
  repeat' first
    | with_reducible assumption
    | with_reducible exact Keeps.refl _
    | ((with_reducible refine hm.of ?_); exact rfl)
    | with_reducible exact Or.inr rfl
    | with_reducible apply quiesceSched_keeps
    | with_reducible apply beginRollback_keeps
    | split

theorem urgentAct_keeps (hm : Sub 0x1c80d6840c M) (isStop : Bool) (origin : BitVec 15) (count : BitVec 16)
    (scope : Nat) (h : Keeps M s t) :
    Keeps M s (urgentAct t isStop origin count scope) := by
  unfold urgentAct
  repeat' first
    | with_reducible assumption
    | with_reducible exact Keeps.refl _
    | ((with_reducible refine hm.of ?_); exact rfl)
    | with_reducible exact Or.inr rfl
    | (extract_lets +onlyGivenNames v_
       first
       | (have hv_ : Keeps M s v_ := ?_; (on_goal 1 => (clear_value v_; rename' v_ => w_)); (on_goal 2 => (unfold v_; clear v_)))
       | (clear_value v_; rename' v_ => w_))
    | with_reducible apply send_keeps
    | with_reducible apply modRegs_keeps
    | with_reducible apply urgentSched_keeps
    | with_reducible apply post_keeps

theorem sendStop_keeps (hm : Sub 0x400020008 M) (l : Nat) (isStop : Bool) (origin : BitVec 15) (count : BitVec 16)
    (pm : Pm) (scope : Nat) (h : Keeps M s t) :
    Keeps M s (sendStop t l isStop origin count pm scope) := by
  unfold sendStop
  repeat' first
    | with_reducible assumption
    | with_reducible exact Keeps.refl _
    | with_reducible exact Or.inr rfl
    | (extract_lets +onlyGivenNames v_; clear_value v_; rename' v_ => w_)
    | with_reducible apply queueFrame_keeps
    | (with_reducible refine fst_keeps (by with_reducible assumption) ?_)
    | split

theorem stopArrives_keeps (hm : Sub 0x1c80d6840c M) (l : Nat) (isStop : Bool) (origin : BitVec 15)
    (count : BitVec 16) (pm : Pm) (scope : Nat) (h : Keeps M s t) :
    Keeps M s (stopArrives t l isStop origin count pm scope) := by
  unfold stopArrives
  repeat' first
    | with_reducible assumption
    | with_reducible exact Keeps.refl _
    | ((with_reducible refine hm.of ?_); exact rfl)
    | with_reducible exact Or.inr rfl
    | (with_reducible intro _)
    | (extract_lets +onlyGivenNames v_
       first
       | (have hv_ : Keeps M s v_ := ?_; (on_goal 1 => (clear_value v_; rename' v_ => w_)); (on_goal 2 => (unfold v_; clear v_)))
       | (clear_value v_; rename' v_ => w_))
    | with_reducible apply modRegs_keeps
    | with_reducible apply urgentAct_keeps
    | with_reducible apply sendStop_keeps
    | (with_reducible refine foldl_keeps (fun _ _ _ => ?_) ?_)
    | (with_reducible refine foldl_keeps1 (fun _ _ _ => ?_) ?_)
    | split

theorem originStop_keeps (hm : Sub 0x400020408 M) (isStop : Bool) (scope : Nat) (h : Keeps M s t) :
    Keeps M s (originStop t isStop scope) := by
  unfold originStop
  repeat' first
    | with_reducible assumption
    | with_reducible exact Keeps.refl _
    | ((with_reducible refine hm.of ?_); exact rfl)
    | with_reducible exact Or.inr rfl
    | (with_reducible intro _)
    | (extract_lets +onlyGivenNames v_
       first
       | (have hv_ : Keeps M s v_ := ?_; (on_goal 1 => (clear_value v_; rename' v_ => w_)); (on_goal 2 => (unfold v_; clear v_)))
       | (clear_value v_; rename' v_ => w_))
    | with_reducible apply modRegs_keeps
    | with_reducible apply sendStop_keeps
    | (with_reducible refine foldl_keeps (fun _ _ _ => ?_) ?_)

theorem setFreq_keeps (hm : Sub 0x20000000200 M) (k : Nat) (f : Nat) (h : Keeps M s t) :
    Keeps M s (setFreq t k f) := by
  unfold setFreq
  repeat' first
    | with_reducible assumption
    | with_reducible exact Keeps.refl _
    | ((with_reducible refine hm.of ?_); exact rfl)
    | ((with_reducible refine Or.inl (hm.bit ?_)); exact rfl)
    | with_reducible exact Or.inr rfl
    | (with_reducible intro _)
    | (extract_lets +onlyGivenNames v_
       first
       | (have hv_ : Keeps M s v_ := ?_; (on_goal 1 => (clear_value v_; rename' v_ => w_)); (on_goal 2 => (unfold v_; clear v_)))
       | (clear_value v_; rename' v_ => w_))
    | with_reducible apply modPwr_keeps
    | with_reducible apply setCtr_keeps
    | (with_reducible refine foldl_keeps (fun _ _ _ => ?_) ?_)
    | (with_reducible refine foldl_keeps1 (fun _ _ _ => ?_) ?_)
    | split
    | with_reducible apply mk_keeps

theorem retarget_keeps (hm : Sub 0x20000000200 M) (h : Keeps M s t) :
    Keeps M s (retarget t) := by
  unfold retarget
  repeat' first
    | with_reducible assumption
    | with_reducible exact Keeps.refl _
    | with_reducible exact Or.inr rfl
    | (with_reducible intro _)
    | (extract_lets +onlyGivenNames v_
       first
       | (have hv_ : Keeps M s v_ := ?_; (on_goal 1 => (clear_value v_; rename' v_ => w_)); (on_goal 2 => (unfold v_; clear v_)))
       | (clear_value v_; rename' v_ => w_))
    | with_reducible apply setFreq_keeps
    | (with_reducible refine foldl_keeps (fun _ _ _ => ?_) ?_)
    | (with_reducible refine foldl_keeps1 (fun _ _ _ => ?_) ?_)
    | split

theorem postThrottle_keeps (hm : Sub 0x20000 M) (r : Nat) (e : Episode) (ongoing : Bool) (h : Keeps M s t) :
    Keeps M s (postThrottle t r e ongoing) := by
  unfold postThrottle
  repeat' first
    | with_reducible assumption
    | with_reducible exact Keeps.refl _
    | with_reducible exact Or.inr rfl
    | with_reducible apply postB_keeps

theorem endEpisode_keeps (hm : Sub 0x20000020000 M) (r : Nat) (e : Episode) (quiet : Bool) (h : Keeps M s t) :
    Keeps M s (endEpisode t r e quiet) := by
  unfold endEpisode
  repeat' first
    | with_reducible assumption
    | with_reducible exact Keeps.refl _
    | ((with_reducible refine hm.of ?_); exact rfl)
    | with_reducible exact Or.inr rfl
    | (extract_lets +onlyGivenNames v_
       have hv_ : Keeps M s v_ := ?_; (on_goal 1 => (clear_value v_; rename' v_ => w_)); (on_goal 2 => (unfold v_; clear v_)))
    | with_reducible apply modPwr_keeps
    | with_reducible apply postThrottle_keeps
    | split

theorem accountOne_keeps (hm : Sub 0x20000020010 M) (quiet : Nat → Bool) (r : Nat) (h : Keeps M s t) :
    Keeps M s (accountOne quiet t r) := by
  unfold accountOne
  repeat' first
    | with_reducible assumption
    | with_reducible exact Keeps.refl _
    | ((with_reducible refine hm.of ?_); exact rfl)
    | ((with_reducible refine Or.inl (hm.bit ?_)); exact rfl)
    | with_reducible exact Or.inr rfl
    | with_reducible apply modPwr_keeps
    | with_reducible apply endEpisode_keeps
    | split
    | with_reducible apply mk_keeps

theorem account_keeps (hm : Sub 0x20000020210 M) (quiet : optParam (Nat → Bool) fun x => false) (h : Keeps M s t) :
    Keeps M s (account t quiet) := by
  unfold account
  repeat' first
    | with_reducible assumption
    | with_reducible exact Keeps.refl _
    | ((with_reducible refine hm.of ?_); exact rfl)
    | with_reducible exact Or.inr rfl
    | (with_reducible intro _)
    | (extract_lets +onlyGivenNames v_
       have hv_ : Keeps M s v_ := ?_; (on_goal 1 => (clear_value v_; rename' v_ => w_)); (on_goal 2 => (unfold v_; clear v_)))
    | with_reducible apply retarget_keeps
    | with_reducible apply accountOne_keeps
    | (with_reducible refine foldl_keeps (fun _ _ _ => ?_) ?_)
    | (with_reducible refine foldl_keeps1 (fun _ _ _ => ?_) ?_)
    | split

theorem rampDown_wf (k : Bool) (h : Memory.wf t.mem = true) : Memory.wf (rampDown t k).mem = true := by
  unfold rampDown; dsimp only; split
  · exact tabWf_filter _ h
  · rfl

theorem rampDown_keeps (hm : Sub 0x173fffc8244 M) (keepHbm : Bool) (h : Keeps M s t) :
    Keeps M s (rampDown t keepHbm) :=
  { h with memWf := fun x => rampDown_wf _ (h.memWf x), sched := .inl (hm.bit rfl), mem := .inl (hm.bit rfl), clk := .inl (hm.bit rfl), ctxs := .inl (hm.bit rfl), cores := .inl (hm.bit rfl), ports := .inl (hm.bit rfl), evicts := .inl (hm.bit rfl), flights := .inl (hm.bit rfl), run := .inl (hm.bit rfl), rcpt := .inl (hm.bit rfl), cons := .inl (hm.bit rfl), slots := .inl (hm.bit rfl), queues := .inl (hm.bit rfl), stages := .inl (hm.bit rfl), stats := .inl (hm.bit rfl), layers := .inl (hm.bit rfl), upd := .inl (hm.bit rfl), commit := .inl (hm.bit rfl), ckpt := .inl (hm.bit rfl), offices := .inl (hm.bit rfl), e2e := .inl (hm.bit rfl), hdi := .inl (hm.bit rfl), bundles := .inl (hm.bit rfl), hubs := .inl (hm.bit rfl) }

theorem stopAccounting_keeps (hm : Sub 0x20000020000 M) (h : Keeps M s t) :
    Keeps M s (stopAccounting t) := by
  unfold stopAccounting
  repeat' first
    | with_reducible assumption
    | with_reducible exact Keeps.refl _
    | with_reducible exact Or.inr rfl
    | (with_reducible intro _)
    | with_reducible apply endEpisode_keeps
    | (with_reducible refine foldl_keeps (fun _ _ _ => ?_) ?_)
    | (with_reducible refine foldl_keeps1 (fun _ _ _ => ?_) ?_)
    | split

theorem linksOff_keeps (hm : Sub 0x400000100 M) (h : Keeps M s t) :
    Keeps M s (linksOff t) := by
  unfold linksOff
  repeat' first
    | with_reducible assumption
    | with_reducible exact Keeps.refl _
    | ((with_reducible refine hm.of ?_); exact rfl)
    | ((with_reducible refine Or.inl (hm.bit ?_)); exact rfl)
    | with_reducible exact Or.inr rfl
    | (extract_lets +onlyGivenNames v_; clear_value v_; rename' v_ => w_)
    | with_reducible apply modTb_keeps
    | split
    | with_reducible apply mk_keeps

theorem toStandby_keeps (hm : Sub 0xf77ffffa346 M) (h : Keeps M s t) :
    Keeps M s (toStandby t) := by
  unfold toStandby
  repeat' first
    | with_reducible assumption
    | with_reducible exact Keeps.refl _
    | ((with_reducible refine hm.of ?_); exact rfl)
    | ((with_reducible refine Or.inl (hm.bit ?_)); exact rfl)
    | with_reducible exact Or.inr rfl
    | (extract_lets +onlyGivenNames v_
       have hv_ : Keeps M s v_ := ?_; (on_goal 1 => (clear_value v_; rename' v_ => w_)); (on_goal 2 => (unfold v_; clear v_)))
    | with_reducible apply linksOff_keeps
    | with_reducible apply modStart_keeps
    | with_reducible apply rampDown_keeps
    | with_reducible apply modPwr_keeps
    | with_reducible apply modSh_keeps
    | with_reducible apply modPins_keeps
    | with_reducible apply modPaths_keeps
    | with_reducible apply stopAccounting_keeps
    | split
    | with_reducible apply mk_keeps

theorem toOff_keeps (hm : Sub 0xffffffffffe M) (h : Keeps M s t) :
    Keeps M s (toOff t) :=
  { h with memWf := fun _ => rfl, dev := .inl (hm.bit rfl), sched := .inl (hm.bit rfl), out := .inl (hm.bit rfl), free := .inl (hm.bit rfl), ns := .inl (hm.bit rfl), mem := .inl (hm.bit rfl), hostMem := .inl (hm.bit rfl), tb := .inl (hm.bit rfl), clk := .inl (hm.bit rfl), regs := .inl (hm.bit rfl), place := .inl (hm.bit rfl), caps := .inl (hm.bit rfl), start := .inl (hm.bit rfl), sec := .inl (hm.bit rfl), ctxs := .inl (hm.bit rfl), doors := .inl (hm.bit rfl), paths := .inl (hm.bit rfl), cores := .inl (hm.bit rfl), ports := .inl (hm.bit rfl), evicts := .inl (hm.bit rfl), flights := .inl (hm.bit rfl), run := .inl (hm.bit rfl), rcpt := .inl (hm.bit rfl), cons := .inl (hm.bit rfl), slots := .inl (hm.bit rfl), queues := .inl (hm.bit rfl), stages := .inl (hm.bit rfl), stats := .inl (hm.bit rfl), layers := .inl (hm.bit rfl), upd := .inl (hm.bit rfl), commit := .inl (hm.bit rfl), ckpt := .inl (hm.bit rfl), offices := .inl (hm.bit rfl), links := .inl (hm.bit rfl), linkCtr := .inl (hm.bit rfl), e2e := .inl (hm.bit rfl), hdi := .inl (hm.bit rfl), bundles := .inl (hm.bit rfl), sites := .inl (hm.bit rfl), hubs := .inl (hm.bit rfl), pwr := .inl (hm.bit rfl), pins := .inl (hm.bit rfl), sh := .inl (hm.bit rfl) }

theorem toFailed_keeps (hm : Sub 0xf77ffffa346 M) (cause : BitVec 8) (h : Keeps M s t) :
    Keeps M s (toFailed t cause) := by
  unfold toFailed
  repeat' first
    | with_reducible assumption
    | with_reducible exact Keeps.refl _
    | ((with_reducible refine hm.of ?_); exact rfl)
    | ((with_reducible refine Or.inl (hm.bit ?_)); exact rfl)
    | with_reducible exact Or.inr rfl
    | (extract_lets +onlyGivenNames v_
       first
       | (have hv_ : Keeps M s v_ := ?_; (on_goal 1 => (clear_value v_; rename' v_ => w_)); (on_goal 2 => (unfold v_; clear v_)))
       | (clear_value v_; rename' v_ => w_))
    | with_reducible apply modStart_keeps
    | with_reducible apply toStandby_keeps
    | split
    | with_reducible apply mk_keeps

theorem dormLink_keeps (hm : Sub 0x400020008 M) (l : Nat) (h : Keeps M s t) :
    Keeps M s (dormLink t l) := by
  unfold dormLink
  repeat' first
    | with_reducible assumption
    | with_reducible exact Keeps.refl _
    | ((with_reducible refine hm.of ?_); exact rfl)
    | with_reducible exact Or.inr rfl
    | (extract_lets +onlyGivenNames v_; clear_value v_; rename' v_ => w_)
    | with_reducible apply askWidth_keeps
    | with_reducible apply modLink_keeps
    | (with_reducible refine fst_keeps (by with_reducible assumption) ?_)
    | split

theorem wakeLink_keeps (hm : Sub 0x400020008 M) (l : Nat) (h : Keeps M s t) :
    Keeps M s (wakeLink t l) := by
  unfold wakeLink
  repeat' first
    | with_reducible assumption
    | with_reducible exact Keeps.refl _
    | ((with_reducible refine hm.of ?_); exact rfl)
    | with_reducible exact Or.inr rfl
    | with_reducible apply askWidth_keeps
    | with_reducible apply modLink_keeps
    | split

theorem toLow_keeps (hm : Sub 0x377fffea24e M) (d : Dev) (h : Keeps M s t) :
    Keeps M s (toLow t d) := by
  unfold toLow
  repeat' first
    | with_reducible assumption
    | with_reducible exact Keeps.refl _
    | ((with_reducible refine hm.of ?_); exact rfl)
    | ((with_reducible refine Or.inl (hm.bit ?_)); exact rfl)
    | with_reducible exact Or.inr rfl
    | (with_reducible intro _)
    | (extract_lets +onlyGivenNames v_
       have hv_ : Keeps M s v_ := ?_; (on_goal 1 => (clear_value v_; rename' v_ => w_)); (on_goal 2 => (unfold v_; clear v_)))
    | with_reducible apply modStart_keeps
    | with_reducible apply rampDown_keeps
    | with_reducible apply modPwr_keeps
    | with_reducible apply dormLink_keeps
    | with_reducible apply stopAccounting_keeps
    | (with_reducible refine foldl_keeps (fun _ _ _ => ?_) ?_)
    | (with_reducible refine foldl_keeps1 (fun _ _ _ => ?_) ?_)
    | split
    | with_reducible apply mk_keeps

theorem postShort_keeps (hm : Sub 0x20000 M) (h0 : Nat) (x : Shortfall) (ongoing : Bool) (h : Keeps M s t) :
    Keeps M s (postShort t h0 x ongoing) := by
  unfold postShort
  repeat' first
    | with_reducible assumption
    | with_reducible exact Keeps.refl _
    | with_reducible exact Or.inr rfl
    | with_reducible apply post_keeps

theorem setRates_keeps (hm : Sub 0x10000020000 M) (h0 : Nat) (h : Keeps M s t) :
    Keeps M s (setRates t h0) := by
  unfold setRates
  repeat' first
    | with_reducible assumption
    | with_reducible exact Keeps.refl _
    | ((with_reducible refine hm.of ?_); exact rfl)
    | with_reducible exact Or.inr rfl
    | (extract_lets +onlyGivenNames v_
       first
       | (have hv_ : Keeps M s v_ := ?_; (on_goal 1 => (clear_value v_; rename' v_ => w_)); (on_goal 2 => (unfold v_; clear v_)))
       | (clear_value v_; rename' v_ => w_))
    | with_reducible apply modHub_keeps
    | with_reducible apply postShort_keeps
    | split

theorem warmWarn_keeps (hm : Sub 0x80100020000 M) (src : BitVec 32) (pm : Pm) (ch : BitVec 32) (k : Nat) (lim : Nat)
    (c : Nat) (h : Keeps M s t) :
    Keeps M s (warmWarn t src pm ch k lim c) := by
  unfold warmWarn
  repeat' first
    | with_reducible assumption
    | with_reducible exact Keeps.refl _
    | ((with_reducible refine hm.of ?_); exact rfl)
    | with_reducible exact Or.inr rfl
    | (extract_lets +onlyGivenNames v_
       first
       | (have hv_ : Keeps M s v_ := ?_; (on_goal 1 => (clear_value v_; rename' v_ => w_)); (on_goal 2 => (unfold v_; clear v_)))
       | (clear_value v_; rename' v_ => w_))
    | with_reducible apply modSh_keeps
    | with_reducible apply warn_keeps
    | split

theorem beginHalt_keeps (hm : Sub 0xf77ffffa74e M) (c : HaltCause) (h : Keeps M s t) :
    Keeps M s (beginHalt t c) := by
  unfold beginHalt
  repeat' first
    | with_reducible assumption
    | with_reducible exact Keeps.refl _
    | ((with_reducible refine hm.of ?_); exact rfl)
    | ((with_reducible refine Or.inl (hm.bit ?_)); exact rfl)
    | with_reducible exact Or.inr rfl
    | (extract_lets +onlyGivenNames v_
       first
       | (have hv_ : Keeps M s v_ := ?_; (on_goal 1 => (clear_value v_; rename' v_ => w_)); (on_goal 2 => (unfold v_; clear v_)))
       | (clear_value v_; rename' v_ => w_))
    | with_reducible apply modStart_keeps
    | with_reducible apply modPwr_keeps
    | with_reducible apply quiesceSched_keeps
    | with_reducible apply originStop_keeps
    | with_reducible apply toStandby_keeps
    | (with_reducible refine fst_keeps (by with_reducible assumption) ?_)
    | split
    | with_reducible apply mk_keeps

theorem halted_keeps (hm : Sub 0x377fffea24e M) (c : HaltCause) (h : Keeps M s t) :
    Keeps M s (halted t c) := by
  unfold halted
  repeat' first
    | with_reducible assumption
    | with_reducible exact Keeps.refl _
    | ((with_reducible refine hm.of ?_); exact rfl)
    | with_reducible exact Or.inr rfl
    | with_reducible apply toLow_keeps
    | with_reducible apply post_keeps

theorem doorbellBad_keeps (hm : Sub 0x20000 M) (c : Fin 64) (off : Nat) (port : Bool) (v : BitVec 32)
    (h : Keeps M s t) :
    Keeps M s (doorbellBad t c off port v) := by
  unfold doorbellBad
  repeat' first
    | with_reducible assumption
    | with_reducible exact Keeps.refl _
    | with_reducible exact Or.inr rfl
    | with_reducible apply post_keeps

theorem completeCmd_keeps (hm : Sub 0x30000 M) (c : Fin 64) (tag : BitVec 32) (irq : Bool) (index : BitVec 32)
    (op : BitVec 8) (err : Err) (result : BitVec 64) (h : Keeps M s t) :
    Keeps M s (completeCmd t c tag irq index op err result) := by
  unfold completeCmd
  repeat' first
    | with_reducible assumption
    | with_reducible exact Keeps.refl _
    | ((with_reducible refine hm.of ?_); exact rfl)
    | with_reducible exact Or.inr rfl
    | (extract_lets +onlyGivenNames v_
       have hv_ : Keeps M s v_ := ?_; (on_goal 1 => (clear_value v_; rename' v_ => w_)); (on_goal 2 => (unfold v_; clear v_)))
    | with_reducible apply postRec_keeps
    | with_reducible apply modDoor_keeps
    | split

theorem served_keeps (hm : Sub 0x20080 M) (c : Fin 64) (op : BitVec 8) (d : BitVec 504) (h : Keeps M s t) :
    Keeps M s (served t c op d) := by
  unfold served
  repeat' first
    | with_reducible assumption
    | with_reducible exact Keeps.refl _
    | ((with_reducible refine hm.of ?_); exact rfl)
    | with_reducible exact Or.inr rfl
    | with_reducible apply wrHost_keeps
    | with_reducible apply modPaths_keeps

theorem shortCmd_keeps (hm : Sub 0x30080 M) (c : Fin 64) (d : BitVec 504) (op : BitVec 8) (why : Option Err)
    (act : State → State × BitVec 64) (h : Keeps M s t) (hf_act : ∀ y0, Keeps M s y0 → Keeps M s (act y0).1) :
    KeepsR M s (shortCmd t c d op why act) := by
  unfold shortCmd
  repeat' first
    | with_reducible assumption
    | with_reducible exact Keeps.refl _
    | ((with_reducible refine hm.of ?_); exact rfl)
    | with_reducible exact Or.inr rfl
    | (with_reducible intro _)
    | with_reducible apply hf_act
    | (extract_lets +onlyGivenNames v_
       have hv_ : Keeps M s v_.1 := ?_; (on_goal 1 => (clear_value v_; rename' v_ => w_)); (on_goal 2 => (unfold v_; clear v_)))
    | with_reducible apply whenever_keeps
    | with_reducible apply served_keeps
    | with_reducible apply completeCmd_keeps
    | with_reducible apply next_keeps
    | with_reducible exact fault_keeps _
    | (with_reducible refine getD_keeps ?_ (fun _ _ => ?_))
    | (with_reducible refine fst_keeps (by with_reducible assumption) ?_)
    | split

theorem startLong_keeps (hm : Sub 0x30000 M) (c : Fin 64) (d : BitVec 504) (op : BitVec 8) (lk : Lock)
    (cmd : LongCmd) (h : Keeps M s t) :
    Keeps M s (startLong t c d op lk cmd) := by
  unfold startLong
  repeat' first
    | with_reducible assumption
    | with_reducible exact Keeps.refl _
    | ((with_reducible refine hm.of ?_); exact rfl)
    | with_reducible exact Or.inr rfl
    | with_reducible apply modDoor_keeps
    | with_reducible apply modPaths_keeps

theorem longCmd_keeps (hm : Sub 0x30080 M) (c : Fin 64) (d : BitVec 504) (op : BitVec 8) (why : Option Err)
    (lk : Lock) (cmd : LongCmd) (begin_ : State → State) (h : Keeps M s t)
    (hf_begin_ : ∀ y0, Keeps M s y0 → Keeps M s (begin_ y0)) :
    KeepsR M s (longCmd t c d op why lk cmd begin_) := by
  unfold longCmd
  repeat' first
    | with_reducible assumption
    | with_reducible exact Keeps.refl _
    | ((with_reducible refine hm.of ?_); exact rfl)
    | with_reducible exact Or.inr rfl
    | (with_reducible intro _)
    | with_reducible apply hf_begin_
    | with_reducible apply whenever_keeps
    | with_reducible apply served_keeps
    | with_reducible apply completeCmd_keeps
    | with_reducible apply startLong_keeps
    | with_reducible apply next_keeps
    | with_reducible exact fault_keeps _
    | split

theorem readFaults_keeps (hm : Sub 0x30000 M) (c : Fin 64) (h : Keeps M s t) :
    Keeps M s (readFaults t c) := by
  unfold readFaults
  repeat' first
    | with_reducible assumption
    | with_reducible exact Keeps.refl _
    | ((with_reducible refine hm.of ?_); exact rfl)
    | with_reducible exact Or.inr rfl
    | with_reducible apply modDoor_keeps
    | with_reducible apply post_keeps
    | split

theorem execMbDoorbell_keeps (hm : Sub 0x30000 M) (c : Fin 64) (port : Bool) (v : BitVec 32) (readFault : Bool)
    (h : Keeps M s t) :
    KeepsR M s (execMbDoorbell c port v readFault t) := by
  unfold execMbDoorbell
  repeat' first
    | with_reducible assumption
    | with_reducible exact Keeps.refl _
    | ((with_reducible refine hm.of ?_); exact rfl)
    | with_reducible exact Or.inr rfl
    | (extract_lets +onlyGivenNames v_
       have hv_ : Keeps M s v_ := ?_; (on_goal 1 => (clear_value v_; rename' v_ => w_)); (on_goal 2 => (unfold v_; clear v_)))
    | with_reducible apply whenever_keeps
    | with_reducible apply modDoor_keeps
    | with_reducible apply readFaults_keeps
    | with_reducible apply doorbellBad_keeps
    | with_reducible apply next_keeps
    | with_reducible exact fault_keeps _
    | split

theorem execEvHeadWrite_keeps (hm : Sub 0x30000 M) (c : Fin 64) (port : Bool) (v : BitVec 32) (h : Keeps M s t) :
    KeepsR M s (execEvHeadWrite c port v t) := by
  unfold execEvHeadWrite
  repeat' first
    | with_reducible assumption
    | with_reducible exact Keeps.refl _
    | ((with_reducible refine hm.of ?_); exact rfl)
    | with_reducible exact Or.inr rfl
    | with_reducible apply whenever_keeps
    | with_reducible apply modDoor_keeps
    | with_reducible apply doorbellBad_keeps
    | with_reducible apply next_keeps
    | with_reducible exact fault_keeps _
    | split

theorem execMbCtlWrite_keeps (hm : Sub 0x10000 M) (c : Fin 64) (v : BitVec 32) (h : Keeps M s t) :
    KeepsR M s (execMbCtlWrite c v t) := by
  unfold execMbCtlWrite
  repeat' first
    | with_reducible assumption
    | with_reducible exact Keeps.refl _
    | with_reducible exact Or.inr rfl
    | with_reducible apply whenever_keeps
    | with_reducible apply modDoor_keeps

theorem execEvCtlWrite_keeps (hm : Sub 0x10000 M) (c : Fin 64) (v : BitVec 32) (h : Keeps M s t) :
    KeepsR M s (execEvCtlWrite c v t) := by
  unfold execEvCtlWrite
  repeat' first
    | with_reducible assumption
    | with_reducible exact Keeps.refl _
    | with_reducible exact Or.inr rfl
    | with_reducible apply whenever_keeps
    | with_reducible apply modDoor_keeps

theorem setPerst_keeps (hm : Sub 0x40000000000 M) (port : Bool) (v : Bool) (h : Keeps M s t) :
    Keeps M s (setPerst t port v) := by
  unfold setPerst
  repeat' first
    | with_reducible assumption
    | with_reducible exact Keeps.refl _
    | with_reducible exact Or.inr rfl
    | with_reducible apply modPins_keeps

theorem resetDoors_keeps (hm : Sub 0x10000 M) (port : Bool) (h : Keeps M s t) :
    Keeps M s (resetDoors t port) := by
  unfold resetDoors
  repeat' first
    | with_reducible assumption
    | with_reducible exact Keeps.refl _
    | ((with_reducible refine Or.inl (hm.bit ?_)); exact rfl)
    | with_reducible exact Or.inr rfl
    | split
    | with_reducible apply mk_keeps

theorem execPcieReset_keeps (hm : Sub 0x40000010000 M) (port : Bool) (perst : Bool) (h : Keeps M s t) :
    KeepsR M s (execPcieReset port perst t) := by
  unfold execPcieReset
  repeat' first
    | with_reducible assumption
    | with_reducible exact Keeps.refl _
    | ((with_reducible refine hm.of ?_); exact rfl)
    | with_reducible exact Or.inr rfl
    | with_reducible apply whenever_keeps
    | with_reducible apply resetDoors_keeps
    | with_reducible apply setPerst_keeps
    | with_reducible apply next_keeps
    | with_reducible exact fault_keeps _
    | split

theorem execPerstnDeassert_keeps (hm : Sub 0x40000000008 M) (port : Bool) (h : Keeps M s t) :
    KeepsR M s (execPerstnDeassert port t) := by
  unfold execPerstnDeassert
  repeat' first
    | with_reducible assumption
    | with_reducible exact Keeps.refl _
    | ((with_reducible refine hm.of ?_); exact rfl)
    | with_reducible exact Or.inr rfl
    | (extract_lets +onlyGivenNames v_
       have hv_ : Keeps M s v_ := ?_; (on_goal 1 => (clear_value v_; rename' v_ => w_)); (on_goal 2 => (unfold v_; clear v_)))
    | with_reducible apply send_keeps
    | with_reducible apply whenever_keeps
    | with_reducible apply setPerst_keeps
    | with_reducible apply next_keeps
    | with_reducible exact fault_keeps _
    | split

theorem urgentWrite_keeps (hm : Sub 0x1c80d6840c M) (isStop : Bool) (scope : BitVec 2) (h : Keeps M s t) :
    Keeps M s (urgentWrite t isStop scope) := by
  unfold urgentWrite
  repeat' first
    | with_reducible assumption
    | with_reducible exact Keeps.refl _
    | ((with_reducible refine hm.of ?_); exact rfl)
    | with_reducible exact Or.inr rfl
    | (extract_lets +onlyGivenNames v_
       have hv_ : Keeps M s v_ := ?_; (on_goal 1 => (clear_value v_; rename' v_ => w_)); (on_goal 2 => (unfold v_; clear v_)))
    | with_reducible apply urgentAct_keeps
    | with_reducible apply originStop_keeps
    | split

theorem execUrgentQuiesce_keeps (hm : Sub 0x1c80d6840c M) (scope : BitVec 2) (h : Keeps M s t) :
    KeepsR M s (execUrgentQuiesce scope t) := by
  unfold execUrgentQuiesce
  repeat' first
    | with_reducible assumption
    | with_reducible exact Keeps.refl _
    | with_reducible exact Or.inr rfl
    | with_reducible apply whenever_keeps
    | with_reducible apply urgentWrite_keeps

theorem execUrgentStop_keeps (hm : Sub 0x1c80d6840c M) (scope : BitVec 2) (h : Keeps M s t) :
    KeepsR M s (execUrgentStop scope t) := by
  unfold execUrgentStop
  repeat' first
    | with_reducible assumption
    | with_reducible exact Keeps.refl _
    | with_reducible exact Or.inr rfl
    | with_reducible apply whenever_keeps
    | with_reducible apply urgentWrite_keeps

theorem bar2Piece_keeps (hm : Sub 0x4820440 M) (isWrite : Bool) (off : Nat) (data : List Byte)
    (r : State × List Byte) (x : Nat × Nat) (hp_r : Keeps M s r.1) :
    Keeps M s (bar2Piece isWrite off data r x).1 := by
  unfold bar2Piece
  repeat' first
    | with_reducible assumption
    | with_reducible exact Keeps.refl _
    | ((with_reducible refine hm.of ?_); exact rfl)
    | with_reducible exact Or.inr rfl
    | (extract_lets +onlyGivenNames v_
       first
       | (have hv_ : Keeps M s v_ := ?_; (on_goal 1 => (clear_value v_; rename' v_ => w_)); (on_goal 2 => (unfold v_; clear v_)))
       | (clear_value v_; rename' v_ => w_))
    | with_reducible apply modRegs_keeps
    | with_reducible apply post_keeps
    | with_reducible apply pkgWrite_keeps
    | (with_reducible refine fst_keeps (by with_reducible assumption) ?_)
    | split

theorem execBar2Access_keeps (hm : Sub 0x98104ce0648 M) (isWrite : Bool) (off : BitVec 33) (len : Nat)
    (data : List Byte) (ecc : EccAt) (h : Keeps M s t) :
    KeepsR M s (execBar2Access isWrite off len data ecc t) := by
  unfold execBar2Access
  repeat' first
    | with_reducible assumption
    | with_reducible exact Keeps.refl _
    | ((with_reducible refine hm.of ?_); exact rfl)
    | with_reducible exact Or.inr rfl
    | (with_reducible intro _)
    | (extract_lets +onlyGivenNames v_
       first
       | (have hv_ : Keeps M s v_.1 := ?_; (on_goal 1 => (clear_value v_; rename' v_ => w_)); (on_goal 2 => (unfold v_; clear v_)))
       | (clear_value v_; rename' v_ => w_))
    | with_reducible apply send_keeps
    | with_reducible apply metEcc_keeps
    | with_reducible apply whenever_keeps
    | with_reducible apply bar2Piece_keeps
    | with_reducible apply next_keeps
    | with_reducible exact fault_keeps _
    | (with_reducible refine foldl_keeps (fun _ _ _ => ?_) ?_)
    | (with_reducible refine foldl_keeps1 (fun _ _ _ => ?_) ?_)
    | (with_reducible refine fst_keeps (by with_reducible assumption) ?_)
    | split

theorem execFlitReceived_keeps (hm : Sub 0x80d00020008 M) (l : Fin 12) (f : Flit) (h : Keeps M s t) :
    KeepsR M s (execFlitReceived l f t) := by
  unfold execFlitReceived
  repeat' first
    | with_reducible assumption
    | with_reducible exact Keeps.refl _
    | with_reducible exact Or.inr rfl
    | with_reducible apply whenever_keeps
    | with_reducible apply flitArrives_keeps

theorem execAckTimeout_keeps (hm : Sub 0x80d00020008 M) (l : Fin 12) (h : Keeps M s t) :
    KeepsR M s (execAckTimeout l t) := by
  unfold execAckTimeout
  repeat' first
    | with_reducible assumption
    | with_reducible exact Keeps.refl _
    | with_reducible exact Or.inr rfl
    | with_reducible apply whenever_keeps
    | with_reducible apply replayNeeded_keeps

theorem execRetrainDone_keeps (hm : Sub 0x80d00020008 M) (l : Fin 12) (lanesOk : BitVec 8) (rate : BitVec 2)
    (gcmPeer : Bool) (h : Keeps M s t) :
    KeepsR M s (execRetrainDone l lanesOk rate gcmPeer t) := by
  unfold execRetrainDone
  repeat' first
    | with_reducible assumption
    | with_reducible exact Keeps.refl _
    | ((with_reducible refine hm.of ?_); exact rfl)
    | with_reducible exact Or.inr rfl
    | with_reducible apply linkFails_keeps
    | with_reducible apply retrained_keeps
    | with_reducible apply whenever_keeps
    | with_reducible apply modLink_keeps
    | with_reducible apply authFails_keeps
    | with_reducible apply retrainLower_keeps
    | with_reducible apply next_keeps
    | with_reducible exact fault_keeps _
    | split

theorem execRetrainTimeout_keeps (hm : Sub 0x80d00020008 M) (l : Fin 12) (h : Keeps M s t) :
    KeepsR M s (execRetrainTimeout l t) := by
  unfold execRetrainTimeout
  repeat' first
    | with_reducible assumption
    | with_reducible exact Keeps.refl _
    | with_reducible exact Or.inr rfl
    | with_reducible apply linkFails_keeps
    | with_reducible apply whenever_keeps

theorem execTrainingStart_keeps (hm : Sub 0x400000008 M) (l : Fin 12) (h : Keeps M s t) :
    KeepsR M s (execTrainingStart l t) := by
  unfold execTrainingStart
  repeat' first
    | with_reducible assumption
    | with_reducible exact Keeps.refl _
    | ((with_reducible refine hm.of ?_); exact rfl)
    | with_reducible exact Or.inr rfl
    | (extract_lets +onlyGivenNames v_; clear_value v_; rename' v_ => w_)
    | with_reducible apply send_keeps
    | with_reducible apply whenever_keeps
    | with_reducible apply modLink_keeps

theorem execTrainingDone_keeps (hm : Sub 0x80d00020008 M) (l : Fin 12) (r : TrainResult) (h : Keeps M s t) :
    KeepsR M s (execTrainingDone l r t) := by
  unfold execTrainingDone
  repeat' first
    | with_reducible assumption
    | with_reducible exact Keeps.refl _
    | with_reducible exact Or.inr rfl
    | with_reducible apply linkFails_keeps
    | with_reducible apply whenever_keeps
    | with_reducible apply trained_keeps
    | with_reducible apply next_keeps
    | with_reducible exact fault_keeps _
    | split

theorem execTrainingTimeout_keeps (hm : Sub 0x80d00020008 M) (l : Fin 12) (h : Keeps M s t) :
    KeepsR M s (execTrainingTimeout l t) := by
  unfold execTrainingTimeout
  repeat' first
    | with_reducible assumption
    | with_reducible exact Keeps.refl _
    | with_reducible exact Or.inr rfl
    | with_reducible apply linkFails_keeps
    | with_reducible apply whenever_keeps

theorem execWidthChangeDone_keeps (hm : Sub 0xc00020008 M) (l : Fin 12) (ok : Bool) (h : Keeps M s t) :
    KeepsR M s (execWidthChangeDone l ok t) := by
  unfold execWidthChangeDone
  repeat' first
    | with_reducible assumption
    | with_reducible exact Keeps.refl _
    | ((with_reducible refine hm.of ?_); exact rfl)
    | with_reducible exact Or.inr rfl
    | with_reducible apply whenever_keeps
    | with_reducible apply widthChanged_keeps
    | with_reducible apply startRetrain_keeps
    | with_reducible apply next_keeps
    | with_reducible exact fault_keeps _
    | split

theorem execLinkCtl_keeps (hm : Sub 0xc00020008 M) (l : Fin 12) (crcOk : Bool) (kind : BitVec 3) (lanes : BitVec 2)
    (rate : BitVec 2) (h : Keeps M s t) :
    KeepsR M s (execLinkCtl l crcOk kind lanes rate t) := by
  unfold execLinkCtl
  repeat' first
    | with_reducible assumption
    | with_reducible exact Keeps.refl _
    | ((with_reducible refine hm.of ?_); exact rfl)
    | with_reducible exact Or.inr rfl
    | with_reducible apply whenever_keeps
    | with_reducible apply startRetrain_keeps
    | with_reducible apply goDown_keeps
    | with_reducible apply peerAnswers_keeps
    | with_reducible apply peerWidth_keeps
    | with_reducible apply next_keeps
    | with_reducible exact fault_keeps _
    | split

theorem execNewEpoch_keeps (hm : Sub 0x400000000 M) (l : Fin 12) (h : Keeps M s t) :
    KeepsR M s (execNewEpoch l t) := by
  unfold execNewEpoch
  repeat' first
    | with_reducible assumption
    | with_reducible exact Keeps.refl _
    | with_reducible exact Or.inr rfl
    | (extract_lets +onlyGivenNames v_; clear_value v_; rename' v_ => w_)
    | with_reducible apply whenever_keeps
    | with_reducible apply modLink_keeps

theorem execMma_keeps (hm : Sub 0x460000 M) (c : CoreId) (w : W56) (h : Keeps M s t) :
    KeepsR M s (execMma c w t) := by
  unfold execMma
  repeat' first
    | with_reducible assumption
    | with_reducible exact Keeps.refl _
    | ((with_reducible refine hm.of ?_); exact rfl)
    | with_reducible exact Or.inr rfl
    | (with_reducible intro _)
    | (extract_lets +onlyGivenNames v_; clear_value v_; rename' v_ => w_)
    | with_reducible apply done_keeps
    | with_reducible apply issue_keeps
    | with_reducible apply setCore_keeps
    | with_reducible apply coreFault_keeps
    | with_reducible apply next_keeps
    | with_reducible exact fault_keeps _
    | with_reducible apply id_keeps
    | split

theorem mmaApply_keeps (hm : Sub 0x10068000 M) (c : CoreId) (k : Core) (pc : BitVec 12) (w : W56) (audit : Bool)
    (a : List Byte) (b : List Byte) (sc : List Byte) (ea : List Nat) (eb : List Nat) (h : Keeps M s t) :
    Keeps M s (mmaApply t c k pc w audit a b sc ea eb) := by
  unfold mmaApply
  repeat' first
    | with_reducible assumption
    | with_reducible exact Keeps.refl _
    | ((with_reducible refine hm.of ?_); exact rfl)
    | with_reducible exact Or.inr rfl
    | (extract_lets +onlyGivenNames v_
       first
       | (have hv_ : Keeps M s v_ := ?_; (on_goal 1 => (clear_value v_; rename' v_ => w_)); (on_goal 2 => (unfold v_; clear v_)))
       | (clear_value v_; rename' v_ => w_))
    | with_reducible apply coreEff_keeps
    | with_reducible apply setCore_keeps
    | with_reducible apply post_keeps
    | (with_reducible refine fst_keeps (by with_reducible assumption) ?_)
    | split

theorem execMmaAccumulate_keeps (hm : Sub 0x10068000 M) (c : CoreId) (h : Keeps M s t) :
    KeepsR M s (execMmaAccumulate c t) := by
  unfold execMmaAccumulate
  repeat' first
    | with_reducible assumption
    | with_reducible exact Keeps.refl _
    | with_reducible exact Or.inr rfl
    | (extract_lets +onlyGivenNames v_; clear_value v_; rename' v_ => w_)
    | with_reducible apply mmaApply_keeps
    | with_reducible apply next_keeps
    | with_reducible exact fault_keeps _
    | split

theorem execAccSwap_keeps (hm : Sub 0x460000 M) (c : CoreId) (w : W56) (h : Keeps M s t) :
    KeepsR M s (execAccSwap c w t) := by
  unfold execAccSwap
  repeat' first
    | with_reducible assumption
    | with_reducible exact Keeps.refl _
    | ((with_reducible refine hm.of ?_); exact rfl)
    | with_reducible exact Or.inr rfl
    | (with_reducible intro _)
    | with_reducible apply done_keeps
    | with_reducible apply issue_keeps
    | with_reducible apply setCore_keeps
    | with_reducible apply coreFault_keeps
    | with_reducible apply next_keeps
    | with_reducible exact fault_keeps _
    | with_reducible apply id_keeps
    | split

theorem execSwap_keeps (hm : Sub 0x40000 M) (c : CoreId) (h : Keeps M s t) :
    KeepsR M s (execSwap c t) := by
  unfold execSwap
  repeat' first
    | with_reducible assumption
    | with_reducible exact Keeps.refl _
    | with_reducible exact Or.inr rfl
    | (extract_lets +onlyGivenNames v_; clear_value v_; rename' v_ => w_)
    | with_reducible apply whenever_keeps
    | with_reducible apply setCore_keeps
    | with_reducible apply next_keeps
    | with_reducible exact fault_keeps _
    | split

theorem execAccDrain_keeps (hm : Sub 0x460000 M) (c : CoreId) (w : W56) (h : Keeps M s t) :
    KeepsR M s (execAccDrain c w t) := by
  unfold execAccDrain
  repeat' first
    | with_reducible assumption
    | with_reducible exact Keeps.refl _
    | ((with_reducible refine hm.of ?_); exact rfl)
    | with_reducible exact Or.inr rfl
    | (with_reducible intro _)
    | with_reducible apply done_keeps
    | with_reducible apply issue_keeps
    | with_reducible apply setCore_keeps
    | with_reducible apply coreFault_keeps
    | with_reducible apply next_keeps
    | with_reducible exact fault_keeps _
    | with_reducible apply id_keeps
    | split

theorem execDrainStart_keeps (hm : Sub 0x40000 M) (c : CoreId) (h : Keeps M s t) :
    KeepsR M s (execDrainStart c t) := by
  unfold execDrainStart
  repeat' first
    | with_reducible assumption
    | with_reducible exact Keeps.refl _
    | with_reducible exact Or.inr rfl
    | (extract_lets +onlyGivenNames v_; clear_value v_; rename' v_ => w_)
    | with_reducible apply whenever_keeps
    | with_reducible apply setCore_keeps
    | with_reducible apply next_keeps
    | with_reducible exact fault_keeps _
    | split

theorem drainRowWrite_keeps (hm : Sub 0x40 M) (c : CoreId) (ftz : Bool) (j : DrainJob) (x : State × Eff) (r : Nat)
    (hp_x : Keeps M s x.1) :
    Keeps M s (drainRowWrite c ftz j x r).1 := by
  unfold drainRowWrite
  repeat' first
    | with_reducible assumption
    | with_reducible exact Keeps.refl _
    | with_reducible exact Or.inr rfl
    | (extract_lets +onlyGivenNames v_; clear_value v_; rename' v_ => w_)
    | with_reducible apply spWrite_keeps

theorem drainWrite_keeps (hm : Sub 0x40 M) (c : CoreId) (ftz : Bool) (j : DrainJob) (h : Keeps M s t) :
    Keeps M s (drainWrite t c ftz j).1 := by
  unfold drainWrite
  repeat' first
    | with_reducible assumption
    | with_reducible exact Keeps.refl _
    | with_reducible exact Or.inr rfl
    | (with_reducible intro _)
    | (extract_lets +onlyGivenNames v_
       first
       | (have hv_ : Keeps M s v_.1 := ?_; (on_goal 1 => (clear_value v_; rename' v_ => w_)); (on_goal 2 => (unfold v_; clear v_)))
       | (clear_value v_; rename' v_ => w_))
    | with_reducible apply spWrite_keeps
    | with_reducible apply drainRowWrite_keeps
    | (with_reducible refine foldl_keeps (fun _ _ _ => ?_) ?_)
    | (with_reducible refine foldl_keeps1 (fun _ _ _ => ?_) ?_)
    | (with_reducible refine fst_keeps (by with_reducible assumption) ?_)
    | split

theorem execDrainDone_keeps (hm : Sub 0x10048040 M) (c : CoreId) (h : Keeps M s t) :
    KeepsR M s (execDrainDone c t) := by
  unfold execDrainDone
  repeat' first
    | with_reducible assumption
    | with_reducible exact Keeps.refl _
    | ((with_reducible refine hm.of ?_); exact rfl)
    | with_reducible exact Or.inr rfl
    | (extract_lets +onlyGivenNames v_
       have hv_ : Keeps M s v_.1 := ?_; (on_goal 1 => (clear_value v_; rename' v_ => w_)); (on_goal 2 => (unfold v_; clear v_)))
    | with_reducible apply coreEff_keeps
    | with_reducible apply drainWrite_keeps
    | with_reducible apply modCore_keeps
    | with_reducible apply next_keeps
    | with_reducible exact fault_keeps _
    | (with_reducible refine fst_keeps (by with_reducible assumption) ?_)
    | split

theorem updFault_keeps (hm : Sub 0x40420000 M) (h0 : Nat) (err : Err) (h : Keeps M s t) :
    Keeps M s (updFault t h0 err) := by
  unfold updFault
  repeat' first
    | with_reducible assumption
    | with_reducible exact Keeps.refl _
    | ((with_reducible refine hm.of ?_); exact rfl)
    | with_reducible exact Or.inr rfl
    | (extract_lets +onlyGivenNames v_
       first
       | (have hv_ : Keeps M s v_ := ?_; (on_goal 1 => (clear_value v_; rename' v_ => w_)); (on_goal 2 => (unfold v_; clear v_)))
       | (clear_value v_; rename' v_ => w_))
    | with_reducible apply markStep_keeps
    | with_reducible apply modUpd_keeps
    | with_reducible apply post_keeps

theorem updWrite_keeps (hm : Sub 0x48420040 M) (h0 : Nat) (writes : List (Nat × List Byte)) (h : Keeps M s t) :
    Keeps M s (updWrite t h0 writes).1 := by
  unfold updWrite
  repeat' first
    | with_reducible assumption
    | with_reducible exact Keeps.refl _
    | ((with_reducible refine hm.of ?_); exact rfl)
    | with_reducible exact Or.inr rfl
    | (with_reducible intro _)
    | (extract_lets +onlyGivenNames v_; clear_value v_; rename' v_ => w_)
    | with_reducible apply updFault_keeps
    | with_reducible exact pendFor_keeps (hm.of rfl) _ _ _ (by with_reducible assumption) _ (by with_reducible assumption)
    | with_reducible apply poolEmpty_keeps
    | with_reducible apply edWrite_keeps
    | with_reducible apply edFull_keeps
    | (with_reducible refine foldl_keeps (fun _ _ _ => ?_) ?_)
    | (with_reducible refine foldl_keeps1 (fun _ _ _ => ?_) ?_)
    | (with_reducible refine fst_keeps (by with_reducible assumption) ?_)
    | split

theorem upStep_keeps (hm : Sub 0x0 M) (h0 : Fin 4) (op : BitVec 6) (f : UpdEng → BitVec 32 → State)
    (h : Keeps M s t) (hf_f : ∀ y0 y1, Keeps M s (f y0 y1)) :
    KeepsR M s (upStep t h0 op f) := by
  unfold upStep
  repeat' first
    | with_reducible assumption
    | with_reducible exact Keeps.refl _
    | with_reducible exact Or.inr rfl
    | (with_reducible intro _)
    | with_reducible apply hf_f
    | (extract_lets +onlyGivenNames v_; clear_value v_; rename' v_ => w_)
    | with_reducible apply whenever_keeps

theorem upMem_keeps (hm : Sub 0x981004e0240 M) (h0 : Fin 4) (op : BitVec 6) (ecc : EccAt)
    (f : State → UpdEng → BitVec 32 → State) (h : Keeps M s t)
    (hf_f : ∀ y0 y1 y2, Keeps M s y0 → Keeps M s (f y0 y1 y2)) :
    KeepsR M s (upMem t h0 op ecc f) := by
  unfold upMem
  repeat' first
    | with_reducible assumption
    | with_reducible exact Keeps.refl _
    | with_reducible exact Or.inr rfl
    | (with_reducible intro _)
    | with_reducible apply hf_f
    | (extract_lets +onlyGivenNames v_; clear_value v_; rename' v_ => w_)
    | with_reducible apply metEcc_keeps
    | with_reducible apply whenever_keeps

theorem upPut_keeps (hm : Sub 0x40008010 M) (h0 : Fin 4) (u0 : UpdEng) (w : BitVec 32) (reads : List (BitVec 5))
    (v : BitVec 32) (fl : BitVec 8) (h : Keeps M s t) :
    Keeps M s (upPut t h0 u0 w reads v fl) := by
  unfold upPut
  repeat' first
    | with_reducible assumption
    | with_reducible exact Keeps.refl _
    | ((with_reducible refine hm.of ?_); exact rfl)
    | ((with_reducible refine Or.inl (hm.bit ?_)); exact rfl)
    | with_reducible exact Or.inr rfl
    | (extract_lets +onlyGivenNames v_
       have hv_ : Keeps M s v_ := ?_; (on_goal 1 => (clear_value v_; rename' v_ => w_)); (on_goal 2 => (unfold v_; clear v_)))
    | with_reducible apply modUpd_keeps
    | with_reducible apply setFlags_keeps
    | split
    | with_reducible apply mk_keeps

theorem upBin_keeps (hm : Sub 0x40008010 M) (h0 : Fin 4) (op : BitVec 6) (f : Bool → Val → Val → Conv)
    (h : Keeps M s t) :
    KeepsR M s (upBin t h0 op f) := by
  unfold upBin
  repeat' first
    | with_reducible assumption
    | with_reducible exact Keeps.refl _
    | ((with_reducible refine hm.of ?_); exact rfl)
    | with_reducible exact Or.inr rfl
    | (with_reducible intro _)
    | (extract_lets +onlyGivenNames v_; clear_value v_; rename' v_ => w_)
    | with_reducible apply upStep_keeps
    | with_reducible apply upPut_keeps

theorem upUn_keeps (hm : Sub 0x40008010 M) (h0 : Fin 4) (op : BitVec 6) (f : Bool → Val → Conv) (h : Keeps M s t) :
    KeepsR M s (upUn t h0 op f) := by
  unfold upUn
  repeat' first
    | with_reducible assumption
    | with_reducible exact Keeps.refl _
    | ((with_reducible refine hm.of ?_); exact rfl)
    | with_reducible exact Or.inr rfl
    | (with_reducible intro _)
    | (extract_lets +onlyGivenNames v_; clear_value v_; rename' v_ => w_)
    | with_reducible apply upStep_keeps
    | with_reducible apply upPut_keeps

theorem upBlk_keeps (hm : Sub 0x40008010 M) (h0 : Fin 4) (op : BitVec 6) (isSum : Bool) (h : Keeps M s t) :
    KeepsR M s (upBlk t h0 op isSum) := by
  unfold upBlk
  repeat' first
    | with_reducible assumption
    | with_reducible exact Keeps.refl _
    | ((with_reducible refine hm.of ?_); exact rfl)
    | ((with_reducible refine Or.inl (hm.bit ?_)); exact rfl)
    | with_reducible exact Or.inr rfl
    | (with_reducible intro _)
    | (extract_lets +onlyGivenNames v_; clear_value v_; rename' v_ => w_)
    | with_reducible apply modUpd_keeps
    | with_reducible apply upStep_keeps
    | with_reducible apply setFlags_keeps
    | with_reducible apply next_keeps
    | with_reducible exact fault_keeps _
    | with_reducible apply id_keeps
    | split
    | with_reducible apply mk_keeps

theorem addGuar_keeps (hm : Sub 0x10000020000 M) (g : BitVec 128) (h : Keeps M s t) :
    Keeps M s (addGuar t g) := by
  unfold addGuar
  repeat' first
    | with_reducible assumption
    | with_reducible exact Keeps.refl _
    | ((with_reducible refine hm.of ?_); exact rfl)
    | with_reducible exact Or.inr rfl
    | with_reducible apply modHub_keeps
    | with_reducible apply setRates_keeps

theorem dropGuars_keeps (hm : Sub 0x10000020000 M) (h : Keeps M s t) :
    Keeps M s (dropGuars t) := by
  unfold dropGuars
  repeat' first
    | with_reducible assumption
    | with_reducible exact Keeps.refl _
    | ((with_reducible refine hm.of ?_); exact rfl)
    | with_reducible exact Or.inr rfl
    | (with_reducible intro _)
    | with_reducible apply modHub_keeps
    | with_reducible apply setRates_keeps
    | (with_reducible refine foldl_keeps (fun _ _ _ => ?_) ?_)

theorem bindNow_keeps (hm : Sub 0x8000 M) (h : Keeps M s t) :
    Keeps M s (bindNow t) := by
  unfold bindNow
  repeat' first
    | with_reducible assumption
    | with_reducible exact Keeps.refl _
    | ((with_reducible refine Or.inl (hm.bit ?_)); exact rfl)
    | with_reducible exact Or.inr rfl
    | (with_reducible intro _)
    | (with_reducible refine foldl_keeps (fun _ _ _ => ?_) ?_)
    | (with_reducible refine foldl_keeps1 (fun _ _ _ => ?_) ?_)
    | split
    | with_reducible apply mk_keeps

theorem startRun_keeps (hm : Sub 0x184c08044 M) (b : BitVec 40) (h : Keeps M s t) :
    Keeps M s (startRun t b) := by
  unfold startRun
  repeat' first
    | with_reducible assumption
    | with_reducible exact Keeps.refl _
    | ((with_reducible refine hm.of ?_); exact rfl)
    | ((with_reducible refine Or.inl (hm.bit ?_)); exact rfl)
    | with_reducible exact Or.inr rfl
    | (extract_lets +onlyGivenNames v_
       have hv_ : Keeps M s v_ := ?_; (on_goal 1 => (clear_value v_; rename' v_ => w_)); (on_goal 2 => (unfold v_; clear v_)))
    | with_reducible apply modCommit_keeps
    | with_reducible apply modCkpt_keeps
    | with_reducible apply restartTables_keeps
    | with_reducible apply writeStepRecord_keeps
    | with_reducible apply modRun_keeps
    | with_reducible apply bindNow_keeps
    | with_reducible apply keepBoundary_keeps
    | split
    | with_reducible apply mk_keeps

theorem resumeRun_keeps (hm : Sub 0x4c00044 M) (b : BitVec 40) (k : BitVec 40) (h : Keeps M s t) :
    Keeps M s (resumeRun t b k) := by
  unfold resumeRun
  repeat' first
    | with_reducible assumption
    | with_reducible exact Keeps.refl _
    | ((with_reducible refine hm.of ?_); exact rfl)
    | ((with_reducible refine Or.inl (hm.bit ?_)); exact rfl)
    | with_reducible exact Or.inr rfl
    | (extract_lets +onlyGivenNames v_
       have hv_ : Keeps M s v_ := ?_; (on_goal 1 => (clear_value v_; rename' v_ => w_)); (on_goal 2 => (unfold v_; clear v_)))
    | with_reducible apply restartTables_keeps
    | with_reducible apply writeStepRecord_keeps
    | with_reducible apply modRun_keeps
    | with_reducible apply keepBoundary_keeps
    | split
    | with_reducible apply mk_keeps

theorem trial_keeps (hm : Sub 0x400000 M) (im : Image) (c : Fin 64) (h : Keeps M s t) :
    Keeps M s (trial t im c) := by
  unfold trial
  repeat' first
    | with_reducible assumption
    | with_reducible exact Keeps.refl _
    | with_reducible exact Or.inr rfl
    | with_reducible apply modRun_keeps

theorem putStreams_keeps (hm : Sub 0x40 M) (im : Image) (h : Keeps M s t) :
    Keeps M s (putStreams t im) := by
  unfold putStreams
  repeat' first
    | with_reducible assumption
    | with_reducible exact Keeps.refl _
    | with_reducible exact Or.inr rfl
    | (with_reducible intro _)
    | with_reducible apply wrMem_keeps
    | (with_reducible refine foldl_keeps (fun _ _ _ => ?_) ?_)

theorem firstTable_keeps (hm : Sub 0x40 M) (d : BitVec 256) (h : Keeps M s t) :
    Keeps M s (firstTable t d) := by
  unfold firstTable
  repeat' first
    | with_reducible assumption
    | with_reducible exact Keeps.refl _
    | with_reducible exact Or.inr rfl
    | (with_reducible intro _)
    | with_reducible apply gtPut_keeps
    | (with_reducible refine foldl_keeps (fun _ _ _ => ?_) ?_)

theorem loaderEntry_keeps (hm : Sub 0x10000000000 M) (key : BitVec 16) (r : Nat × Nat) (h : Keeps M s t) :
    Keeps M s (loaderEntry t key r) := by
  unfold loaderEntry
  repeat' first
    | with_reducible assumption
    | with_reducible exact Keeps.refl _
    | with_reducible exact Or.inr rfl
    | with_reducible apply modHub_keeps
    | split

theorem loaderRange_keeps (hm : Sub 0x10000000000 M) (key : BitVec 16) (r : Nat × Nat) (h : Keeps M s t) :
    Keeps M s (loaderRange t key r) := by
  unfold loaderRange
  repeat' first
    | with_reducible assumption
    | with_reducible exact Keeps.refl _
    | with_reducible exact Or.inr rfl
    | (with_reducible intro _)
    | with_reducible apply loaderEntry_keeps
    | (with_reducible refine foldl_keeps (fun _ _ _ => ?_) ?_)

theorem loaderEntries_keeps (hm : Sub 0x10000000000 M) (im : Image) (h : Keeps M s t) :
    Keeps M s (loaderEntries t im) := by
  unfold loaderEntries
  repeat' first
    | with_reducible assumption
    | with_reducible exact Keeps.refl _
    | with_reducible exact Or.inr rfl
    | (with_reducible intro _)
    | (extract_lets +onlyGivenNames v_
       have hv_ : Keeps M s v_ := ?_; (on_goal 1 => (clear_value v_; rename' v_ => w_)); (on_goal 2 => (unfold v_; clear v_)))
    | with_reducible apply loaderRange_keeps
    | (with_reducible refine foldl_keeps (fun _ _ _ => ?_) ?_)

theorem dropLoader_keeps (hm : Sub 0x10000000000 M) (h : Keeps M s t) :
    Keeps M s (dropLoader t) := by
  unfold dropLoader
  repeat' first
    | with_reducible assumption
    | with_reducible exact Keeps.refl _
    | ((with_reducible refine Or.inl (hm.bit ?_)); exact rfl)
    | with_reducible exact Or.inr rfl
    | (with_reducible intro _)
    | (with_reducible refine foldl_keeps (fun _ _ _ => ?_) ?_)
    | (with_reducible refine foldl_keeps1 (fun _ _ _ => ?_) ?_)
    | split
    | with_reducible apply mk_keeps

theorem clearImage_keeps (hm : Sub 0x3ffdc8000 M) (blks : Tab EnvBlock) (h : Keeps M s t) :
    Keeps M s (clearImage t blks) := by
  unfold clearImage
  repeat' first
    | with_reducible assumption
    | with_reducible exact Keeps.refl _
    | ((with_reducible refine Or.inl (hm.bit ?_)); exact rfl)
    | with_reducible exact Or.inr rfl
    | (extract_lets +onlyGivenNames v_; clear_value v_; rename' v_ => w_)
    | split
    | with_reducible apply mk_keeps

theorem applyImage_keeps (hm : Sub 0x903ffde8044 M) (im : Image) (c : Fin 64) (h : Keeps M s t) :
    Keeps M s (applyImage t im c) := by
  unfold applyImage
  repeat' first
    | with_reducible assumption
    | with_reducible exact Keeps.refl _
    | ((with_reducible refine hm.of ?_); exact rfl)
    | ((with_reducible refine Or.inl (hm.bit ?_)); exact rfl)
    | with_reducible exact Or.inr rfl
    | (with_reducible intro _)
    | (extract_lets +onlyGivenNames v_
       have hv_ : Keeps M s v_ := ?_; (on_goal 1 => (clear_value v_; rename' v_ => w_)); (on_goal 2 => (unfold v_; clear v_)))
    | with_reducible apply modCommit_keeps
    | with_reducible apply clearImage_keeps
    | with_reducible apply modRun_keeps
    | with_reducible apply dropLoader_keeps
    | with_reducible apply modSh_keeps
    | with_reducible apply loaderEntries_keeps
    | with_reducible apply putStreams_keeps
    | with_reducible apply firstTable_keeps
    | with_reducible apply modOffice_keeps
    | with_reducible apply dropGuars_keeps
    | with_reducible apply addGuar_keeps
    | (with_reducible refine foldl_keeps (fun _ _ _ => ?_) ?_)
    | (with_reducible refine foldl_keeps1 (fun _ _ _ => ?_) ?_)
    | split
    | with_reducible apply mk_keeps

theorem removeImage_keeps (hm : Sub 0x903ffde8004 M) (h : Keeps M s t) :
    Keeps M s (removeImage t) := by
  unfold removeImage
  repeat' first
    | with_reducible assumption
    | with_reducible exact Keeps.refl _
    | ((with_reducible refine hm.of ?_); exact rfl)
    | ((with_reducible refine Or.inl (hm.bit ?_)); exact rfl)
    | with_reducible exact Or.inr rfl
    | (extract_lets +onlyGivenNames v_
       have hv_ : Keeps M s v_ := ?_; (on_goal 1 => (clear_value v_; rename' v_ => w_)); (on_goal 2 => (unfold v_; clear v_)))
    | with_reducible apply clearImage_keeps
    | with_reducible apply dropLoader_keeps
    | with_reducible apply modSh_keeps
    | with_reducible apply dropGuars_keeps
    | split
    | with_reducible apply mk_keeps

theorem finishLoad_keeps (hm : Sub 0x903ffde8044 M) (im : Image) (again : Image) (c : Fin 64) (h : Keeps M s t) :
    Keeps M s (finishLoad t im again c).1 := by
  unfold finishLoad
  repeat' first
    | with_reducible assumption
    | with_reducible exact Keeps.refl _
    | ((with_reducible refine hm.of ?_); exact rfl)
    | with_reducible exact Or.inr rfl
    | with_reducible apply post_keeps
    | with_reducible apply applyImage_keeps
    | (with_reducible refine fst_keeps (by with_reducible assumption) ?_)
    | split

theorem putBytes_keeps (hm : Sub 0x40 M) (l : List (Nat × List Byte)) (h : Keeps M s t) :
    Keeps M s (putBytes t l) := by
  unfold putBytes
  repeat' first
    | with_reducible assumption
    | with_reducible exact Keeps.refl _
    | with_reducible exact Or.inr rfl
    | (with_reducible intro _)
    | with_reducible apply wrMem_keeps
    | (with_reducible refine foldl_keeps (fun _ _ _ => ?_) ?_)

theorem restoreCut_keeps (hm : Sub 0x2ffd68044 M) (x : CutState) (h : Keeps M s t) :
    Keeps M s (restoreCut t x) := by
  unfold restoreCut
  repeat' first
    | with_reducible assumption
    | with_reducible exact Keeps.refl _
    | ((with_reducible refine hm.of ?_); exact rfl)
    | ((with_reducible refine Or.inl (hm.bit ?_)); exact rfl)
    | with_reducible exact Or.inr rfl
    | (with_reducible intro _)
    | (extract_lets +onlyGivenNames v_
       have hv_ : Keeps M s v_ := ?_; (on_goal 1 => (clear_value v_; rename' v_ => w_)); (on_goal 2 => (unfold v_; clear v_)))
    | with_reducible apply modCommit_keeps
    | with_reducible apply restartTables_keeps
    | with_reducible apply putBytes_keeps
    | with_reducible apply freeEds_keeps
    | with_reducible apply modRun_keeps
    | with_reducible apply restoreQstats_keeps
    | with_reducible apply clearColls_keeps
    | with_reducible apply stopCores_keeps
    | with_reducible apply discardEvicts_keeps
    | with_reducible apply restoreSlots_keeps
    | with_reducible apply restoreCounts_keeps
    | (with_reducible refine foldl_keeps (fun _ _ _ => ?_) ?_)
    | (with_reducible refine foldl_keeps1 (fun _ _ _ => ?_) ?_)
    | split
    | with_reducible apply mk_keeps

theorem restoreLocal_keeps (hm : Sub 0x3ffd68044 M) (g : Gen) (h : Keeps M s t) :
    Keeps M s (restoreLocal t g) := by
  unfold restoreLocal
  repeat' first
    | with_reducible assumption
    | with_reducible exact Keeps.refl _
    | ((with_reducible refine hm.of ?_); exact rfl)
    | with_reducible exact Or.inr rfl
    | (extract_lets +onlyGivenNames v_
       have hv_ : Keeps M s v_ := ?_; (on_goal 1 => (clear_value v_; rename' v_ => w_)); (on_goal 2 => (unfold v_; clear v_)))
    | with_reducible apply modCkpt_keeps
    | with_reducible apply restoreCut_keeps
    | split

theorem edPoke_keeps (hm : Sub 0x40 M) (d : BitVec 256) (n : Nat) (o : Nat) (l : List Byte) (h : Keeps M s t) :
    Keeps M s (edPoke t d n o l) := by
  unfold edPoke
  repeat' first
    | with_reducible assumption
    | with_reducible exact Keeps.refl _
    | with_reducible exact Or.inr rfl
    | (with_reducible intro _)
    | with_reducible apply wrMem_keeps
    | (with_reducible refine foldl_keeps (fun _ _ _ => ?_) ?_)

theorem rebuildEntry_keeps (hm : Sub 0x40 M) (i : Nat) (e : BitVec 512) (h : Keeps M s t) :
    Keeps M s (rebuildEntry t i e) := by
  unfold rebuildEntry
  repeat' first
    | with_reducible assumption
    | with_reducible exact Keeps.refl _
    | with_reducible exact Or.inr rfl
    | (with_reducible intro _)
    | (extract_lets +onlyGivenNames v_
       first
       | (have hf_ : ∀ x y z, Keeps M s x → Keeps M s (v_ x y z) := ?_; (on_goal 1 => (clear_value v_; rename' v_ => w_)); (on_goal 2 => (unfold v_; clear v_; intro _ _ _ _)))
       | (clear_value v_; rename' v_ => w_))
    | with_reducible apply edPoke_keeps
    | (with_reducible refine foldl_keeps (fun _ _ _ => ?_) ?_)
    | (with_reducible refine foldl_keeps1 (fun _ _ _ => ?_) ?_)
    | with_reducible apply hf_
    | split

theorem rebuildOwned_keeps (hm : Sub 0x40 M) (h : Keeps M s t) :
    Keeps M s (rebuildOwned t) := by
  unfold rebuildOwned
  repeat' first
    | with_reducible assumption
    | with_reducible exact Keeps.refl _
    | with_reducible exact Or.inr rfl
    | (with_reducible intro _)
    | with_reducible apply rebuildEntry_keeps
    | (with_reducible refine foldl_keeps (fun _ _ _ => ?_) ?_)
    | (with_reducible refine foldl_keeps1 (fun _ _ _ => ?_) ?_)
    | split

theorem restoreBuddy_keeps (hm : Sub 0x3ffd68044 M) (g : BuddyData) (h : Keeps M s t) :
    Keeps M s (restoreBuddy t g) := by
  unfold restoreBuddy
  repeat' first
    | with_reducible assumption
    | with_reducible exact Keeps.refl _
    | ((with_reducible refine hm.of ?_); exact rfl)
    | with_reducible exact Or.inr rfl
    | (extract_lets +onlyGivenNames v_
       have hv_ : Keeps M s v_ := ?_; (on_goal 1 => (clear_value v_; rename' v_ => w_)); (on_goal 2 => (unfold v_; clear v_)))
    | with_reducible apply modCkpt_keeps
    | with_reducible apply putBytes_keeps
    | with_reducible apply modRun_keeps
    | with_reducible apply post_keeps
    | with_reducible apply restoreCut_keeps
    | with_reducible apply rebuildOwned_keeps
    | split

theorem restoreDone_keeps (hm : Sub 0x20000 M) (c : BitVec 40) (source : Nat) (us : Nat) (h : Keeps M s t) :
    Keeps M s (restoreDone t c source us) := by
  unfold restoreDone
  repeat' first
    | with_reducible assumption
    | with_reducible exact Keeps.refl _
    | with_reducible exact Or.inr rfl
    | with_reducible apply post_keeps

theorem restoreFails_keeps (hm : Sub 0x100020000 M) (h : Keeps M s t) :
    Keeps M s (restoreFails t) := by
  unfold restoreFails
  repeat' first
    | with_reducible assumption
    | with_reducible exact Keeps.refl _
    | ((with_reducible refine hm.of ?_); exact rfl)
    | with_reducible exact Or.inr rfl
    | with_reducible apply modCkpt_keeps
    | with_reducible apply post_keeps

theorem finishRestore_keeps (hm : Sub 0x3ffd68044 M) (buddy : Bool) (cut : BitVec 64) (g : Option BuddyData)
    (began : Nat) (h : Keeps M s t) :
    Keeps M s (finishRestore t buddy cut g began).1 := by
  unfold finishRestore
  repeat' first
    | with_reducible assumption
    | with_reducible exact Keeps.refl _
    | ((with_reducible refine hm.of ?_); exact rfl)
    | with_reducible exact Or.inr rfl
    | (extract_lets +onlyGivenNames v_; clear_value v_; rename' v_ => w_)
    | with_reducible apply modCkpt_keeps
    | with_reducible apply restoreBuddy_keeps
    | with_reducible apply restoreFails_keeps
    | with_reducible apply restoreDone_keeps
    | with_reducible apply restoreLocal_keeps
    | (with_reducible refine fst_keeps (by with_reducible assumption) ?_)
    | split

theorem enterStage_keeps (hm : Sub 0x2000 M) (n : BitVec 4) (h : Keeps M s t) :
    Keeps M s (enterStage t n) := by
  unfold enterStage
  repeat' first
    | with_reducible assumption
    | with_reducible exact Keeps.refl _
    | with_reducible exact Or.inr rfl
    | with_reducible apply modStart_keeps

theorem clearCounters_keeps (hm : Sub 0x1ba800a0400 M) (h : Keeps M s t) :
    Keeps M s (clearCounters t) := by
  unfold clearCounters
  repeat' first
    | with_reducible assumption
    | with_reducible exact Keeps.refl _
    | ((with_reducible refine Or.inl (hm.bit ?_)); exact rfl)
    | with_reducible exact Or.inr rfl
    | (extract_lets +onlyGivenNames v_; clear_value v_; rename' v_ => w_)
    | split
    | with_reducible apply mk_keeps

theorem powerSpares_keeps (hm : Sub 0x200 M) (h : Keeps M s t) :
    Keeps M s (powerSpares t) := by
  unfold powerSpares
  repeat' first
    | with_reducible assumption
    | with_reducible exact Keeps.refl _
    | with_reducible exact Or.inr rfl
    | (with_reducible intro _)
    | with_reducible apply powerCluster_keeps
    | (with_reducible refine foldl_keeps (fun _ _ _ => ?_) ?_)

theorem beginStage3_keeps (hm : Sub 0xfba800a6600 M) (ret : Bool) (h : Keeps M s t) :
    Keeps M s (beginStage3 t ret) := by
  unfold beginStage3
  repeat' first
    | with_reducible assumption
    | with_reducible exact Keeps.refl _
    | ((with_reducible refine hm.of ?_); exact rfl)
    | ((with_reducible refine Or.inl (hm.bit ?_)); exact rfl)
    | with_reducible exact Or.inr rfl
    | (extract_lets +onlyGivenNames v_
       first
       | (have hv_ : Keeps M s v_ := ?_; (on_goal 1 => (clear_value v_; rename' v_ => w_)); (on_goal 2 => (unfold v_; clear v_)))
       | (clear_value v_; rename' v_ => w_))
    | with_reducible apply modStart_keeps
    | with_reducible apply modPwr_keeps
    | with_reducible apply modSh_keeps
    | with_reducible apply clearCounters_keeps
    | with_reducible apply modPins_keeps
    | with_reducible apply powerSpares_keeps
    | with_reducible apply enterStage_keeps
    | split
    | with_reducible apply mk_keeps

theorem beginReturn_keeps (hm : Sub 0xfba800a6600 M) (h : Keeps M s t) :
    Keeps M s (beginReturn t) := by
  unfold beginReturn
  repeat' first
    | with_reducible assumption
    | with_reducible exact Keeps.refl _
    | with_reducible exact Or.inr rfl
    | with_reducible apply beginStage3_keeps

theorem buildSpareMap_keeps (hm : Sub 0x90200000200 M) (h : Keeps M s t) :
    Keeps M s (buildSpareMap t) := by
  unfold buildSpareMap
  repeat' first
    | with_reducible assumption
    | with_reducible exact Keeps.refl _
    | ((with_reducible refine hm.of ?_); exact rfl)
    | with_reducible exact Or.inr rfl
    | (with_reducible intro _)
    | (extract_lets +onlyGivenNames v_
       first
       | (have hv_ : Keeps M s v_ := ?_; (on_goal 1 => (clear_value v_; rename' v_ => w_)); (on_goal 2 => (unfold v_; clear v_)))
       | (clear_value v_; rename' v_ => w_))
    | with_reducible apply modHub_keeps
    | with_reducible apply modSh_keeps
    | with_reducible apply powerSpares_keeps
    | with_reducible apply modOffice_keeps
    | (with_reducible refine foldl_keeps (fun _ _ _ => ?_) ?_)

theorem ofRow_keeps (hm : Sub 0x0 M) (b : Bool) (r : Res) (h : Keeps M s t) (hr_r : KeepsR M s r) :
    KeepsR M s (ofRow b t r) := by
  unfold ofRow
  repeat' first
    | with_reducible assumption
    | with_reducible exact Keeps.refl _
    | with_reducible exact Or.inr rfl
    | with_reducible apply next_keeps
    | with_reducible exact fault_keeps _
    | split

theorem execMbNop_keeps (hm : Sub 0x30080 M) (c : Fin 64) (d : BitVec 504) (h : Keeps M s t) :
    KeepsR M s (execMbNop c d t) := by
  unfold execMbNop
  repeat' first
    | with_reducible assumption
    | with_reducible exact Keeps.refl _
    | with_reducible exact Or.inr rfl
    | (with_reducible intro _)
    | with_reducible apply shortCmd_keeps

theorem execMbCopy_keeps (hm : Sub 0x30080 M) (c : Fin 64) (d : BitVec 504) (h : Keeps M s t) :
    KeepsR M s (execMbCopy c d t) := by
  unfold execMbCopy
  repeat' first
    | with_reducible assumption
    | with_reducible exact Keeps.refl _
    | with_reducible exact Or.inr rfl
    | (with_reducible intro _)
    | (extract_lets +onlyGivenNames v_; clear_value v_; rename' v_ => w_)
    | with_reducible apply longCmd_keeps
    | with_reducible apply next_keeps
    | with_reducible exact fault_keeps _
    | (with_reducible refine fst_keeps (by with_reducible assumption) ?_)
    | with_reducible apply id_keeps

theorem copyBytes_keeps (hm : Sub 0x48000c0 M) (dir : BitVec 2) (src : Addr) (dst : Addr) (host : BitVec 64)
    (n : Nat) (h : Keeps M s t) :
    Keeps M s (copyBytes t dir src dst host n) := by
  unfold copyBytes
  repeat' first
    | with_reducible assumption
    | with_reducible exact Keeps.refl _
    | ((with_reducible refine hm.of ?_); exact rfl)
    | with_reducible exact Or.inr rfl
    | with_reducible apply wrHost_keeps
    | with_reducible apply pkgWrite_keeps
    | split

theorem execMbLoad_keeps (hm : Sub 0x30080 M) (c : Fin 64) (d : BitVec 504) (img : Image) (again : Image)
    (h : Keeps M s t) :
    KeepsR M s (execMbLoad c d img again t) := by
  unfold execMbLoad
  repeat' first
    | with_reducible assumption
    | with_reducible exact Keeps.refl _
    | with_reducible exact Or.inr rfl
    | (with_reducible intro _)
    | (extract_lets +onlyGivenNames v_; clear_value v_; rename' v_ => w_)
    | with_reducible apply longCmd_keeps
    | with_reducible apply next_keeps
    | with_reducible exact fault_keeps _
    | (with_reducible refine fst_keeps (by with_reducible assumption) ?_)
    | with_reducible apply id_keeps

theorem execMbUnload_keeps (hm : Sub 0x903ffdf8084 M) (c : Fin 64) (d : BitVec 504) (h : Keeps M s t) :
    KeepsR M s (execMbUnload c d t) := by
  unfold execMbUnload
  repeat' first
    | with_reducible assumption
    | with_reducible exact Keeps.refl _
    | ((with_reducible refine hm.of ?_); exact rfl)
    | with_reducible exact Or.inr rfl
    | (with_reducible intro _)
    | with_reducible apply shortCmd_keeps
    | with_reducible apply removeImage_keeps

theorem execMbStart_keeps (hm : Sub 0x184c380c4 M) (c : Fin 64) (d : BitVec 504) (h : Keeps M s t) :
    KeepsR M s (execMbStart c d t) := by
  unfold execMbStart
  repeat' first
    | with_reducible assumption
    | with_reducible exact Keeps.refl _
    | ((with_reducible refine hm.of ?_); exact rfl)
    | with_reducible exact Or.inr rfl
    | (with_reducible intro _)
    | with_reducible apply shortCmd_keeps
    | with_reducible apply startRun_keeps

theorem execMbResume_keeps (hm : Sub 0x4c300c4 M) (c : Fin 64) (d : BitVec 504) (h : Keeps M s t) :
    KeepsR M s (execMbResume c d t) := by
  unfold execMbResume
  repeat' first
    | with_reducible assumption
    | with_reducible exact Keeps.refl _
    | ((with_reducible refine hm.of ?_); exact rfl)
    | with_reducible exact Or.inr rfl
    | (with_reducible intro _)
    | with_reducible apply resumeRun_keeps
    | with_reducible apply shortCmd_keeps
    | with_reducible apply next_keeps
    | with_reducible exact fault_keeps _
    | (with_reducible refine fst_keeps (by with_reducible assumption) ?_)
    | with_reducible apply id_keeps
    | split

theorem execMbRegion_keeps (hm : Sub 0x10000030080 M) (c : Fin 64) (d : BitVec 504) (h : Keeps M s t) :
    KeepsR M s (execMbRegion c d t) := by
  unfold execMbRegion
  repeat' first
    | with_reducible assumption
    | with_reducible exact Keeps.refl _
    | ((with_reducible refine hm.of ?_); exact rfl)
    | with_reducible exact Or.inr rfl
    | (with_reducible intro _)
    | with_reducible apply modHub_keeps
    | with_reducible apply shortCmd_keeps

theorem execMbGuaranteeAdd_keeps (hm : Sub 0x10000030080 M) (c : Fin 64) (d : BitVec 504) (h : Keeps M s t) :
    KeepsR M s (execMbGuaranteeAdd c d t) := by
  unfold execMbGuaranteeAdd
  repeat' first
    | with_reducible assumption
    | with_reducible exact Keeps.refl _
    | ((with_reducible refine hm.of ?_); exact rfl)
    | with_reducible exact Or.inr rfl
    | (with_reducible intro _)
    | (extract_lets +onlyGivenNames v_; clear_value v_; rename' v_ => w_)
    | with_reducible apply shortCmd_keeps
    | with_reducible apply ofRow_keeps
    | with_reducible apply addGuar_keeps

theorem execMbGuaranteeRemove_keeps (hm : Sub 0x10000030080 M) (c : Fin 64) (d : BitVec 504) (h : Keeps M s t) :
    KeepsR M s (execMbGuaranteeRemove c d t) := by
  unfold execMbGuaranteeRemove
  repeat' first
    | with_reducible assumption
    | with_reducible exact Keeps.refl _
    | ((with_reducible refine hm.of ?_); exact rfl)
    | with_reducible exact Or.inr rfl
    | (with_reducible intro _)
    | (extract_lets +onlyGivenNames v_; clear_value v_; rename' v_ => w_)
    | with_reducible apply modHub_keeps
    | with_reducible apply shortCmd_keeps
    | with_reducible apply ofRow_keeps
    | with_reducible apply setRates_keeps

theorem execMbColl_keeps (hm : Sub 0x200030080 M) (c : Fin 64) (d : BitVec 504) (entry : BitVec 512)
    (startBeat : BitVec 40) (h : Keeps M s t) :
    KeepsR M s (execMbColl c d entry startBeat t) := by
  unfold execMbColl
  repeat' first
    | with_reducible assumption
    | with_reducible exact Keeps.refl _
    | ((with_reducible refine hm.of ?_); exact rfl)
    | with_reducible exact Or.inr rfl
    | (with_reducible intro _)
    | with_reducible apply shortCmd_keeps
    | with_reducible apply wrHost_keeps
    | with_reducible apply armColl_keeps

theorem linkCmd_keeps (hm : Sub 0x30080 M) (c : Fin 64) (d : BitVec 504) (a : BitVec 2) (act : State → Nat → State)
    (h : Keeps M s t) (hf_act : ∀ y0 y1, Keeps M s y0 → Keeps M s (act y0 y1)) :
    KeepsR M s (linkCmd t c d a act) := by
  unfold linkCmd
  repeat' first
    | with_reducible assumption
    | with_reducible exact Keeps.refl _
    | ((with_reducible refine hm.of ?_); exact rfl)
    | with_reducible exact Or.inr rfl
    | (with_reducible intro _)
    | with_reducible apply hf_act
    | with_reducible apply longCmd_keeps
    | with_reducible apply ofRow_keeps
    | with_reducible apply next_keeps
    | with_reducible exact fault_keeps _
    | (with_reducible refine foldl_keeps (fun _ _ _ => ?_) ?_)

theorem execMbLinkDown_keeps (hm : Sub 0xc00030088 M) (c : Fin 64) (d : BitVec 504) (h : Keeps M s t) :
    KeepsR M s (execMbLinkDown c d t) := by
  unfold execMbLinkDown
  repeat' first
    | with_reducible assumption
    | with_reducible exact Keeps.refl _
    | ((with_reducible refine hm.of ?_); exact rfl)
    | with_reducible exact Or.inr rfl
    | (with_reducible intro _)
    | with_reducible apply modLink_keeps
    | with_reducible apply linkCmd_keeps
    | with_reducible apply goDown_keeps
    | with_reducible apply sendLinkCtl_keeps
    | with_reducible apply next_keeps
    | with_reducible exact fault_keeps _
    | with_reducible apply id_keeps
    | split

theorem execMbLinkRetrain_keeps (hm : Sub 0xc00030088 M) (c : Fin 64) (d : BitVec 504) (h : Keeps M s t) :
    KeepsR M s (execMbLinkRetrain c d t) := by
  unfold execMbLinkRetrain
  repeat' first
    | with_reducible assumption
    | with_reducible exact Keeps.refl _
    | ((with_reducible refine hm.of ?_); exact rfl)
    | with_reducible exact Or.inr rfl
    | (with_reducible intro _)
    | with_reducible apply linkCmd_keeps
    | with_reducible apply startRetrain_keeps
    | with_reducible apply sendLinkCtl_keeps
    | with_reducible apply trainAgain_keeps
    | with_reducible apply next_keeps
    | with_reducible exact fault_keeps _
    | with_reducible apply id_keeps
    | split

theorem execMbLinkSetWidth_keeps (hm : Sub 0x400030088 M) (c : Fin 64) (d : BitVec 504) (h : Keeps M s t) :
    KeepsR M s (execMbLinkSetWidth c d t) := by
  unfold execMbLinkSetWidth
  repeat' first
    | with_reducible assumption
    | with_reducible exact Keeps.refl _
    | ((with_reducible refine hm.of ?_); exact rfl)
    | with_reducible exact Or.inr rfl
    | (with_reducible intro _)
    | with_reducible apply askWidth_keeps
    | with_reducible apply linkCmd_keeps

theorem execMbLinkCourierRetrain_keeps (hm : Sub 0x400030080 M) (c : Fin 64) (d : BitVec 504) (h : Keeps M s t) :
    KeepsR M s (execMbLinkCourierRetrain c d t) := by
  unfold execMbLinkCourierRetrain
  repeat' first
    | with_reducible assumption
    | with_reducible exact Keeps.refl _
    | ((with_reducible refine hm.of ?_); exact rfl)
    | with_reducible exact Or.inr rfl
    | (with_reducible intro _)
    | with_reducible apply linkCmd_keeps
    | with_reducible apply laneRetrained_keeps

theorem execMbCkptHdr_keeps (hm : Sub 0x30080 M) (c : Fin 64) (d : BitVec 504) (h : Keeps M s t) :
    KeepsR M s (execMbCkptHdr c d t) := by
  unfold execMbCkptHdr
  repeat' first
    | with_reducible assumption
    | with_reducible exact Keeps.refl _
    | ((with_reducible refine hm.of ?_); exact rfl)
    | with_reducible exact Or.inr rfl
    | (with_reducible intro _)
    | (extract_lets +onlyGivenNames v_; clear_value v_; rename' v_ => w_)
    | with_reducible apply shortCmd_keeps
    | with_reducible apply wrHost_keeps

theorem execMbBuddyLost_keeps (hm : Sub 0x100030080 M) (c : Fin 64) (d : BitVec 504) (h : Keeps M s t) :
    KeepsR M s (execMbBuddyLost c d t) := by
  unfold execMbBuddyLost
  repeat' first
    | with_reducible assumption
    | with_reducible exact Keeps.refl _
    | ((with_reducible refine hm.of ?_); exact rfl)
    | with_reducible exact Or.inr rfl
    | (with_reducible intro _)
    | with_reducible apply modCkpt_keeps
    | with_reducible apply shortCmd_keeps

theorem execMbRestoreLocal_keeps (hm : Sub 0x30080 M) (c : Fin 64) (d : BitVec 504) (h : Keeps M s t) :
    KeepsR M s (execMbRestoreLocal c d t) := by
  unfold execMbRestoreLocal
  repeat' first
    | with_reducible assumption
    | with_reducible exact Keeps.refl _
    | ((with_reducible refine hm.of ?_); exact rfl)
    | with_reducible exact Or.inr rfl
    | (with_reducible intro _)
    | with_reducible apply longCmd_keeps
    | with_reducible apply ofRow_keeps
    | with_reducible apply next_keeps
    | with_reducible exact fault_keeps _
    | with_reducible apply id_keeps

theorem execMbRestoreBuddy_keeps (hm : Sub 0x30080 M) (c : Fin 64) (d : BitVec 504) (g : BuddyData)
    (h : Keeps M s t) :
    KeepsR M s (execMbRestoreBuddy c d g t) := by
  unfold execMbRestoreBuddy
  repeat' first
    | with_reducible assumption
    | with_reducible exact Keeps.refl _
    | ((with_reducible refine hm.of ?_); exact rfl)
    | with_reducible exact Or.inr rfl
    | (with_reducible intro _)
    | with_reducible apply longCmd_keeps
    | with_reducible apply ofRow_keeps
    | with_reducible apply next_keeps
    | with_reducible exact fault_keeps _
    | with_reducible apply id_keeps

theorem execMbConsignReset_keeps (hm : Sub 0x5030080 M) (c : Fin 64) (d : BitVec 504) (h : Keeps M s t) :
    KeepsR M s (execMbConsignReset c d t) := by
  unfold execMbConsignReset
  repeat' first
    | with_reducible assumption
    | with_reducible exact Keeps.refl _
    | ((with_reducible refine hm.of ?_); exact rfl)
    | with_reducible exact Or.inr rfl
    | (with_reducible intro _)
    | (extract_lets +onlyGivenNames v_; clear_value v_; rename' v_ => w_)
    | with_reducible apply shortCmd_keeps
    | with_reducible apply toIdle_keeps

theorem execMbCoreClear_keeps (hm : Sub 0x70080 M) (c : Fin 64) (d : BitVec 504) (h : Keeps M s t) :
    KeepsR M s (execMbCoreClear c d t) := by
  unfold execMbCoreClear
  repeat' first
    | with_reducible assumption
    | with_reducible exact Keeps.refl _
    | ((with_reducible refine hm.of ?_); exact rfl)
    | with_reducible exact Or.inr rfl
    | (with_reducible intro _)
    | with_reducible apply shortCmd_keeps
    | with_reducible apply ofRow_keeps
    | with_reducible apply modCore_keeps

theorem execMbCoreRetire_keeps (hm : Sub 0x881004f02d0 M) (c : Fin 64) (d : BitVec 504) (h : Keeps M s t) :
    KeepsR M s (execMbCoreRetire c d t) := by
  unfold execMbCoreRetire
  repeat' first
    | with_reducible assumption
    | with_reducible exact Keeps.refl _
    | ((with_reducible refine hm.of ?_); exact rfl)
    | ((with_reducible refine Or.inl (hm.bit ?_)); exact rfl)
    | with_reducible exact Or.inr rfl
    | (with_reducible intro _)
    | with_reducible apply shortCmd_keeps
    | with_reducible apply ofRow_keeps
    | with_reducible apply retireCore_keeps
    | with_reducible apply next_keeps
    | with_reducible exact fault_keeps _
    | (with_reducible refine fst_keeps (by with_reducible assumption) ?_)
    | with_reducible apply id_keeps
    | split
    | with_reducible apply mk_keeps

theorem stateThere_keeps (hm : Sub 0x30080 M) (c : Fin 64) (d : BitVec 504) (h : Keeps M s t) :
    KeepsR M s (stateThere t c d) := by
  unfold stateThere
  repeat' first
    | with_reducible assumption
    | with_reducible exact Keeps.refl _
    | with_reducible exact Or.inr rfl
    | (with_reducible intro _)
    | with_reducible apply shortCmd_keeps

theorem execMbStateReady_keeps (hm : Sub 0xfba800b6680 M) (c : Fin 64) (d : BitVec 504) (h : Keeps M s t) :
    KeepsR M s (execMbStateReady c d t) := by
  unfold execMbStateReady
  repeat' first
    | with_reducible assumption
    | with_reducible exact Keeps.refl _
    | ((with_reducible refine hm.of ?_); exact rfl)
    | with_reducible exact Or.inr rfl
    | (with_reducible intro _)
    | with_reducible apply stateThere_keeps
    | with_reducible apply longCmd_keeps
    | with_reducible apply beginReturn_keeps
    | with_reducible apply ofRow_keeps
    | with_reducible apply next_keeps
    | with_reducible exact fault_keeps _
    | with_reducible apply id_keeps
    | split

theorem execMbStateDormant_keeps (hm : Sub 0x30080 M) (c : Fin 64) (d : BitVec 504) (h : Keeps M s t) :
    KeepsR M s (execMbStateDormant c d t) := by
  unfold execMbStateDormant
  repeat' first
    | with_reducible assumption
    | with_reducible exact Keeps.refl _
    | ((with_reducible refine hm.of ?_); exact rfl)
    | with_reducible exact Or.inr rfl
    | (with_reducible intro _)
    | with_reducible apply stateThere_keeps
    | with_reducible apply longCmd_keeps
    | with_reducible apply ofRow_keeps
    | with_reducible apply next_keeps
    | with_reducible exact fault_keeps _
    | with_reducible apply id_keeps
    | split

theorem endLong_keeps (hm : Sub 0x30000 M) (i : Nat) (l : Long) (err : Err) (result : Nat) (h : Keeps M s t) :
    Keeps M s (endLong t i l err result) := by
  unfold endLong
  repeat' first
    | with_reducible assumption
    | with_reducible exact Keeps.refl _
    | ((with_reducible refine hm.of ?_); exact rfl)
    | with_reducible exact Or.inr rfl
    | with_reducible apply completeCmd_keeps
    | with_reducible apply modPaths_keeps

theorem courierEnds_keeps (hm : Sub 0x80500020000 M) (a : BitVec 2) (m : BitVec 12) (h : Keeps M s t) :
    Keeps M s (courierEnds t a m) := by
  unfold courierEnds
  repeat' first
    | with_reducible assumption
    | with_reducible exact Keeps.refl _
    | ((with_reducible refine hm.of ?_); exact rfl)
    | with_reducible exact Or.inr rfl
    | (with_reducible intro _)
    | with_reducible apply modLink_keeps
    | with_reducible apply recordRetired_keeps
    | (with_reducible refine foldl_keeps (fun _ _ _ => ?_) ?_)
    | (with_reducible refine foldl_keeps1 (fun _ _ _ => ?_) ?_)
    | split

theorem execLongCommandComplete_keeps (hm : Sub 0xbf7ffffa2ce M) (i : Nat) (err : Err) (moved : Nat) (ecc : EccAt)
    (h : Keeps M s t) :
    KeepsR M s (execLongCommandComplete i err moved ecc t) := by
  unfold execLongCommandComplete
  repeat' first
    | with_reducible assumption
    | with_reducible exact Keeps.refl _
    | ((with_reducible refine hm.of ?_); exact rfl)
    | ((with_reducible refine Or.inl (hm.bit ?_)); exact rfl)
    | with_reducible exact Or.inr rfl
    | (extract_lets +onlyGivenNames v_
       first
       | (have hv_ : Keeps M s v_ := ?_; (on_goal 1 => (clear_value v_; rename' v_ => w_)); (on_goal 2 => (unfold v_; clear v_)))
       | (have hv_ : Keeps M s v_.1 := ?_; (on_goal 1 => (clear_value v_; rename' v_ => w_)); (on_goal 2 => (unfold v_; clear v_))))
    | with_reducible apply toLow_keeps
    | with_reducible apply metEcc_keeps
    | with_reducible apply endLong_keeps
    | with_reducible apply finishRestore_keeps
    | with_reducible apply whenever_keeps
    | with_reducible apply copyBytes_keeps
    | with_reducible apply finishLoad_keeps
    | with_reducible apply restoreFails_keeps
    | with_reducible apply courierEnds_keeps
    | with_reducible apply next_keeps
    | with_reducible exact fault_keeps _
    | (with_reducible refine fst_keeps (by with_reducible assumption) ?_)
    | split
    | with_reducible apply mk_keeps

theorem execCmdTimeout_keeps (hm : Sub 0x30000 M) (c : Fin 64) (h : Keeps M s t) :
    KeepsR M s (execCmdTimeout c t) := by
  unfold execCmdTimeout
  repeat' first
    | with_reducible assumption
    | with_reducible exact Keeps.refl _
    | ((with_reducible refine hm.of ?_); exact rfl)
    | with_reducible exact Or.inr rfl
    | with_reducible apply endLong_keeps
    | with_reducible apply whenever_keeps
    | with_reducible apply post_keeps
    | with_reducible apply next_keeps
    | with_reducible exact fault_keeps _
    | split

theorem countWindow_keeps (hm : Sub 0x10000400000 M) (h0 : Fin 4) (hbm : Bool) (bad : Bool) (ratio : BitVec 32)
    (h : Keeps M s t) :
    Keeps M s (countWindow t h0 hbm bad ratio) := by
  unfold countWindow
  repeat' first
    | with_reducible assumption
    | with_reducible exact Keeps.refl _
    | ((with_reducible refine hm.of ?_); exact rfl)
    | with_reducible exact Or.inr rfl
    | (extract_lets +onlyGivenNames v_
       first
       | (have hv_ : Keeps M s v_ := ?_; (on_goal 1 => (clear_value v_; rename' v_ => w_)); (on_goal 2 => (unfold v_; clear v_)))
       | (clear_value v_; rename' v_ => w_))
    | with_reducible apply modHub_keeps
    | with_reducible apply modRun_keeps
    | split

theorem execImbalanceWindow_keeps (hm : Sub 0x10000400000 M) (h0 : Fin 4) (g : MonGroup) (total : Nat)
    (largest : Nat) (h : Keeps M s t) :
    KeepsR M s (execImbalanceWindow h0 g total largest t) := by
  unfold execImbalanceWindow
  repeat' first
    | with_reducible assumption
    | with_reducible exact Keeps.refl _
    | with_reducible exact Or.inr rfl
    | (extract_lets +onlyGivenNames v_; clear_value v_; rename' v_ => w_)
    | with_reducible apply whenever_keeps
    | with_reducible apply countWindow_keeps

theorem execLlmFlushDone_keeps (hm : Sub 0x10000000000 M) (h0 : Fin 4) (h : Keeps M s t) :
    KeepsR M s (execLlmFlushDone h0 t) := by
  unfold execLlmFlushDone
  repeat' first
    | with_reducible assumption
    | with_reducible exact Keeps.refl _
    | with_reducible exact Or.inr rfl
    | with_reducible apply modHub_keeps
    | with_reducible apply whenever_keeps

theorem chunkDone_keeps (hm : Sub 0x10000020000 M) (h0 : Nat) (m : Migration) (h : Keeps M s t) :
    Keeps M s (chunkDone t h0 m) := by
  unfold chunkDone
  repeat' first
    | with_reducible assumption
    | with_reducible exact Keeps.refl _
    | ((with_reducible refine hm.of ?_); exact rfl)
    | with_reducible exact Or.inr rfl
    | (extract_lets +onlyGivenNames v_
       first
       | (have hv_ : Keeps M s v_ := ?_; (on_goal 1 => (clear_value v_; rename' v_ => w_)); (on_goal 2 => (unfold v_; clear v_)))
       | (clear_value v_; rename' v_ => w_))
    | with_reducible apply modHub_keeps
    | with_reducible apply post_keeps
    | (with_reducible refine fst_keeps (by with_reducible assumption) ?_)
    | split

theorem execMigrationChunkDone_keeps (hm : Sub 0x10000020000 M) (h0 : Fin 4) (h : Keeps M s t) :
    KeepsR M s (execMigrationChunkDone h0 t) := by
  unfold execMigrationChunkDone
  repeat' first
    | with_reducible assumption
    | with_reducible exact Keeps.refl _
    | with_reducible exact Or.inr rfl
    | with_reducible apply chunkDone_keeps
    | with_reducible apply whenever_keeps
    | with_reducible apply next_keeps
    | with_reducible exact fault_keeps _
    | split

theorem execShortfallPeriodic_keeps (hm : Sub 0x10000020000 M) (h0 : Fin 4) (h : Keeps M s t) :
    KeepsR M s (execShortfallPeriodic h0 t) := by
  unfold execShortfallPeriodic
  repeat' first
    | with_reducible assumption
    | with_reducible exact Keeps.refl _
    | ((with_reducible refine hm.of ?_); exact rfl)
    | with_reducible exact Or.inr rfl
    | with_reducible apply modHub_keeps
    | with_reducible apply whenever_keeps
    | with_reducible apply postShort_keeps
    | with_reducible apply next_keeps
    | with_reducible exact fault_keeps _
    | split

theorem noteLocked_keeps (hm : Sub 0x400 M) (port : Bool) (off : Nat) (h : Keeps M s t) :
    Keeps M s (noteLocked t port off) := by
  unfold noteLocked
  repeat' first
    | with_reducible assumption
    | with_reducible exact Keeps.refl _
    | with_reducible exact Or.inr rfl
    | with_reducible apply modRegs_keeps

theorem judgeLock_keeps (hm : Sub 0x400 M) (port : Bool) (off : Nat) (bad : Bool) (h : Keeps M s t) :
    Keeps M s (judgeLock t port off bad) := by
  unfold judgeLock
  repeat' first
    | with_reducible assumption
    | with_reducible exact Keeps.refl _
    | with_reducible exact Or.inr rfl
    | with_reducible apply noteLocked_keeps
    | split

theorem clearLockHit_keeps (hm : Sub 0x400 M) (h : Keeps M s t) :
    Keeps M s (clearLockHit t) := by
  unfold clearLockHit
  repeat' first
    | with_reducible assumption
    | with_reducible exact Keeps.refl _
    | with_reducible exact Or.inr rfl
    | with_reducible apply modRegs_keeps

theorem setLock_keeps (hm : Sub 0x400 M) (port : Bool) (h : Keeps M s t) :
    Keeps M s (setLock t port) := by
  unfold setLock
  repeat' first
    | with_reducible assumption
    | with_reducible exact Keeps.refl _
    | with_reducible exact Or.inr rfl
    | with_reducible apply modRegs_keeps
    | with_reducible apply noteLocked_keeps
    | split

theorem putLock_keeps (hm : Sub 0x400 M) (port : Bool) (v : BitVec 64) (h : Keeps M s t) :
    Keeps M s (putLock t port v) := by
  unfold putLock
  repeat' first
    | with_reducible assumption
    | with_reducible exact Keeps.refl _
    | with_reducible exact Or.inr rfl
    | (extract_lets +onlyGivenNames v_
       have hv_ : Keeps M s v_ := ?_; (on_goal 1 => (clear_value v_; rename' v_ => w_)); (on_goal 2 => (unfold v_; clear v_)))
    | with_reducible apply clearLockHit_keeps
    | with_reducible apply setLock_keeps
    | split

theorem acceptPlace_keeps (hm : Sub 0xc00020808 M) (v : BitVec 64) (h : Keeps M s t) :
    Keeps M s (acceptPlace t v) := by
  unfold acceptPlace
  repeat' first
    | with_reducible assumption
    | with_reducible exact Keeps.refl _
    | ((with_reducible refine hm.of ?_); exact rfl)
    | ((with_reducible refine Or.inl (hm.bit ?_)); exact rfl)
    | with_reducible exact Or.inr rfl
    | (with_reducible intro _)
    | (extract_lets +onlyGivenNames v_
       first
       | (have hv_ : Keeps M s v_ := ?_; (on_goal 1 => (clear_value v_; rename' v_ => w_)); (on_goal 2 => (unfold v_; clear v_)))
       | (clear_value v_; rename' v_ => w_))
    | with_reducible apply modLink_keeps
    | with_reducible apply trainAgain_keeps
    | (with_reducible refine foldl_keeps (fun _ _ _ => ?_) ?_)
    | (with_reducible refine foldl_keeps1 (fun _ _ _ => ?_) ?_)
    | split
    | with_reducible apply mk_keeps

theorem putPlace_keeps (hm : Sub 0xc00020c08 M) (port : Bool) (v : BitVec 64) (h : Keeps M s t) :
    Keeps M s (putPlace t port v) := by
  unfold putPlace
  repeat' first
    | with_reducible assumption
    | with_reducible exact Keeps.refl _
    | ((with_reducible refine hm.of ?_); exact rfl)
    | with_reducible exact Or.inr rfl
    | with_reducible apply judgeLock_keeps
    | with_reducible apply acceptPlace_keeps
    | split

theorem putTbCfg_keeps (hm : Sub 0x300 M) (v : BitVec 64) (h : Keeps M s t) :
    Keeps M s (putTbCfg t v) := by
  unfold putTbCfg
  repeat' first
    | with_reducible assumption
    | with_reducible exact Keeps.refl _
    | ((with_reducible refine hm.of ?_); exact rfl)
    | ((with_reducible refine Or.inl (hm.bit ?_)); exact rfl)
    | with_reducible exact Or.inr rfl
    | (extract_lets +onlyGivenNames v_
       first
       | (have hv_ : Keeps M s v_ := ?_; (on_goal 1 => (clear_value v_; rename' v_ => w_)); (on_goal 2 => (unfold v_; clear v_)))
       | (clear_value v_; rename' v_ => w_))
    | with_reducible apply sourceReturns_keeps
    | with_reducible apply modTb_keeps
    | split
    | with_reducible apply mk_keeps

theorem putUpstream_keeps (hm : Sub 0x20100 M) (v : BitVec 32) (h : Keeps M s t) :
    Keeps M s (putUpstream t v) := by
  unfold putUpstream
  repeat' first
    | with_reducible assumption
    | with_reducible exact Keeps.refl _
    | ((with_reducible refine hm.of ?_); exact rfl)
    | with_reducible exact Or.inr rfl
    | (extract_lets +onlyGivenNames v_
       first
       | (have hv_ : Keeps M s v_ := ?_; (on_goal 1 => (clear_value v_; rename' v_ => w_)); (on_goal 2 => (unfold v_; clear v_)))
       | (clear_value v_; rename' v_ => w_))
    | with_reducible apply switchSource_keeps
    | with_reducible apply modTb_keeps
    | split

theorem changeSlice_keeps (hm : Sub 0x40 M) (old : BitVec 32) (new : BitVec 32) (i : Nat) (h : Keeps M s t) :
    Keeps M s (changeSlice old new t i) := by
  unfold changeSlice
  repeat' first
    | with_reducible assumption
    | with_reducible exact Keeps.refl _
    | with_reducible exact Or.inr rfl
    | with_reducible apply zeroMem_keeps
    | split

theorem putLlmMode_keeps (hm : Sub 0x440 M) (port : Bool) (v : BitVec 32) (h : Keeps M s t) :
    Keeps M s (putLlmMode t port v) := by
  unfold putLlmMode
  repeat' first
    | with_reducible assumption
    | with_reducible exact Keeps.refl _
    | ((with_reducible refine hm.of ?_); exact rfl)
    | with_reducible exact Or.inr rfl
    | (with_reducible intro _)
    | with_reducible apply changeSlice_keeps
    | with_reducible apply modRegs_keeps
    | with_reducible apply judgeLock_keeps
    | (with_reducible refine foldl_keeps (fun _ _ _ => ?_) ?_)
    | (with_reducible refine foldl_keeps1 (fun _ _ _ => ?_) ?_)
    | split

theorem putImb_keeps (hm : Sub 0x400 M) (port : Bool) (v : BitVec 32) (h : Keeps M s t) :
    Keeps M s (putImb t port v) := by
  unfold putImb
  repeat' first
    | with_reducible assumption
    | with_reducible exact Keeps.refl _
    | with_reducible exact Or.inr rfl
    | with_reducible apply modRegs_keeps
    | with_reducible apply judgeLock_keeps
    | split

theorem putCtxCfg_keeps (hm : Sub 0x8400 M) (port : Bool) (c : Nat) (v : BitVec 64) (h : Keeps M s t) :
    Keeps M s (putCtxCfg t port c v) := by
  unfold putCtxCfg
  repeat' first
    | with_reducible assumption
    | with_reducible exact Keeps.refl _
    | ((with_reducible refine hm.of ?_); exact rfl)
    | with_reducible exact Or.inr rfl
    | (extract_lets +onlyGivenNames v_
       first
       | (have hv_ : Keeps M s v_ := ?_; (on_goal 1 => (clear_value v_; rename' v_ => w_)); (on_goal 2 => (unfold v_; clear v_)))
       | (clear_value v_; rename' v_ => w_))
    | with_reducible apply modCtx_keeps
    | with_reducible apply judgeLock_keeps

theorem putSave_keeps (hm : Sub 0x8000 M) (c : Nat) (f : Ctx → Ctx) (h : Keeps M s t) :
    Keeps M s (putSave t c f) := by
  unfold putSave
  repeat' first
    | with_reducible assumption
    | with_reducible exact Keeps.refl _
    | with_reducible exact Or.inr rfl
    | with_reducible apply modCtx_keeps
    | split

theorem barBad_keeps (hm : Sub 0x400 M) (h : Keeps M s t) :
    Keeps M s (barBad t) := by
  unfold barBad
  repeat' first
    | with_reducible assumption
    | with_reducible exact Keeps.refl _
    | with_reducible exact Or.inr rfl
    | with_reducible apply modRegs_keeps

theorem putUrgent_keeps (hm : Sub 0x1c80d6840c M) (v : BitVec 64) (h : Keeps M s t) :
    Keeps M s (putUrgent t v) := by
  unfold putUrgent
  repeat' first
    | with_reducible assumption
    | with_reducible exact Keeps.refl _
    | ((with_reducible refine hm.of ?_); exact rfl)
    | with_reducible exact Or.inr rfl
    | with_reducible apply modRegs_keeps
    | with_reducible apply urgentWrite_keeps
    | split

theorem putBar2Ctl_keeps (hm : Sub 0x400 M) (port : Bool) (v : BitVec 64) (h : Keeps M s t) :
    Keeps M s (putBar2Ctl t port v) := by
  unfold putBar2Ctl
  repeat' first
    | with_reducible assumption
    | with_reducible exact Keeps.refl _
    | with_reducible exact Or.inr rfl
    | (extract_lets +onlyGivenNames v_
       have hv_ : Keeps M s v_ := ?_; (on_goal 1 => (clear_value v_; rename' v_ => w_)); (on_goal 2 => (unfold v_; clear v_)))
    | with_reducible apply modRegs_keeps
    | with_reducible apply judgeLock_keeps

theorem putTelCfg_keeps (hm : Sub 0x400 M) (v : BitVec 64) (h : Keeps M s t) :
    Keeps M s (putTelCfg t v) := by
  unfold putTelCfg
  repeat' first
    | with_reducible assumption
    | with_reducible exact Keeps.refl _
    | with_reducible exact Or.inr rfl
    | with_reducible apply modRegs_keeps

theorem putLinkCfg_keeps (hm : Sub 0x400 M) (port : Bool) (v : BitVec 64) (h : Keeps M s t) :
    Keeps M s (putLinkCfg t port v) := by
  unfold putLinkCfg
  repeat' first
    | with_reducible assumption
    | with_reducible exact Keeps.refl _
    | with_reducible exact Or.inr rfl
    | with_reducible apply modRegs_keeps
    | with_reducible apply judgeLock_keeps
    | split

theorem putSec_keeps (hm : Sub 0x4400 M) (port : Bool) (v : BitVec 64) (h : Keeps M s t) :
    Keeps M s (putSec t port v) := by
  unfold putSec
  repeat' first
    | with_reducible assumption
    | with_reducible exact Keeps.refl _
    | ((with_reducible refine hm.of ?_); exact rfl)
    | ((with_reducible refine Or.inl (hm.bit ?_)); exact rfl)
    | with_reducible exact Or.inr rfl
    | (extract_lets +onlyGivenNames v_; clear_value v_; rename' v_ => w_)
    | with_reducible apply judgeLock_keeps
    | split
    | with_reducible apply mk_keeps

theorem putCtx_keeps (hm : Sub 0x8400 M) (port : Bool) (c : Nat) (o : Nat) (v : BitVec 64) (m : BitVec 64)
    (h : Keeps M s t) :
    Keeps M s (putCtx t port c o v m) := by
  unfold putCtx
  repeat' first
    | with_reducible assumption
    | with_reducible exact Keeps.refl _
    | ((with_reducible refine hm.of ?_); exact rfl)
    | with_reducible exact Or.inr rfl
    | (extract_lets +onlyGivenNames v_; clear_value v_; rename' v_ => w_)
    | with_reducible apply modCtx_keeps
    | with_reducible apply putSave_keeps
    | with_reducible apply putCtxCfg_keeps
    | split

theorem putBase_keeps (hm : Sub 0x10000 M) (c : Fin 64) (ev : Bool) (v : BitVec 64) (m : BitVec 64)
    (h : Keeps M s t) :
    Keeps M s (putBase t c ev v m) := by
  unfold putBase
  repeat' first
    | with_reducible assumption
    | with_reducible exact Keeps.refl _
    | with_reducible exact Or.inr rfl
    | with_reducible apply modDoor_keeps

theorem put64_keeps (hm : Sub 0x1c80d7cf0c M) (port : Bool) (off : Nat) (v : BitVec 64) (m : BitVec 64)
    (h : Keeps M s t) :
    Keeps M s (put64 t port off v m) := by
  unfold put64
  repeat' first
    | with_reducible assumption
    | with_reducible exact Keeps.refl _
    | ((with_reducible refine hm.of ?_); exact rfl)
    | with_reducible exact Or.inr rfl
    | (extract_lets +onlyGivenNames v_; clear_value v_; rename' v_ => w_)
    | with_reducible apply putLock_keeps
    | with_reducible apply putTelCfg_keeps
    | with_reducible apply modRegs_keeps
    | with_reducible apply putCtx_keeps
    | with_reducible apply putPlace_keeps
    | with_reducible apply putTbCfg_keeps
    | with_reducible apply putSec_keeps
    | with_reducible apply putBase_keeps
    | with_reducible apply barBad_keeps
    | with_reducible apply putLinkCfg_keeps
    | with_reducible apply putUrgent_keeps
    | with_reducible apply putBar2Ctl_keeps
    | split

theorem putCap_keeps (hm : Sub 0x20000020210 M) (v : BitVec 11) (h : Keeps M s t) :
    Keeps M s (putCap t v) := by
  unfold putCap
  repeat' first
    | with_reducible assumption
    | with_reducible exact Keeps.refl _
    | ((with_reducible refine hm.of ?_); exact rfl)
    | with_reducible exact Or.inr rfl
    | with_reducible apply modPwr_keeps
    | with_reducible apply account_keeps
    | split

theorem putFreq_keeps (hm : Sub 0x20000020210 M) (v : BitVec 6) (h : Keeps M s t) :
    Keeps M s (putFreq t v) := by
  unfold putFreq
  repeat' first
    | with_reducible assumption
    | with_reducible exact Keeps.refl _
    | ((with_reducible refine hm.of ?_); exact rfl)
    | with_reducible exact Or.inr rfl
    | with_reducible apply modPwr_keeps
    | with_reducible apply account_keeps
    | split

theorem putExt_keeps (hm : Sub 0x20000020210 M) (v : BitVec 6) (h : Keeps M s t) :
    Keeps M s (putExt t v) := by
  unfold putExt
  repeat' first
    | with_reducible assumption
    | with_reducible exact Keeps.refl _
    | ((with_reducible refine hm.of ?_); exact rfl)
    | with_reducible exact Or.inr rfl
    | with_reducible apply modPwr_keeps
    | with_reducible apply account_keeps
    | split

theorem put32_keeps (hm : Sub 0x20000030750 M) (port : Bool) (off : Nat) (v : BitVec 32) (h : Keeps M s t) :
    Keeps M s (put32 t port off v) := by
  unfold put32
  repeat' first
    | with_reducible assumption
    | with_reducible exact Keeps.refl _
    | ((with_reducible refine hm.of ?_); exact rfl)
    | with_reducible exact Or.inr rfl
    | with_reducible apply putUpstream_keeps
    | with_reducible apply putLlmMode_keeps
    | with_reducible apply putExt_keeps
    | with_reducible apply putFreq_keeps
    | with_reducible apply modDoor_keeps
    | with_reducible apply putImb_keeps
    | with_reducible apply putCap_keeps
    | with_reducible apply doorbellBad_keeps
    | split

theorem barWrite_keeps (hm : Sub 0x21c80d7cf5c M) (port : Bool) (off : Nat) (size : Nat) (v : BitVec 64)
    (h : Keeps M s t) :
    Keeps M s (barWrite t port off size v) := by
  unfold barWrite
  repeat' first
    | with_reducible assumption
    | with_reducible exact Keeps.refl _
    | ((with_reducible refine hm.of ?_); exact rfl)
    | with_reducible exact Or.inr rfl
    | (extract_lets +onlyGivenNames v_; clear_value v_; rename' v_ => w_)
    | with_reducible apply put64_keeps
    | with_reducible apply put32_keeps
    | with_reducible apply barBad_keeps
    | split

theorem execSetupLock_keeps (hm : Sub 0x400 M) (port : Bool) (h : Keeps M s t) :
    KeepsR M s (execSetupLock port t) := by
  unfold execSetupLock
  repeat' first
    | with_reducible assumption
    | with_reducible exact Keeps.refl _
    | with_reducible exact Or.inr rfl
    | with_reducible apply putLock_keeps
    | with_reducible apply whenever_keeps

theorem execLockHitClear_keeps (hm : Sub 0x400 M) (h : Keeps M s t) :
    KeepsR M s (execLockHitClear t) := by
  unfold execLockHitClear
  repeat' first
    | with_reducible assumption
    | with_reducible exact Keeps.refl _
    | with_reducible exact Or.inr rfl
    | with_reducible apply putLock_keeps
    | with_reducible apply whenever_keeps

theorem execSysPlaceWrite_keeps (hm : Sub 0xc00020c08 M) (port : Bool) (v : BitVec 64) (h : Keeps M s t) :
    KeepsR M s (execSysPlaceWrite port v t) := by
  unfold execSysPlaceWrite
  repeat' first
    | with_reducible assumption
    | with_reducible exact Keeps.refl _
    | with_reducible exact Or.inr rfl
    | with_reducible apply whenever_keeps
    | with_reducible apply putPlace_keeps

theorem execTbCfgWrite_keeps (hm : Sub 0x300 M) (v : BitVec 64) (h : Keeps M s t) :
    KeepsR M s (execTbCfgWrite v t) := by
  unfold execTbCfgWrite
  repeat' first
    | with_reducible assumption
    | with_reducible exact Keeps.refl _
    | with_reducible exact Or.inr rfl
    | with_reducible apply whenever_keeps
    | with_reducible apply putTbCfg_keeps

theorem execTbUpstreamWrite_keeps (hm : Sub 0x20100 M) (v : BitVec 32) (h : Keeps M s t) :
    KeepsR M s (execTbUpstreamWrite v t) := by
  unfold execTbUpstreamWrite
  repeat' first
    | with_reducible assumption
    | with_reducible exact Keeps.refl _
    | with_reducible exact Or.inr rfl
    | with_reducible apply putUpstream_keeps
    | with_reducible apply whenever_keeps

theorem execLlmModeWrite_keeps (hm : Sub 0x440 M) (port : Bool) (v : BitVec 32) (h : Keeps M s t) :
    KeepsR M s (execLlmModeWrite port v t) := by
  unfold execLlmModeWrite
  repeat' first
    | with_reducible assumption
    | with_reducible exact Keeps.refl _
    | with_reducible exact Or.inr rfl
    | with_reducible apply putLlmMode_keeps
    | with_reducible apply whenever_keeps

theorem execCtxCfgWrite_keeps (hm : Sub 0x8400 M) (port : Bool) (c : Fin 64) (v : BitVec 64) (h : Keeps M s t) :
    KeepsR M s (execCtxCfgWrite port c v t) := by
  unfold execCtxCfgWrite
  repeat' first
    | with_reducible assumption
    | with_reducible exact Keeps.refl _
    | with_reducible exact Or.inr rfl
    | with_reducible apply whenever_keeps
    | with_reducible apply putCtxCfg_keeps

theorem execHiStickyClear_keeps (hm : Sub 0x4000000 M) (q : BitVec 12) (h : Keeps M s t) :
    KeepsR M s (execHiStickyClear q t) := by
  unfold execHiStickyClear
  repeat' first
    | with_reducible assumption
    | with_reducible exact Keeps.refl _
    | with_reducible exact Or.inr rfl
    | with_reducible apply whenever_keeps
    | with_reducible apply clearHi_keeps

theorem execLoStickyClear_keeps (hm : Sub 0x4000000 M) (q : BitVec 12) (h : Keeps M s t) :
    KeepsR M s (execLoStickyClear q t) := by
  unfold execLoStickyClear
  repeat' first
    | with_reducible assumption
    | with_reducible exact Keeps.refl _
    | with_reducible exact Or.inr rfl
    | with_reducible apply whenever_keeps
    | with_reducible apply clearLo_keeps

theorem execWmStickyClear_keeps (hm : Sub 0x800000 M) (r : BitVec 14) (h : Keeps M s t) :
    KeepsR M s (execWmStickyClear r t) := by
  unfold execWmStickyClear
  repeat' first
    | with_reducible assumption
    | with_reducible exact Keeps.refl _
    | with_reducible exact Or.inr rfl
    | with_reducible apply whenever_keeps
    | with_reducible apply clearWm_keeps

theorem execRegisterWrite_keeps (hm : Sub 0x21c80d7cf5c M) (port : Bool) (off : BitVec 25) (size : Nat)
    (v : BitVec 64) (h : Keeps M s t) :
    KeepsR M s (execRegisterWrite port off size v t) := by
  unfold execRegisterWrite
  repeat' first
    | with_reducible assumption
    | with_reducible exact Keeps.refl _
    | with_reducible exact Or.inr rfl
    | with_reducible apply whenever_keeps
    | with_reducible apply barWrite_keeps

theorem execPowerGood_keeps (hm : Sub 0xe0000002002 M) (autoOn : Bool) (h : Keeps M s t) :
    KeepsR M s (execPowerGood autoOn t) := by
  unfold execPowerGood
  repeat' first
    | with_reducible assumption
    | with_reducible exact Keeps.refl _
    | ((with_reducible refine hm.of ?_); exact rfl)
    | ((with_reducible refine Or.inl (hm.bit ?_)); exact rfl)
    | with_reducible exact Or.inr rfl
    | (extract_lets +onlyGivenNames v_
       have hv_ : Keeps M s v_ := ?_; (on_goal 1 => (clear_value v_; rename' v_ => w_)); (on_goal 2 => (unfold v_; clear v_)))
    | with_reducible apply modStart_keeps
    | with_reducible apply modPwr_keeps
    | with_reducible apply whenever_keeps
    | with_reducible apply modSh_keeps
    | with_reducible apply modPins_keeps
    | with_reducible apply next_keeps
    | with_reducible exact fault_keeps _
    | split
    | with_reducible apply mk_keeps

theorem execRstNHigh_keeps (hm : Sub 0x40000002000 M) (autoOn : Bool) (h : Keeps M s t) :
    KeepsR M s (execRstNHigh autoOn t) := by
  unfold execRstNHigh
  repeat' first
    | with_reducible assumption
    | with_reducible exact Keeps.refl _
    | ((with_reducible refine hm.of ?_); exact rfl)
    | with_reducible exact Or.inr rfl
    | (extract_lets +onlyGivenNames v_
       have hv_ : Keeps M s v_ := ?_; (on_goal 1 => (clear_value v_; rename' v_ => w_)); (on_goal 2 => (unfold v_; clear v_)))
    | with_reducible apply modStart_keeps
    | with_reducible apply whenever_keeps
    | with_reducible apply modPins_keeps
    | with_reducible apply next_keeps
    | with_reducible exact fault_keeps _
    | split

theorem bootRegs_keeps (hm : Sub 0x2000003dd00 M) (h : Keeps M s t) :
    Keeps M s (bootRegs t) := by
  unfold bootRegs
  repeat' first
    | with_reducible assumption
    | with_reducible exact Keeps.refl _
    | ((with_reducible refine Or.inl (hm.bit ?_)); exact rfl)
    | with_reducible exact Or.inr rfl
    | (extract_lets +onlyGivenNames v_; clear_value v_; rename' v_ => w_)
    | (with_reducible refine fst_keeps (by with_reducible assumption) ?_)
    | split
    | with_reducible apply mk_keeps

theorem execShordoBoot_keeps (hm : Sub 0xa000003fd00 M) (b : BootRead) (h : Keeps M s t) :
    KeepsR M s (execShordoBoot b t) := by
  unfold execShordoBoot
  repeat' first
    | with_reducible assumption
    | with_reducible exact Keeps.refl _
    | ((with_reducible refine hm.of ?_); exact rfl)
    | ((with_reducible refine Or.inl (hm.bit ?_)); exact rfl)
    | with_reducible exact Or.inr rfl
    | (extract_lets +onlyGivenNames v_
       first
       | (have hv_ : Keeps M s v_ := ?_; (on_goal 1 => (clear_value v_; rename' v_ => w_)); (on_goal 2 => (unfold v_; clear v_)))
       | (clear_value v_; rename' v_ => w_))
    | with_reducible apply whenever_keeps
    | with_reducible apply post_keeps
    | with_reducible apply bootRegs_keeps
    | with_reducible apply next_keeps
    | with_reducible exact fault_keeps _
    | (with_reducible refine getD_keeps ?_ (fun _ _ => ?_))
    | split
    | with_reducible apply mk_keeps

theorem execRailRamp_keeps (hm : Sub 0xfba800a6600 M) (h : Keeps M s t) :
    KeepsR M s (execRailRamp t) := by
  unfold execRailRamp
  repeat' first
    | with_reducible assumption
    | with_reducible exact Keeps.refl _
    | with_reducible exact Or.inr rfl
    | with_reducible apply whenever_keeps
    | with_reducible apply beginStage3_keeps

theorem execSysclkLost_keeps (hm : Sub 0xf77ffffa346 M) (h : Keeps M s t) :
    KeepsR M s (execSysclkLost t) := by
  unfold execSysclkLost
  repeat' first
    | with_reducible assumption
    | with_reducible exact Keeps.refl _
    | ((with_reducible refine hm.of ?_); exact rfl)
    | with_reducible exact Or.inr rfl
    | (extract_lets +onlyGivenNames v_
       have hv_ : Keeps M s v_ := ?_; (on_goal 1 => (clear_value v_; rename' v_ => w_)); (on_goal 2 => (unfold v_; clear v_)))
    | with_reducible apply toFailed_keeps
    | with_reducible apply modPins_keeps
    | with_reducible apply next_keeps
    | with_reducible exact fault_keeps _
    | split

theorem trainPort_keeps (hm : Sub 0x2000000000 M) (b : Nat) (p : Nat) (live : Bool) (h : Keeps M s t) :
    Keeps M s (trainPort t b p live) := by
  unfold trainPort
  repeat' first
    | with_reducible assumption
    | with_reducible exact Keeps.refl _
    | with_reducible exact Or.inr rfl
    | (with_reducible intro _)
    | (extract_lets +onlyGivenNames v_; clear_value v_; rename' v_ => w_)
    | with_reducible apply modHdi_keeps

theorem portFails_keeps (hm : Sub 0x80100020000 M) (b : Nat) (p : Nat) (h : Keeps M s t) :
    Keeps M s (portFails t b p) := by
  unfold portFails
  repeat' first
    | with_reducible assumption
    | with_reducible exact Keeps.refl _
    | ((with_reducible refine hm.of ?_); exact rfl)
    | with_reducible exact Or.inr rfl
    | with_reducible apply recordRetired_keeps
    | with_reducible apply post_keeps

theorem trainBundle_keeps (hm : Sub 0x86100020000 M) (bad : List (Nat × Nat))
    (wires : List (Nat × Nat × Bool × BitVec 10)) (b : Nat) (h : Keeps M s t) :
    Keeps M s (trainBundle bad wires t b) := by
  unfold trainBundle
  repeat' first
    | with_reducible assumption
    | with_reducible exact Keeps.refl _
    | ((with_reducible refine hm.of ?_); exact rfl)
    | with_reducible exact Or.inr rfl
    | (with_reducible intro _)
    | (extract_lets +onlyGivenNames v_
       first
       | (have hv_ : Keeps M s v_ := ?_; (on_goal 1 => (clear_value v_; rename' v_ => w_)); (on_goal 2 => (unfold v_; clear v_)))
       | (clear_value v_; rename' v_ => w_))
    | with_reducible apply portFails_keeps
    | with_reducible apply trainPort_keeps
    | with_reducible apply spareWires_keeps
    | with_reducible apply modFlow_keeps
    | (with_reducible refine foldl_keeps (fun _ _ _ => ?_) ?_)
    | (with_reducible refine foldl_keeps1 (fun _ _ _ => ?_) ?_)
    | (with_reducible refine fst_keeps (by with_reducible assumption) ?_)
    | split

theorem darkSite_keeps (hm : Sub 0x22000000000 M) (n : Nat) (h : Keeps M s t) :
    Keeps M s (darkSite t n) := by
  unfold darkSite
  repeat' first
    | with_reducible assumption
    | with_reducible exact Keeps.refl _
    | ((with_reducible refine hm.of ?_); exact rfl)
    | with_reducible exact Or.inr rfl
    | (with_reducible intro _)
    | (extract_lets +onlyGivenNames v_
       have hv_ : Keeps M s v_ := ?_; (on_goal 1 => (clear_value v_; rename' v_ => w_)); (on_goal 2 => (unfold v_; clear v_)))
    | with_reducible apply modPwr_keeps
    | with_reducible apply trainPort_keeps
    | (with_reducible refine foldl_keeps (fun _ _ _ => ?_) ?_)

theorem emptySite_keeps (hm : Sub 0x2a000000000 M) (n : Nat) (h : Keeps M s t) :
    Keeps M s (emptySite t n) := by
  unfold emptySite
  repeat' first
    | with_reducible assumption
    | with_reducible exact Keeps.refl _
    | ((with_reducible refine hm.of ?_); exact rfl)
    | with_reducible exact Or.inr rfl
    | with_reducible apply modSite_keeps
    | with_reducible apply darkSite_keeps

theorem siteTrained_keeps (hm : Sub 0x88100020000 M) (n : Nat) (h : Keeps M s t) :
    Keeps M s (siteTrained t n) := by
  unfold siteTrained
  repeat' first
    | with_reducible assumption
    | with_reducible exact Keeps.refl _
    | ((with_reducible refine hm.of ?_); exact rfl)
    | with_reducible exact Or.inr rfl
    | with_reducible apply modSite_keeps
    | with_reducible apply lastingFault_keeps
    | split

theorem takeBlock_keeps (hm : Sub 0xae100020000 M) (blocks : List CapBlock) (bad : List (Nat × Nat))
    (wires : List (Nat × Nat × Bool × BitVec 10)) (n : Nat) (h : Keeps M s t) :
    Keeps M s (takeBlock blocks bad wires t n) := by
  unfold takeBlock
  repeat' first
    | with_reducible assumption
    | with_reducible exact Keeps.refl _
    | ((with_reducible refine hm.of ?_); exact rfl)
    | with_reducible exact Or.inr rfl
    | (extract_lets +onlyGivenNames v_
       first
       | (have hv_ : Keeps M s v_ := ?_; (on_goal 1 => (clear_value v_; rename' v_ => w_)); (on_goal 2 => (unfold v_; clear v_)))
       | (clear_value v_; rename' v_ => w_))
    | with_reducible apply modSite_keeps
    | with_reducible apply siteTrained_keeps
    | with_reducible apply darkSite_keeps
    | with_reducible apply trainBundle_keeps
    | with_reducible apply emptySite_keeps
    | with_reducible apply post_keeps
    | (with_reducible refine fst_keeps (by with_reducible assumption) ?_)
    | split

theorem execHdiStage_keeps (hm : Sub 0xff7ffffe346 M) (hubFwOk : Bool) (blocks : List CapBlock)
    (badPorts : List (Nat × Nat)) (badWires : List (Nat × Nat × Bool × BitVec 10)) (h : Keeps M s t) :
    KeepsR M s (execHdiStage hubFwOk blocks badPorts badWires t) := by
  unfold execHdiStage
  repeat' first
    | with_reducible assumption
    | with_reducible exact Keeps.refl _
    | ((with_reducible refine hm.of ?_); exact rfl)
    | ((with_reducible refine Or.inl (hm.bit ?_)); exact rfl)
    | with_reducible exact Or.inr rfl
    | (with_reducible intro _)
    | (extract_lets +onlyGivenNames v_
       first
       | (have hv_ : Keeps M s v_ := ?_; (on_goal 1 => (clear_value v_; rename' v_ => w_)); (on_goal 2 => (unfold v_; clear v_)))
       | (clear_value v_; rename' v_ => w_))
    | with_reducible apply whenever_keeps
    | with_reducible apply modSh_keeps
    | with_reducible apply trainBundle_keeps
    | with_reducible apply toFailed_keeps
    | with_reducible apply takeBlock_keeps
    | with_reducible apply post_keeps
    | with_reducible apply enterStage_keeps
    | with_reducible apply next_keeps
    | with_reducible exact fault_keeps _
    | (with_reducible refine foldl_keeps (fun _ _ _ => ?_) ?_)
    | (with_reducible refine foldl_keeps1 (fun _ _ _ => ?_) ?_)
    | split
    | with_reducible apply mk_keeps

theorem execSpareMapStage_keeps (hm : Sub 0x90200002200 M) (h : Keeps M s t) :
    KeepsR M s (execSpareMapStage t) := by
  unfold execSpareMapStage
  repeat' first
    | with_reducible assumption
    | with_reducible exact Keeps.refl _
    | ((with_reducible refine hm.of ?_); exact rfl)
    | with_reducible exact Or.inr rfl
    | with_reducible apply whenever_keeps
    | with_reducible apply buildSpareMap_keeps
    | with_reducible apply enterStage_keeps

theorem hbmReplace_keeps (hm : Sub 0x80100020000 M) (x : BitVec 2 × BitVec 8 × BitVec 6) (h : Keeps M s t) :
    Keeps M s (hbmReplace t x) := by
  unfold hbmReplace
  repeat' first
    | with_reducible assumption
    | with_reducible exact Keeps.refl _
    | with_reducible exact Or.inr rfl
    | with_reducible apply lastingFault_keeps
    | split

theorem hbmRetry_keeps (hm : Sub 0x90100420000 M) (again : List (BitVec 2 × BitVec 8 × BitVec 6))
    (x : BitVec 2 × BitVec 8) (h : Keeps M s t) :
    Keeps M s (hbmRetry again t x) := by
  unfold hbmRetry
  repeat' first
    | with_reducible assumption
    | with_reducible exact Keeps.refl _
    | ((with_reducible refine hm.of ?_); exact rfl)
    | with_reducible exact Or.inr rfl
    | (with_reducible intro _)
    | with_reducible apply retirePc_keeps
    | with_reducible apply hbmReplace_keeps
    | with_reducible apply transientFault_keeps
    | (with_reducible refine foldl_keeps (fun _ _ _ => ?_) ?_)
    | (with_reducible refine foldl_keeps1 (fun _ _ _ => ?_) ?_)
    | split

theorem execHbmTraining_keeps (hm : Sub 0x90100422000 M) (lanes : List (BitVec 2 × BitVec 8 × BitVec 6))
    (again : List (BitVec 2 × BitVec 8 × BitVec 6)) (h : Keeps M s t) :
    KeepsR M s (execHbmTraining lanes again t) := by
  unfold execHbmTraining
  repeat' first
    | with_reducible assumption
    | with_reducible exact Keeps.refl _
    | ((with_reducible refine hm.of ?_); exact rfl)
    | with_reducible exact Or.inr rfl
    | (with_reducible intro _)
    | (extract_lets +onlyGivenNames v_
       first
       | (have hv_ : Keeps M s v_ := ?_; (on_goal 1 => (clear_value v_; rename' v_ => w_)); (on_goal 2 => (unfold v_; clear v_)))
       | (clear_value v_; rename' v_ => w_))
    | with_reducible apply hbmRetry_keeps
    | with_reducible apply whenever_keeps
    | with_reducible apply hbmReplace_keeps
    | with_reducible apply enterStage_keeps
    | with_reducible apply next_keeps
    | with_reducible exact fault_keeps _
    | (with_reducible refine foldl_keeps (fun _ _ _ => ?_) ?_)

theorem coreFails_keeps (hm : Sub 0x88100020000 M) (x : Nat × Nat × Nat) (h : Keeps M s t) :
    Keeps M s (coreFails t x) := by
  unfold coreFails
  repeat' first
    | with_reducible assumption
    | with_reducible exact Keeps.refl _
    | ((with_reducible refine hm.of ?_); exact rfl)
    | with_reducible exact Or.inr rfl
    | (extract_lets +onlyGivenNames v_
       first
       | (have hv_ : Keeps M s v_ := ?_; (on_goal 1 => (clear_value v_; rename' v_ => w_)); (on_goal 2 => (unfold v_; clear v_)))
       | (clear_value v_; rename' v_ => w_))
    | with_reducible apply modSite_keeps
    | with_reducible apply lastingFault_keeps
    | split

theorem adderFails_keeps (hm : Sub 0x80100020000 M) (x : Fin 4 × Nat × Nat) (h : Keeps M s t) :
    Keeps M s (adderFails t x) := by
  unfold adderFails
  repeat' first
    | with_reducible assumption
    | with_reducible exact Keeps.refl _
    | ((with_reducible refine hm.of ?_); exact rfl)
    | with_reducible exact Or.inr rfl
    | (extract_lets +onlyGivenNames v_; clear_value v_; rename' v_ => w_)
    | with_reducible apply recordRetired_keeps
    | with_reducible apply post_keeps
    | split

theorem startTests_keeps (hm : Sub 0x40000 M) (h : Keeps M s t) :
    Keeps M s (startTests t) := by
  unfold startTests
  repeat' first
    | with_reducible assumption
    | with_reducible exact Keeps.refl _
    | ((with_reducible refine Or.inl (hm.bit ?_)); exact rfl)
    | with_reducible exact Or.inr rfl
    | (with_reducible intro _)
    | (with_reducible refine foldl_keeps (fun _ _ _ => ?_) ?_)
    | (with_reducible refine foldl_keeps1 (fun _ _ _ => ?_) ?_)
    | split
    | with_reducible apply mk_keeps

theorem powerTests_keeps (hm : Sub 0x200 M) (h : Keeps M s t) :
    Keeps M s (powerTests t) := by
  unfold powerTests
  repeat' first
    | with_reducible assumption
    | with_reducible exact Keeps.refl _
    | ((with_reducible refine Or.inl (hm.bit ?_)); exact rfl)
    | with_reducible exact Or.inr rfl
    | (extract_lets +onlyGivenNames v_; clear_value v_; rename' v_ => w_)
    | split
    | with_reducible apply mk_keeps

theorem restTests_keeps (hm : Sub 0x200 M) (h : Keeps M s t) :
    Keeps M s (restTests t) := by
  unfold restTests
  repeat' first
    | with_reducible assumption
    | with_reducible exact Keeps.refl _
    | ((with_reducible refine Or.inl (hm.bit ?_)); exact rfl)
    | with_reducible exact Or.inr rfl
    | (with_reducible intro _)
    | (extract_lets +onlyGivenNames v_; clear_value v_; rename' v_ => w_)
    | (with_reducible refine foldl_keeps (fun _ _ _ => ?_) ?_)
    | (with_reducible refine foldl_keeps1 (fun _ _ _ => ?_) ?_)
    | split
    | with_reducible apply mk_keeps

theorem execSelfTest_keeps (hm : Sub 0x98300062200 M) (transient : List (Nat × Nat × Nat))
    (lasting : List (Nat × Nat × Nat)) (adders : List (Fin 4 × Nat × Nat)) (h : Keeps M s t) :
    KeepsR M s (execSelfTest transient lasting adders t) := by
  unfold execSelfTest
  repeat' first
    | with_reducible assumption
    | with_reducible exact Keeps.refl _
    | ((with_reducible refine hm.of ?_); exact rfl)
    | with_reducible exact Or.inr rfl
    | (with_reducible intro _)
    | (extract_lets +onlyGivenNames v_
       have hv_ : Keeps M s v_ := ?_; (on_goal 1 => (clear_value v_; rename' v_ => w_)); (on_goal 2 => (unfold v_; clear v_)))
    | with_reducible apply startTests_keeps
    | with_reducible apply whenever_keeps
    | with_reducible apply coreFails_keeps
    | with_reducible apply buildSpareMap_keeps
    | with_reducible apply transientFault_keeps
    | with_reducible apply adderFails_keeps
    | with_reducible apply powerTests_keeps
    | with_reducible apply enterStage_keeps
    | with_reducible apply next_keeps
    | with_reducible exact fault_keeps _
    | (with_reducible refine foldl_keeps (fun _ _ _ => ?_) ?_)

theorem placeAtStart_keeps (hm : Sub 0x20800 M) (h : Keeps M s t) :
    Keeps M s (placeAtStart t) := by
  unfold placeAtStart
  repeat' first
    | with_reducible assumption
    | with_reducible exact Keeps.refl _
    | ((with_reducible refine hm.of ?_); exact rfl)
    | ((with_reducible refine Or.inl (hm.bit ?_)); exact rfl)
    | with_reducible exact Or.inr rfl
    | with_reducible apply post_keeps
    | split
    | with_reducible apply mk_keeps

theorem linkWaits_keeps (hm : Sub 0x400020008 M) (l : Nat) (h : Keeps M s t) :
    Keeps M s (linkWaits t l) := by
  unfold linkWaits
  repeat' first
    | with_reducible assumption
    | with_reducible exact Keeps.refl _
    | ((with_reducible refine hm.of ?_); exact rfl)
    | with_reducible exact Or.inr rfl
    | with_reducible apply modLink_keeps
    | with_reducible apply sendLinkCtl_keeps
    | split

theorem execLinkStage_keeps (hm : Sub 0x400062a08 M) (h : Keeps M s t) :
    KeepsR M s (execLinkStage t) := by
  unfold execLinkStage
  repeat' first
    | with_reducible assumption
    | with_reducible exact Keeps.refl _
    | ((with_reducible refine hm.of ?_); exact rfl)
    | ((with_reducible refine Or.inl (hm.bit ?_)); exact rfl)
    | with_reducible exact Or.inr rfl
    | (with_reducible intro _)
    | (extract_lets +onlyGivenNames v_
       have hv_ : Keeps M s v_ := ?_; (on_goal 1 => (clear_value v_; rename' v_ => w_)); (on_goal 2 => (unfold v_; clear v_)))
    | with_reducible apply whenever_keeps
    | with_reducible apply linkWaits_keeps
    | with_reducible apply placeAtStart_keeps
    | with_reducible apply wakeLink_keeps
    | with_reducible apply restTests_keeps
    | with_reducible apply enterStage_keeps
    | with_reducible apply next_keeps
    | with_reducible exact fault_keeps _
    | (with_reducible refine foldl_keeps (fun _ _ _ => ?_) ?_)
    | (with_reducible refine foldl_keeps1 (fun _ _ _ => ?_) ?_)
    | split
    | with_reducible apply mk_keeps

theorem execTimebaseStage_keeps (hm : Sub 0x2000 M) (h : Keeps M s t) :
    KeepsR M s (execTimebaseStage t) := by
  unfold execTimebaseStage
  repeat' first
    | with_reducible assumption
    | with_reducible exact Keeps.refl _
    | with_reducible exact Or.inr rfl
    | with_reducible apply whenever_keeps
    | with_reducible apply enterStage_keeps

theorem reachReady_keeps (hm : Sub 0xa0000023216 M) (h : Keeps M s t) :
    Keeps M s (reachReady t) := by
  unfold reachReady
  repeat' first
    | with_reducible assumption
    | with_reducible exact Keeps.refl _
    | ((with_reducible refine hm.of ?_); exact rfl)
    | ((with_reducible refine Or.inl (hm.bit ?_)); exact rfl)
    | with_reducible exact Or.inr rfl
    | (extract_lets +onlyGivenNames v_
       have hv_ : Keeps M s v_ := ?_; (on_goal 1 => (clear_value v_; rename' v_ => w_)); (on_goal 2 => (unfold v_; clear v_)))
    | with_reducible apply modStart_keeps
    | with_reducible apply modSh_keeps
    | with_reducible apply account_keeps
    | split
    | with_reducible apply mk_keeps

theorem execHostStage_keeps (hm : Sub 0xa0000023216 M) (h : Keeps M s t) :
    KeepsR M s (execHostStage t) := by
  unfold execHostStage
  repeat' first
    | with_reducible assumption
    | with_reducible exact Keeps.refl _
    | with_reducible exact Or.inr rfl
    | with_reducible apply reachReady_keeps
    | with_reducible apply whenever_keeps

theorem writeRepair_keeps (hm : Sub 0x80000020000 M) (e : BitVec 128) (h : Keeps M s t) :
    Keeps M s (writeRepair t e) := by
  unfold writeRepair
  repeat' first
    | with_reducible assumption
    | with_reducible exact Keeps.refl _
    | ((with_reducible refine hm.of ?_); exact rfl)
    | with_reducible exact Or.inr rfl
    | (extract_lets +onlyGivenNames v_
       first
       | (have hv_ : Keeps M s v_ := ?_; (on_goal 1 => (clear_value v_; rename' v_ => w_)); (on_goal 2 => (unfold v_; clear v_)))
       | (clear_value v_; rename' v_ => w_))
    | with_reducible apply modSh_keeps
    | with_reducible apply post_keeps
    | split

theorem execRepairRecordWrite_keeps (hm : Sub 0x80000020000 M) (h : Keeps M s t) :
    KeepsR M s (execRepairRecordWrite t) := by
  unfold execRepairRecordWrite
  repeat' first
    | with_reducible assumption
    | with_reducible exact Keeps.refl _
    | with_reducible exact Or.inr rfl
    | with_reducible apply writeRepair_keeps
    | with_reducible apply whenever_keeps
    | with_reducible apply next_keeps
    | with_reducible exact fault_keeps _
    | split

theorem execSmbusFallback_keeps (hm : Sub 0x80000000000 M) (h : Keeps M s t) :
    KeepsR M s (execSmbusFallback t) := by
  unfold execSmbusFallback
  repeat' first
    | with_reducible assumption
    | with_reducible exact Keeps.refl _
    | with_reducible exact Or.inr rfl
    | with_reducible apply whenever_keeps
    | with_reducible apply modSh_keeps

theorem inputLost_keeps (hm : Sub 0xffffffffffe M) (code : BitVec 16) (h : Keeps M s t) :
    Keeps M s (inputLost t code) := by
  unfold inputLost
  repeat' first
    | with_reducible assumption
    | with_reducible exact Keeps.refl _
    | ((with_reducible refine hm.of ?_); exact rfl)
    | with_reducible exact Or.inr rfl
    | (with_reducible intro _)
    | with_reducible apply toOff_keeps
    | with_reducible apply sendRecord_keeps
    | (with_reducible refine foldl_keeps (fun _ _ _ => ?_) ?_)

theorem execInputUndervolt_keeps (hm : Sub 0xffffffffffe M) (h : Keeps M s t) :
    KeepsR M s (execInputUndervolt t) := by
  unfold execInputUndervolt
  repeat' first
    | with_reducible assumption
    | with_reducible exact Keeps.refl _
    | with_reducible exact Or.inr rfl
    | with_reducible apply whenever_keeps
    | with_reducible apply inputLost_keeps

theorem execInputOvervolt_keeps (hm : Sub 0xffffffffffe M) (h : Keeps M s t) :
    KeepsR M s (execInputOvervolt t) := by
  unfold execInputOvervolt
  repeat' first
    | with_reducible assumption
    | with_reducible exact Keeps.refl _
    | with_reducible exact Or.inr rfl
    | with_reducible apply whenever_keeps
    | with_reducible apply inputLost_keeps

theorem execPwrgdLow_keeps (hm : Sub 0xffffffffffe M) (h : Keeps M s t) :
    KeepsR M s (execPwrgdLow t) := by
  unfold execPwrgdLow
  repeat' first
    | with_reducible assumption
    | with_reducible exact Keeps.refl _
    | ((with_reducible refine hm.of ?_); exact rfl)
    | with_reducible exact Or.inr rfl
    | (extract_lets +onlyGivenNames v_
       have hv_ : Keeps M s v_ := ?_; (on_goal 1 => (clear_value v_; rename' v_ => w_)); (on_goal 2 => (unfold v_; clear v_)))
    | with_reducible apply whenever_keeps
    | with_reducible apply modPins_keeps
    | with_reducible apply inputLost_keeps
    | with_reducible apply next_keeps
    | with_reducible exact fault_keeps _
    | split

theorem execBladeOvercurrent_keeps (hm : Sub 0xf77ffffa346 M) (h : Keeps M s t) :
    KeepsR M s (execBladeOvercurrent t) := by
  unfold execBladeOvercurrent
  repeat' first
    | with_reducible assumption
    | with_reducible exact Keeps.refl _
    | ((with_reducible refine hm.of ?_); exact rfl)
    | with_reducible exact Or.inr rfl
    | with_reducible apply whenever_keeps
    | with_reducible apply post_keeps
    | with_reducible apply toStandby_keeps

theorem execBladeLost_keeps (hm : Sub 0x20000020000 M) (blade : Bool) (h : Keeps M s t) :
    KeepsR M s (execBladeLost blade t) := by
  unfold execBladeLost
  repeat' first
    | with_reducible assumption
    | with_reducible exact Keeps.refl _
    | ((with_reducible refine hm.of ?_); exact rfl)
    | with_reducible exact Or.inr rfl
    | with_reducible apply modPwr_keeps
    | with_reducible apply whenever_keeps
    | with_reducible apply post_keeps

theorem execRstNLow_keeps (hm : Sub 0xf77ffffa346 M) (h : Keeps M s t) :
    KeepsR M s (execRstNLow t) := by
  unfold execRstNLow
  repeat' first
    | with_reducible assumption
    | with_reducible exact Keeps.refl _
    | ((with_reducible refine hm.of ?_); exact rfl)
    | with_reducible exact Or.inr rfl
    | (extract_lets +onlyGivenNames v_
       have hv_ : Keeps M s v_ := ?_; (on_goal 1 => (clear_value v_; rename' v_ => w_)); (on_goal 2 => (unfold v_; clear v_)))
    | with_reducible apply modStart_keeps
    | with_reducible apply whenever_keeps
    | with_reducible apply modPins_keeps
    | with_reducible apply quiesceSched_keeps
    | with_reducible apply toStandby_keeps
    | with_reducible apply next_keeps
    | with_reducible exact fault_keeps _
    | split

theorem execCapPeriod_keeps (hm : Sub 0x20000020210 M) (pIn : Nat) (vIn : Nat) (h : Keeps M s t) :
    KeepsR M s (execCapPeriod pIn vIn t) := by
  unfold execCapPeriod
  repeat' first
    | with_reducible assumption
    | with_reducible exact Keeps.refl _
    | ((with_reducible refine hm.of ?_); exact rfl)
    | ((with_reducible refine Or.inl (hm.bit ?_)); exact rfl)
    | with_reducible exact Or.inr rfl
    | (extract_lets +onlyGivenNames v_; clear_value v_; rename' v_ => w_)
    | with_reducible apply modPwr_keeps
    | with_reducible apply whenever_keeps
    | with_reducible apply account_keeps
    | with_reducible apply next_keeps
    | with_reducible exact fault_keeps _
    | split
    | with_reducible apply mk_keeps

theorem execCurrentPeriod_keeps (hm : Sub 0x20000020210 M) (i0 : Nat) (i1 : Nat) (h : Keeps M s t) :
    KeepsR M s (execCurrentPeriod i0 i1 t) := by
  unfold execCurrentPeriod
  repeat' first
    | with_reducible assumption
    | with_reducible exact Keeps.refl _
    | ((with_reducible refine hm.of ?_); exact rfl)
    | with_reducible exact Or.inr rfl
    | with_reducible apply modPwr_keeps
    | with_reducible apply whenever_keeps
    | with_reducible apply account_keeps

theorem execDvfsPeriod_keeps (hm : Sub 0x20000020210 M) (h : Keeps M s t) :
    KeepsR M s (execDvfsPeriod t) := by
  unfold execDvfsPeriod
  repeat' first
    | with_reducible assumption
    | with_reducible exact Keeps.refl _
    | ((with_reducible refine hm.of ?_); exact rfl)
    | ((with_reducible refine Or.inl (hm.bit ?_)); exact rfl)
    | with_reducible exact Or.inr rfl
    | (extract_lets +onlyGivenNames v_
       first
       | (have hv_ : Keeps M s v_ := ?_; (on_goal 1 => (clear_value v_; rename' v_ => w_)); (on_goal 2 => (unfold v_; clear v_)))
       | (clear_value v_; rename' v_ => w_))
    | with_reducible apply modPwr_keeps
    | with_reducible apply whenever_keeps
    | with_reducible apply post_keeps
    | with_reducible apply account_keeps
    | with_reducible apply next_keeps
    | with_reducible exact fault_keeps _
    | (with_reducible refine fst_keeps (by with_reducible assumption) ?_)
    | split
    | with_reducible apply mk_keeps

theorem execVclSlewComplete_keeps (hm : Sub 0x20000020210 M) (die : BitVec 5) (cl : BitVec 8) (h : Keeps M s t) :
    KeepsR M s (execVclSlewComplete die cl t) := by
  unfold execVclSlewComplete
  repeat' first
    | with_reducible assumption
    | with_reducible exact Keeps.refl _
    | ((with_reducible refine hm.of ?_); exact rfl)
    | with_reducible exact Or.inr rfl
    | (extract_lets +onlyGivenNames v_; clear_value v_; rename' v_ => w_)
    | with_reducible apply whenever_keeps
    | with_reducible apply setFreq_keeps
    | with_reducible apply account_keeps

theorem execDroop_keeps (hm : Sub 0x20000020210 M) (die : BitVec 5) (cl : BitVec 8) (h : Keeps M s t) :
    KeepsR M s (execDroop die cl t) := by
  unfold execDroop
  repeat' first
    | with_reducible assumption
    | with_reducible exact Keeps.refl _
    | ((with_reducible refine hm.of ?_); exact rfl)
    | with_reducible exact Or.inr rfl
    | (extract_lets +onlyGivenNames v_; clear_value v_; rename' v_ => w_)
    | with_reducible apply modPwr_keeps
    | with_reducible apply whenever_keeps
    | with_reducible apply setCtr_keeps
    | with_reducible apply account_keeps

theorem execDroopRecovery_keeps (hm : Sub 0xa0000020210 M) (die : BitVec 5) (cl : BitVec 8) (h : Keeps M s t) :
    KeepsR M s (execDroopRecovery die cl t) := by
  unfold execDroopRecovery
  repeat' first
    | with_reducible assumption
    | with_reducible exact Keeps.refl _
    | ((with_reducible refine hm.of ?_); exact rfl)
    | with_reducible exact Or.inr rfl
    | (extract_lets +onlyGivenNames v_
       first
       | (have hv_ : Keeps M s v_ := ?_; (on_goal 1 => (clear_value v_; rename' v_ => w_)); (on_goal 2 => (unfold v_; clear v_)))
       | (clear_value v_; rename' v_ => w_))
    | with_reducible apply modPwr_keeps
    | with_reducible apply whenever_keeps
    | with_reducible apply modSh_keeps
    | with_reducible apply setCtr_keeps
    | with_reducible apply account_keeps
    | with_reducible apply next_keeps
    | with_reducible exact fault_keeps _
    | split

theorem execSensorRead_keeps (hm : Sub 0xa0100020210 M) (sn : Sensor) (t0 : Nat) (h : Keeps M s t) :
    KeepsR M s (execSensorRead sn t0 t) := by
  unfold execSensorRead
  repeat' first
    | with_reducible assumption
    | with_reducible exact Keeps.refl _
    | ((with_reducible refine hm.of ?_); exact rfl)
    | with_reducible exact Or.inr rfl
    | (with_reducible intro _)
    | (extract_lets +onlyGivenNames v_
       first
       | (have hv_ : Keeps M s v_ := ?_; (on_goal 1 => (clear_value v_; rename' v_ => w_)); (on_goal 2 => (unfold v_; clear v_)))
       | (clear_value v_; rename' v_ => w_))
    | with_reducible apply modPwr_keeps
    | with_reducible apply whenever_keeps
    | with_reducible apply warmWarn_keeps
    | with_reducible apply account_keeps

theorem execLevel1Step_keeps (hm : Sub 0x20000020210 M) (sn : Sensor) (h : Keeps M s t) :
    KeepsR M s (execLevel1Step sn t) := by
  unfold execLevel1Step
  repeat' first
    | with_reducible assumption
    | with_reducible exact Keeps.refl _
    | ((with_reducible refine hm.of ?_); exact rfl)
    | with_reducible exact Or.inr rfl
    | (extract_lets +onlyGivenNames v_; clear_value v_; rename' v_ => w_)
    | with_reducible apply modPwr_keeps
    | with_reducible apply whenever_keeps
    | with_reducible apply account_keeps

theorem execHbmTempReport_keeps (hm : Sub 0xb0100020210 M) (st : Fin 16) (t0 : Nat) (h : Keeps M s t) :
    KeepsR M s (execHbmTempReport st t0 t) := by
  unfold execHbmTempReport
  repeat' first
    | with_reducible assumption
    | with_reducible exact Keeps.refl _
    | ((with_reducible refine hm.of ?_); exact rfl)
    | with_reducible exact Or.inr rfl
    | (with_reducible intro _)
    | (extract_lets +onlyGivenNames v_
       first
       | (have hv_ : Keeps M s v_ := ?_; (on_goal 1 => (clear_value v_; rename' v_ => w_)); (on_goal 2 => (unfold v_; clear v_)))
       | (clear_value v_; rename' v_ => w_))
    | with_reducible apply modHub_keeps
    | with_reducible apply modPwr_keeps
    | with_reducible apply whenever_keeps
    | with_reducible apply warmWarn_keeps
    | with_reducible apply setRates_keeps
    | with_reducible apply post_keeps
    | with_reducible apply account_keeps
    | with_reducible apply next_keeps
    | with_reducible exact fault_keeps _
    | (with_reducible refine foldl_keeps (fun _ _ _ => ?_) ?_)
    | (with_reducible refine foldl_keeps1 (fun _ _ _ => ?_) ?_)
    | (with_reducible refine fst_keeps (by with_reducible assumption) ?_)
    | split

theorem execCriticalTemperature_keeps (hm : Sub 0xf77ffffa74e M) (hbm : Bool) (h : Keeps M s t) :
    KeepsR M s (execCriticalTemperature hbm t) := by
  unfold execCriticalTemperature
  repeat' first
    | with_reducible assumption
    | with_reducible exact Keeps.refl _
    | with_reducible exact Or.inr rfl
    | with_reducible apply whenever_keeps
    | with_reducible apply beginHalt_keeps

theorem execFlowOkDeassert_keeps (hm : Sub 0x60000020210 M) (h : Keeps M s t) :
    KeepsR M s (execFlowOkDeassert t) := by
  unfold execFlowOkDeassert
  repeat' first
    | with_reducible assumption
    | with_reducible exact Keeps.refl _
    | ((with_reducible refine hm.of ?_); exact rfl)
    | with_reducible exact Or.inr rfl
    | (extract_lets +onlyGivenNames v_
       have hv_ : Keeps M s v_ := ?_; (on_goal 1 => (clear_value v_; rename' v_ => w_)); (on_goal 2 => (unfold v_; clear v_)))
    | with_reducible apply modPwr_keeps
    | with_reducible apply whenever_keeps
    | with_reducible apply modPins_keeps
    | with_reducible apply post_keeps
    | with_reducible apply account_keeps
    | with_reducible apply next_keeps
    | with_reducible exact fault_keeps _
    | split

theorem execFlowOkAssert_keeps (hm : Sub 0x60000020210 M) (h : Keeps M s t) :
    KeepsR M s (execFlowOkAssert t) := by
  unfold execFlowOkAssert
  repeat' first
    | with_reducible assumption
    | with_reducible exact Keeps.refl _
    | ((with_reducible refine hm.of ?_); exact rfl)
    | with_reducible exact Or.inr rfl
    | with_reducible apply modPwr_keeps
    | with_reducible apply whenever_keeps
    | with_reducible apply modPins_keeps
    | with_reducible apply account_keeps

theorem execCoolantClear_keeps (hm : Sub 0x20000020210 M) (h : Keeps M s t) :
    KeepsR M s (execCoolantClear t) := by
  unfold execCoolantClear
  repeat' first
    | with_reducible assumption
    | with_reducible exact Keeps.refl _
    | ((with_reducible refine hm.of ?_); exact rfl)
    | with_reducible exact Or.inr rfl
    | with_reducible apply whenever_keeps
    | with_reducible apply endEpisode_keeps
    | with_reducible apply account_keeps
    | with_reducible apply next_keeps
    | with_reducible exact fault_keeps _
    | split

theorem execFlowLossTimeout_keeps (hm : Sub 0xf77ffffa74e M) (h : Keeps M s t) :
    KeepsR M s (execFlowLossTimeout t) := by
  unfold execFlowLossTimeout
  repeat' first
    | with_reducible assumption
    | with_reducible exact Keeps.refl _
    | with_reducible exact Or.inr rfl
    | with_reducible apply whenever_keeps
    | with_reducible apply beginHalt_keeps

theorem execThermalTrip_keeps (hm : Sub 0xf77ffffa74e M) (asserted : Bool) (h : Keeps M s t) :
    KeepsR M s (execThermalTrip asserted t) := by
  unfold execThermalTrip
  repeat' first
    | with_reducible assumption
    | with_reducible exact Keeps.refl _
    | ((with_reducible refine hm.of ?_); exact rfl)
    | with_reducible exact Or.inr rfl
    | (extract_lets +onlyGivenNames v_
       have hv_ : Keeps M s v_ := ?_; (on_goal 1 => (clear_value v_; rename' v_ => w_)); (on_goal 2 => (unfold v_; clear v_)))
    | with_reducible apply modPwr_keeps
    | with_reducible apply whenever_keeps
    | with_reducible apply modPins_keeps
    | with_reducible apply beginHalt_keeps
    | with_reducible apply next_keeps
    | with_reducible exact fault_keeps _
    | split

theorem execHaltComplete_keeps (hm : Sub 0x377fffea24e M) (h : Keeps M s t) :
    KeepsR M s (execHaltComplete t) := by
  unfold execHaltComplete
  repeat' first
    | with_reducible assumption
    | with_reducible exact Keeps.refl _
    | with_reducible exact Or.inr rfl
    | with_reducible apply halted_keeps
    | with_reducible apply next_keeps
    | with_reducible exact fault_keeps _
    | split

theorem execThrottleOngoing_keeps (hm : Sub 0x20000020000 M) (r : Fin 7) (h : Keeps M s t) :
    KeepsR M s (execThrottleOngoing r t) := by
  unfold execThrottleOngoing
  repeat' first
    | with_reducible assumption
    | with_reducible exact Keeps.refl _
    | ((with_reducible refine hm.of ?_); exact rfl)
    | with_reducible exact Or.inr rfl
    | with_reducible apply modPwr_keeps
    | with_reducible apply whenever_keeps
    | with_reducible apply postThrottle_keeps
    | with_reducible apply next_keeps
    | with_reducible exact fault_keeps _
    | split

theorem rampTile_keeps (hm : Sub 0x20000000000 M) (tile : Nat) (on : RailSt) (h : Keeps M s t) :
    Keeps M s (rampTile t tile on) := by
  unfold rampTile
  repeat' first
    | with_reducible assumption
    | with_reducible exact Keeps.refl _
    | with_reducible exact Or.inr rfl
    | (with_reducible intro _)
    | with_reducible apply modPwr_keeps

theorem retireRail_keeps (hm : Sub 0xff7ffffa346 M) (tile : Nat) (r : Rail) (h : Keeps M s t) :
    Keeps M s (retireRail t tile r) := by
  unfold retireRail
  repeat' first
    | with_reducible assumption
    | with_reducible exact Keeps.refl _
    | ((with_reducible refine hm.of ?_); exact rfl)
    | with_reducible exact Or.inr rfl
    | (extract_lets +onlyGivenNames v_
       have hv_ : Keeps M s v_ := ?_; (on_goal 1 => (clear_value v_; rename' v_ => w_)); (on_goal 2 => (unfold v_; clear v_)))
    | with_reducible apply modPwr_keeps
    | with_reducible apply modSite_keeps
    | with_reducible apply toFailed_keeps
    | with_reducible apply retireSite_keeps
    | with_reducible apply recordRetired_keeps
    | with_reducible apply post_keeps
    | split

theorem execSoftStartOvercurrent_keeps (hm : Sub 0x20000000000 M) (tile : Fin 40) (rail : Rail) (h : Keeps M s t) :
    KeepsR M s (execSoftStartOvercurrent tile rail t) := by
  unfold execSoftStartOvercurrent
  repeat' first
    | with_reducible assumption
    | with_reducible exact Keeps.refl _
    | with_reducible exact Or.inr rfl
    | with_reducible apply modPwr_keeps
    | with_reducible apply whenever_keeps
    | with_reducible apply rampTile_keeps

theorem faultCluster_keeps (hm : Sub 0x460000 M) (d : Nat) (cl : Nat) (h : Keeps M s t) :
    Keeps M s (faultCluster t d cl) := by
  unfold faultCluster
  repeat' first
    | with_reducible assumption
    | with_reducible exact Keeps.refl _
    | with_reducible exact Or.inr rfl
    | (with_reducible intro _)
    | with_reducible apply coreFault_keeps
    | (with_reducible refine foldl_keeps (fun _ _ _ => ?_) ?_)
    | (with_reducible refine foldl_keeps1 (fun _ _ _ => ?_) ?_)
    | split

theorem execPhaseOvercurrent_keeps (hm : Sub 0xff7ffffa346 M) (tile : Fin 40) (rail : Rail) (h : Keeps M s t) :
    KeepsR M s (execPhaseOvercurrent tile rail t) := by
  unfold execPhaseOvercurrent
  repeat' first
    | with_reducible assumption
    | with_reducible exact Keeps.refl _
    | ((with_reducible refine hm.of ?_); exact rfl)
    | with_reducible exact Or.inr rfl
    | (extract_lets +onlyGivenNames v_
       have hv_ : Keeps M s v_ := ?_; (on_goal 1 => (clear_value v_; rename' v_ => w_)); (on_goal 2 => (unfold v_; clear v_)))
    | with_reducible apply modPwr_keeps
    | with_reducible apply whenever_keeps
    | with_reducible apply retireRail_keeps
    | with_reducible apply faultCluster_keeps
    | with_reducible apply next_keeps
    | with_reducible exact fault_keeps _
    | split

theorem retireVcl_keeps (hm : Sub 0xa81004e0240 M) (tile : Nat) (c : BitVec 8) (h : Keeps M s t) :
    Keeps M s (retireVcl t tile c) := by
  unfold retireVcl
  repeat' first
    | with_reducible assumption
    | with_reducible exact Keeps.refl _
    | ((with_reducible refine hm.of ?_); exact rfl)
    | with_reducible exact Or.inr rfl
    | (extract_lets +onlyGivenNames v_
       have hv_ : Keeps M s v_ := ?_; (on_goal 1 => (clear_value v_; rename' v_ => w_)); (on_goal 2 => (unfold v_; clear v_)))
    | with_reducible apply modPwr_keeps
    | with_reducible apply retireCluster_keeps
    | with_reducible apply lastingFault_keeps
    | split

theorem execRailRetry_keeps (hm : Sub 0xff7ffffa346 M) (tile : Fin 40) (rail : Rail) (ok : Bool) (h : Keeps M s t) :
    KeepsR M s (execRailRetry tile rail ok t) := by
  unfold execRailRetry
  repeat' first
    | with_reducible assumption
    | with_reducible exact Keeps.refl _
    | ((with_reducible refine hm.of ?_); exact rfl)
    | with_reducible exact Or.inr rfl
    | (extract_lets +onlyGivenNames v_
       first
       | (have hv_ : Keeps M s v_ := ?_; (on_goal 1 => (clear_value v_; rename' v_ => w_)); (on_goal 2 => (unfold v_; clear v_)))
       | (clear_value v_; rename' v_ => w_))
    | with_reducible apply retireVcl_keeps
    | with_reducible apply modPwr_keeps
    | with_reducible apply whenever_keeps
    | with_reducible apply retireRail_keeps
    | with_reducible apply rampTile_keeps
    | with_reducible apply transientFault_keeps
    | with_reducible apply next_keeps
    | with_reducible exact fault_keeps _
    | split

theorem execClusterClockLoss_keeps (hm : Sub 0x881004e0240 M) (die : BitVec 5) (cl : BitVec 8) (relocked : Bool)
    (h : Keeps M s t) :
    KeepsR M s (execClusterClockLoss die cl relocked t) := by
  unfold execClusterClockLoss
  repeat' first
    | with_reducible assumption
    | with_reducible exact Keeps.refl _
    | ((with_reducible refine hm.of ?_); exact rfl)
    | with_reducible exact Or.inr rfl
    | (extract_lets +onlyGivenNames v_; clear_value v_; rename' v_ => w_)
    | with_reducible apply whenever_keeps
    | with_reducible apply retireCluster_keeps
    | with_reducible apply transientFault_keeps
    | with_reducible apply next_keeps
    | with_reducible exact fault_keeps _
    | split

theorem mgmt_keeps (hm : Sub 0x8 M) {t1 : State} (code : Nat) (why : Option Err) (value : Nat) (h : Keeps M s t)
    (h_1 : Keeps M s t1) :
    KeepsR M s (mgmt t code why value t1) := by
  unfold mgmt
  repeat' first
    | with_reducible assumption
    | with_reducible exact Keeps.refl _
    | with_reducible exact Or.inr rfl
    | with_reducible apply send_keeps
    | with_reducible apply whenever_keeps
    | with_reducible apply next_keeps
    | with_reducible exact fault_keeps _
    | split

theorem execPlaceRead_keeps (hm : Sub 0x8 M) (h : Keeps M s t) :
    KeepsR M s (execPlaceRead t) := by
  unfold execPlaceRead
  repeat' first
    | with_reducible assumption
    | with_reducible exact Keeps.refl _
    | with_reducible exact Or.inr rfl
    | with_reducible apply mgmt_keeps

theorem execPlaceWrite_keeps (hm : Sub 0x80000000008 M) (place : BitVec 36) (h : Keeps M s t) :
    KeepsR M s (execPlaceWrite place t) := by
  unfold execPlaceWrite
  repeat' first
    | with_reducible assumption
    | with_reducible exact Keeps.refl _
    | ((with_reducible refine hm.of ?_); exact rfl)
    | with_reducible exact Or.inr rfl
    | with_reducible apply modSh_keeps
    | with_reducible apply mgmt_keeps

theorem execRepairRead_keeps (hm : Sub 0x8 M) (i : Nat) (h : Keeps M s t) :
    KeepsR M s (execRepairRead i t) := by
  unfold execRepairRead
  repeat' first
    | with_reducible assumption
    | with_reducible exact Keeps.refl _
    | with_reducible exact Or.inr rfl
    | with_reducible apply mgmt_keeps
    | with_reducible apply next_keeps
    | with_reducible exact fault_keeps _
    | split

theorem execRepairClear_keeps (hm : Sub 0x80000000008 M) (i : Nat) (h : Keeps M s t) :
    KeepsR M s (execRepairClear i t) := by
  unfold execRepairClear
  repeat' first
    | with_reducible assumption
    | with_reducible exact Keeps.refl _
    | ((with_reducible refine hm.of ?_); exact rfl)
    | with_reducible exact Or.inr rfl
    | with_reducible apply modSh_keeps
    | with_reducible apply mgmt_keeps
    | with_reducible apply next_keeps
    | with_reducible exact fault_keeps _
    | split

theorem execExtLimit_keeps (hm : Sub 0x20000020218 M) (v : BitVec 8) (h : Keeps M s t) :
    KeepsR M s (execExtLimit v t) := by
  unfold execExtLimit
  repeat' first
    | with_reducible assumption
    | with_reducible exact Keeps.refl _
    | ((with_reducible refine hm.of ?_); exact rfl)
    | with_reducible exact Or.inr rfl
    | with_reducible apply putExt_keeps
    | with_reducible apply mgmt_keeps

theorem execKeystoreWrite_keeps (hm : Sub 0x80000000008 M) (key : Nat) (revoked : Bool) (sig : Nat)
    (h : Keeps M s t) :
    KeepsR M s (execKeystoreWrite key revoked sig t) := by
  unfold execKeystoreWrite
  repeat' first
    | with_reducible assumption
    | with_reducible exact Keeps.refl _
    | ((with_reducible refine hm.of ?_); exact rfl)
    | with_reducible exact Or.inr rfl
    | with_reducible apply modSh_keeps
    | with_reducible apply mgmt_keeps

theorem goReady_keeps (hm : Sub 0xfba800a6600 M) (h : Keeps M s t) :
    Keeps M s (goReady t) := by
  unfold goReady
  repeat' first
    | with_reducible assumption
    | with_reducible exact Keeps.refl _
    | ((with_reducible refine hm.of ?_); exact rfl)
    | with_reducible exact Or.inr rfl
    | with_reducible apply modStart_keeps
    | with_reducible apply beginStage3_keeps
    | with_reducible apply beginReturn_keeps
    | split

theorem execStateReady_keeps (hm : Sub 0xfba800a6608 M) (h : Keeps M s t) :
    KeepsR M s (execStateReady t) := by
  unfold execStateReady
  repeat' first
    | with_reducible assumption
    | with_reducible exact Keeps.refl _
    | ((with_reducible refine hm.of ?_); exact rfl)
    | with_reducible exact Or.inr rfl
    | (extract_lets +onlyGivenNames v_
       have hv_ : Keeps M s v_ := ?_; (on_goal 1 => (clear_value v_; rename' v_ => w_)); (on_goal 2 => (unfold v_; clear v_)))
    | with_reducible apply goReady_keeps
    | with_reducible apply mgmt_keeps

theorem execStateStandby_keeps (hm : Sub 0xf77ffffa34e M) (h : Keeps M s t) :
    KeepsR M s (execStateStandby t) := by
  unfold execStateStandby
  repeat' first
    | with_reducible assumption
    | with_reducible exact Keeps.refl _
    | ((with_reducible refine hm.of ?_); exact rfl)
    | with_reducible exact Or.inr rfl
    | with_reducible apply modStart_keeps
    | with_reducible apply mgmt_keeps
    | with_reducible apply quiesceSched_keeps
    | with_reducible apply toStandby_keeps

theorem execDebugUnlock_keeps (hm : Sub 0x80000000018 M) (h : Keeps M s t) :
    KeepsR M s (execDebugUnlock t) := by
  unfold execDebugUnlock
  repeat' first
    | with_reducible assumption
    | with_reducible exact Keeps.refl _
    | ((with_reducible refine hm.of ?_); exact rfl)
    | ((with_reducible refine Or.inl (hm.bit ?_)); exact rfl)
    | with_reducible exact Or.inr rfl
    | (extract_lets +onlyGivenNames v_; clear_value v_; rename' v_ => w_)
    | with_reducible apply modSh_keeps
    | with_reducible apply mgmt_keeps
    | with_reducible apply next_keeps
    | with_reducible exact fault_keeps _
    | split
    | with_reducible apply mk_keeps

theorem execDebugUnlockResponse_keeps (hm : Sub 0x80000004008 M) (slot : BitVec 2) (sig : Nat) (h : Keeps M s t) :
    KeepsR M s (execDebugUnlockResponse slot sig t) := by
  unfold execDebugUnlockResponse
  repeat' first
    | with_reducible assumption
    | with_reducible exact Keeps.refl _
    | ((with_reducible refine hm.of ?_); exact rfl)
    | ((with_reducible refine Or.inl (hm.bit ?_)); exact rfl)
    | with_reducible exact Or.inr rfl
    | (extract_lets +onlyGivenNames v_; clear_value v_; rename' v_ => w_)
    | with_reducible apply mgmt_keeps
    | with_reducible apply next_keeps
    | with_reducible exact fault_keeps _
    | (with_reducible refine getD_keeps ?_ (fun _ _ => ?_))
    | (with_reducible refine fst_keeps (by with_reducible assumption) ?_)
    | split
    | with_reducible apply mk_keeps

theorem spdmSet_keeps (hm : Sub 0x80000000000 M) (t0 : Transport) (n : SpdmStage) (h : Keeps M s t) :
    Keeps M s (spdmSet t t0 n) := by
  unfold spdmSet
  repeat' first
    | with_reducible assumption
    | with_reducible exact Keeps.refl _
    | with_reducible exact Or.inr rfl
    | with_reducible apply modSh_keeps

theorem spdm_keeps (hm : Sub 0x80000000018 M) {t1 : State} (t0 : Transport) (req : Nat) (why : Option Err)
    (value : Nat) (h : Keeps M s t) (h_1 : Keeps M s t1) :
    KeepsR M s (spdm t t0 req why value t1) := by
  unfold spdm
  repeat' first
    | with_reducible assumption
    | with_reducible exact Keeps.refl _
    | ((with_reducible refine hm.of ?_); exact rfl)
    | ((with_reducible refine Or.inl (hm.bit ?_)); exact rfl)
    | with_reducible exact Or.inr rfl
    | with_reducible apply send_keeps
    | with_reducible apply whenever_keeps
    | with_reducible apply modSh_keeps
    | with_reducible apply next_keeps
    | with_reducible exact fault_keeps _
    | split
    | with_reducible apply mk_keeps

theorem execGetVersion_keeps (hm : Sub 0x80000000018 M) (t0 : Transport) (h : Keeps M s t) :
    KeepsR M s (execGetVersion t0 t) := by
  unfold execGetVersion
  repeat' first
    | with_reducible assumption
    | with_reducible exact Keeps.refl _
    | ((with_reducible refine hm.of ?_); exact rfl)
    | with_reducible exact Or.inr rfl
    | with_reducible apply spdm_keeps
    | with_reducible apply spdmSet_keeps

theorem execGetCapabilities_keeps (hm : Sub 0x80000000018 M) (t0 : Transport) (h : Keeps M s t) :
    KeepsR M s (execGetCapabilities t0 t) := by
  unfold execGetCapabilities
  repeat' first
    | with_reducible assumption
    | with_reducible exact Keeps.refl _
    | ((with_reducible refine hm.of ?_); exact rfl)
    | with_reducible exact Or.inr rfl
    | with_reducible apply spdm_keeps
    | with_reducible apply spdmSet_keeps

theorem execNegotiateAlgorithms_keeps (hm : Sub 0x80000000018 M) (t0 : Transport) (p384 : Bool) (sha384 : Bool)
    (h : Keeps M s t) :
    KeepsR M s (execNegotiateAlgorithms t0 p384 sha384 t) := by
  unfold execNegotiateAlgorithms
  repeat' first
    | with_reducible assumption
    | with_reducible exact Keeps.refl _
    | ((with_reducible refine hm.of ?_); exact rfl)
    | with_reducible exact Or.inr rfl
    | with_reducible apply spdm_keeps
    | with_reducible apply spdmSet_keeps

theorem execGetDigests_keeps (hm : Sub 0x80000000018 M) (t0 : Transport) (h : Keeps M s t) :
    KeepsR M s (execGetDigests t0 t) := by
  unfold execGetDigests
  repeat' first
    | with_reducible assumption
    | with_reducible exact Keeps.refl _
    | with_reducible exact Or.inr rfl
    | with_reducible apply spdm_keeps

theorem execGetCertificate_keeps (hm : Sub 0x80000000018 M) (t0 : Transport) (slot : Nat) (h : Keeps M s t) :
    KeepsR M s (execGetCertificate t0 slot t) := by
  unfold execGetCertificate
  repeat' first
    | with_reducible assumption
    | with_reducible exact Keeps.refl _
    | with_reducible exact Or.inr rfl
    | with_reducible apply spdm_keeps

theorem execChallenge_keeps (hm : Sub 0x80000000018 M) (t0 : Transport) (slot : Nat) (nonce : Nat) (h : Keeps M s t) :
    KeepsR M s (execChallenge t0 slot nonce t) := by
  unfold execChallenge
  repeat' first
    | with_reducible assumption
    | with_reducible exact Keeps.refl _
    | with_reducible exact Or.inr rfl
    | (with_reducible intro _)
    | with_reducible apply spdm_keeps

theorem execGetMeasurements_keeps (hm : Sub 0x80000000018 M) (t0 : Transport) (index : Nat) (nonce : Nat)
    (signed : Bool) (h : Keeps M s t) :
    KeepsR M s (execGetMeasurements t0 index nonce signed t) := by
  unfold execGetMeasurements
  repeat' first
    | with_reducible assumption
    | with_reducible exact Keeps.refl _
    | with_reducible exact Or.inr rfl
    | (with_reducible intro _)
    | (extract_lets +onlyGivenNames v_; clear_value v_; rename' v_ => w_)
    | with_reducible apply spdm_keeps

theorem installFw_keeps (hm : Sub 0x80000000000 M) (pkg : FwSlot) (h : Keeps M s t) :
    Keeps M s (installFw t pkg) := by
  unfold installFw
  repeat' first
    | with_reducible assumption
    | with_reducible exact Keeps.refl _
    | with_reducible exact Or.inr rfl
    | (extract_lets +onlyGivenNames v_; clear_value v_; rename' v_ => w_)
    | with_reducible apply modSh_keeps

theorem execFirmwareUpdate_keeps (hm : Sub 0x80000000008 M) (agent : Nat) (pkg : FwSlot) (h : Keeps M s t) :
    KeepsR M s (execFirmwareUpdate agent pkg t) := by
  unfold execFirmwareUpdate
  repeat' first
    | with_reducible assumption
    | with_reducible exact Keeps.refl _
    | ((with_reducible refine hm.of ?_); exact rfl)
    | with_reducible exact Or.inr rfl
    | with_reducible apply send_keeps
    | with_reducible apply whenever_keeps
    | with_reducible apply modSh_keeps
    | with_reducible apply installFw_keeps
    | with_reducible apply next_keeps
    | with_reducible exact fault_keeps _
    | split

theorem updateTemp_keeps (hm : Sub 0x80000020000 M) (id : Nat) (t0 : Nat) (h : Keeps M s t) :
    Keeps M s (updateTemp id t0 t) := by
  unfold updateTemp
  repeat' first
    | with_reducible assumption
    | with_reducible exact Keeps.refl _
    | ((with_reducible refine hm.of ?_); exact rfl)
    | with_reducible exact Or.inr rfl
    | (extract_lets +onlyGivenNames v_
       first
       | (have hv_ : Keeps M s v_ := ?_; (on_goal 1 => (clear_value v_; rename' v_ => w_)); (on_goal 2 => (unfold v_; clear v_)))
       | (clear_value v_; rename' v_ => w_))
    | with_reducible apply modSh_keeps
    | with_reducible apply modPaths_keeps
    | split

theorem updateSensors_keeps (hm : Sub 0x80000020000 M) (h : Keeps M s t) :
    Keeps M s (updateSensors t) := by
  unfold updateSensors
  repeat' first
    | with_reducible assumption
    | with_reducible exact Keeps.refl _
    | ((with_reducible refine hm.of ?_); exact rfl)
    | with_reducible exact Or.inr rfl
    | (extract_lets +onlyGivenNames v_
       have hv_ : Keeps M s v_ := ?_; (on_goal 1 => (clear_value v_; rename' v_ => w_)); (on_goal 2 => (unfold v_; clear v_)))
    | with_reducible apply modSh_keeps
    | with_reducible apply updateTemp_keeps
    | split

theorem takeEvent_keeps (hm : Sub 0x20018 M) (h : Keeps M s t) :
    Keeps M s (takeEvent t) := by
  unfold takeEvent
  repeat' first
    | with_reducible assumption
    | with_reducible exact Keeps.refl _
    | ((with_reducible refine hm.of ?_); exact rfl)
    | ((with_reducible refine Or.inl (hm.bit ?_)); exact rfl)
    | with_reducible exact Or.inr rfl
    | (extract_lets +onlyGivenNames v_
       have hv_ : Keeps M s v_ := ?_; (on_goal 1 => (clear_value v_; rename' v_ => w_)); (on_goal 2 => (unfold v_; clear v_)))
    | with_reducible apply send_keeps
    | with_reducible apply modPaths_keeps
    | split
    | with_reducible apply mk_keeps

theorem idle_keeps (hm : Sub 0x80400020338 M) (h : Keeps M s t) :
    Keeps M s (idle t) := by
  unfold idle
  repeat' first
    | with_reducible assumption
    | with_reducible exact Keeps.refl _
    | ((with_reducible refine hm.of ?_); exact rfl)
    | with_reducible exact Or.inr rfl
    | with_reducible apply updateSensors_keeps
    | with_reducible apply tickNs_keeps
    | with_reducible apply takeEvent_keeps

theorem setTap_keeps (hm : Sub 0x80000000000 M) (i : Tap) (h : Keeps M s t) :
    Keeps M s (setTap t i) := by
  unfold setTap
  repeat' first
    | with_reducible assumption
    | with_reducible exact Keeps.refl _
    | with_reducible exact Or.inr rfl
    | with_reducible apply modSh_keeps

theorem testTap_keeps (hm : Sub 0x80000000000 M) (i : Tap) (h : Keeps M s t) :
    KeepsR M s (testTap t i) := by
  unfold testTap
  repeat' first
    | with_reducible assumption
    | with_reducible exact Keeps.refl _
    | with_reducible exact Or.inr rfl
    | with_reducible apply whenever_keeps
    | with_reducible apply setTap_keeps

theorem execBypass_keeps (hm : Sub 0x80000000000 M) (h : Keeps M s t) :
    KeepsR M s (execBypass t) := by
  unfold execBypass
  repeat' first
    | with_reducible assumption
    | with_reducible exact Keeps.refl _
    | with_reducible exact Or.inr rfl
    | with_reducible apply whenever_keeps
    | with_reducible apply setTap_keeps

theorem execIdcode_keeps (hm : Sub 0x80000000008 M) (h : Keeps M s t) :
    KeepsR M s (execIdcode t) := by
  unfold execIdcode
  repeat' first
    | with_reducible assumption
    | with_reducible exact Keeps.refl _
    | ((with_reducible refine hm.of ?_); exact rfl)
    | with_reducible exact Or.inr rfl
    | with_reducible apply send_keeps
    | with_reducible apply whenever_keeps
    | with_reducible apply setTap_keeps

theorem execSamplePreload_keeps (hm : Sub 0x80000000000 M) (h : Keeps M s t) :
    KeepsR M s (execSamplePreload t) := by
  unfold execSamplePreload
  repeat' first
    | with_reducible assumption
    | with_reducible exact Keeps.refl _
    | with_reducible exact Or.inr rfl
    | with_reducible apply whenever_keeps
    | with_reducible apply setTap_keeps

theorem execExtest_keeps (hm : Sub 0x80000000000 M) (h : Keeps M s t) :
    KeepsR M s (execExtest t) := by
  unfold execExtest
  repeat' first
    | with_reducible assumption
    | with_reducible exact Keeps.refl _
    | with_reducible exact Or.inr rfl
    | with_reducible apply testTap_keeps

theorem execClamp_keeps (hm : Sub 0x80000000000 M) (h : Keeps M s t) :
    KeepsR M s (execClamp t) := by
  unfold execClamp
  repeat' first
    | with_reducible assumption
    | with_reducible exact Keeps.refl _
    | with_reducible exact Or.inr rfl
    | with_reducible apply testTap_keeps

theorem execHighz_keeps (hm : Sub 0x80000000000 M) (h : Keeps M s t) :
    KeepsR M s (execHighz t) := by
  unfold execHighz
  repeat' first
    | with_reducible assumption
    | with_reducible exact Keeps.refl _
    | with_reducible exact Or.inr rfl
    | with_reducible apply testTap_keeps

theorem execPreemptSave_keeps (hm : Sub 0x100000 M) (u0 : BitVec 16) (h : Keeps M s t) :
    KeepsR M s (execPreemptSave u0 t) := by
  unfold execPreemptSave
  repeat' first
    | with_reducible assumption
    | with_reducible exact Keeps.refl _
    | with_reducible exact Or.inr rfl
    | with_reducible apply modEvict_keeps
    | with_reducible apply whenever_keeps
    | with_reducible apply next_keeps
    | with_reducible exact fault_keeps _
    | split

theorem execHandOver_keeps (hm : Sub 0x5e8000 M) (u0 : BitVec 16) (h : Keeps M s t) :
    KeepsR M s (execHandOver u0 t) := by
  unfold execHandOver
  repeat' first
    | with_reducible assumption
    | with_reducible exact Keeps.refl _
    | ((with_reducible refine hm.of ?_); exact rfl)
    | with_reducible exact Or.inr rfl
    | (with_reducible intro _)
    | (extract_lets +onlyGivenNames v_
       first
       | (have hv_ : Keeps M s v_ := ?_; (on_goal 1 => (clear_value v_; rename' v_ => w_)); (on_goal 2 => (unfold v_; clear v_)))
       | (clear_value v_; rename' v_ => w_))
    | with_reducible apply modEvict_keeps
    | with_reducible apply post_keeps
    | with_reducible apply leaveIdle_keeps
    | with_reducible apply handStart_keeps
    | with_reducible apply next_keeps
    | with_reducible exact fault_keeps _
    | (with_reducible refine foldl_keeps (fun _ _ _ => ?_) ?_)
    | (with_reducible refine foldl_keeps1 (fun _ _ _ => ?_) ?_)
    | (with_reducible refine fst_keeps (by with_reducible assumption) ?_)
    | split

theorem execUmbelRestore_keeps (hm : Sub 0x100000 M) (u0 : BitVec 16) (h : Keeps M s t) :
    KeepsR M s (execUmbelRestore u0 t) := by
  unfold execUmbelRestore
  repeat' first
    | with_reducible assumption
    | with_reducible exact Keeps.refl _
    | with_reducible exact Or.inr rfl
    | with_reducible apply modEvict_keeps
    | with_reducible apply whenever_keeps
    | with_reducible apply next_keeps
    | with_reducible exact fault_keeps _
    | split

theorem execCtxResume_keeps (hm : Sub 0x5e8040 M) (u0 : BitVec 16) (h : Keeps M s t) :
    KeepsR M s (execCtxResume u0 t) := by
  unfold execCtxResume
  split
  · exact next_keeps h
  · next v _ =>
    split
    · extract_lets lost s1 s2 s3 s4 s5
      have h1 : Keeps M s s1 := by
        unfold s1
        apply mk_keeps h <;> first | exact Or.inr rfl | exact Or.inl (hm.bit rfl)
      have h2 : Keeps M s s2 := foldl_keeps (fun _ _ h => restoreCore_keeps (hm.of rfl) _ _ h) h1
      clear_value s2
      have h3 : Keeps M s s3 := { h2 with mem := .inl (hm.bit rfl), memWf := fun x => foldl_tput_wf _ _ (h2.memWf x) }
      clear_value s3
      exact next_keeps (beginEvict_keeps (hm.of rfl) _ _ (post_keeps (hm.of rfl) _ _ _ _ _ _ (modCtx_keeps (hm.of rfl) _ _ h3)))
    · exact next_keeps h

theorem execReceiptAddApplied_keeps (hm : Sub 0x820000 M) (r : BitVec 14) (n : Nat) (h : Keeps M s t) :
    KeepsR M s (execReceiptAddApplied r n t) := by
  unfold execReceiptAddApplied
  repeat' first
    | with_reducible assumption
    | with_reducible exact Keeps.refl _
    | ((with_reducible refine hm.of ?_); exact rfl)
    | with_reducible exact Or.inr rfl
    | (extract_lets +onlyGivenNames v_
       first
       | (have hv_ : Keeps M s v_ := ?_; (on_goal 1 => (clear_value v_; rename' v_ => w_)); (on_goal 2 => (unfold v_; clear v_)))
       | (clear_value v_; rename' v_ => w_))
    | with_reducible apply applyAdds_keeps
    | with_reducible apply modRcpt_keeps
    | with_reducible apply next_keeps
    | with_reducible exact fault_keeps _
    | split

theorem execCountUpdate_keeps (hm : Sub 0x800008 M) (sub : Fin 36) (r : BitVec 14) (h : Keeps M s t) :
    KeepsR M s (execCountUpdate sub r t) := by
  unfold execCountUpdate
  repeat' first
    | with_reducible assumption
    | with_reducible exact Keeps.refl _
    | ((with_reducible refine hm.of ?_); exact rfl)
    | with_reducible exact Or.inr rfl
    | (extract_lets +onlyGivenNames v_
       have hv_ : Keeps M s v_ := ?_; (on_goal 1 => (clear_value v_; rename' v_ => w_)); (on_goal 2 => (unfold v_; clear v_)))
    | with_reducible apply send_keeps
    | with_reducible apply whenever_keeps
    | with_reducible apply modRcpt_keeps
    | with_reducible apply next_keeps
    | with_reducible exact fault_keeps _
    | split

theorem execRecordRelease_keeps (hm : Sub 0x400030088 M) (h : Keeps M s t) :
    KeepsR M s (execRecordRelease t) := by
  unfold execRecordRelease
  repeat' first
    | with_reducible assumption
    | with_reducible exact Keeps.refl _
    | with_reducible exact Or.inr rfl
    | with_reducible apply whenever_keeps
    | with_reducible apply releaseRec_keeps
    | with_reducible apply next_keeps
    | with_reducible exact fault_keeps _
    | split

theorem execRecordDelivery_keeps (hm : Sub 0x30088 M) (c : Fin 64) (h : Keeps M s t) :
    KeepsR M s (execRecordDelivery c t) := by
  unfold execRecordDelivery
  repeat' first
    | with_reducible assumption
    | with_reducible exact Keeps.refl _
    | with_reducible exact Or.inr rfl
    | with_reducible apply whenever_keeps
    | with_reducible apply deliverHeld_keeps

theorem execInterruptGapExpiry_keeps (hm : Sub 0x10008 M) (c : Fin 64) (h : Keeps M s t) :
    KeepsR M s (execInterruptGapExpiry c t) := by
  unfold execInterruptGapExpiry
  repeat' first
    | with_reducible assumption
    | with_reducible exact Keeps.refl _
    | ((with_reducible refine hm.of ?_); exact rfl)
    | with_reducible exact Or.inr rfl
    | (extract_lets +onlyGivenNames v_; clear_value v_; rename' v_ => w_)
    | with_reducible apply send_keeps
    | with_reducible apply whenever_keeps
    | with_reducible apply modDoor_keeps

theorem relFired_keeps (hm : Sub 0x420000 M) (u0 : Nat) (r : BitVec 256) (h : Keeps M s t) :
    Keeps M s (relFired t u0 r) := by
  unfold relFired
  repeat' first
    | with_reducible assumption
    | with_reducible exact Keeps.refl _
    | ((with_reducible refine hm.of ?_); exact rfl)
    | with_reducible exact Or.inr rfl
    | (extract_lets +onlyGivenNames v_
       first
       | (have hv_ : Keeps M s v_ := ?_; (on_goal 1 => (clear_value v_; rename' v_ => w_)); (on_goal 2 => (unfold v_; clear v_)))
       | (clear_value v_; rename' v_ => w_))
    | with_reducible apply modRel_keeps
    | with_reducible apply post_keeps
    | with_reducible apply trace_keeps
    | (with_reducible refine fst_keeps (by with_reducible assumption) ?_)
    | split

theorem fireNext_keeps (hm : Sub 0x420000 M) (u0 : BitVec 16) (act : BitVec 8) (also : BitVec 256 → Bool)
    (f : State → BitVec 256 → BitVec 40 → Pm → State) (h : Keeps M s t)
    (hf_f : ∀ y0 y1 y2 y3, Keeps M s y0 → Keeps M s (f y0 y1 y2 y3)) :
    KeepsR M s (fireNext t u0 act also f) := by
  unfold fireNext
  repeat' first
    | with_reducible assumption
    | with_reducible exact Keeps.refl _
    | with_reducible exact Or.inr rfl
    | (with_reducible intro _)
    | with_reducible apply hf_f
    | with_reducible apply whenever_keeps
    | with_reducible apply relFired_keeps
    | with_reducible apply next_keeps
    | with_reducible exact fault_keeps _
    | split

theorem verifyStart_keeps (hm : Sub 0x568000 M) (u0 : BitVec 16) (h : Keeps M s t) :
    KeepsR M s (verifyStart u0 t) := by
  unfold verifyStart
  repeat' first
    | with_reducible assumption
    | with_reducible exact Keeps.refl _
    | with_reducible exact Or.inr rfl
    | with_reducible apply fireStart_keeps
    | with_reducible apply whenever_keeps
    | with_reducible apply next_keeps
    | with_reducible exact fault_keeps _
    | split

theorem execStreamStart_keeps (hm : Sub 0x568000 M) (u0 : BitVec 16) (h : Keeps M s t) :
    KeepsR M s (execStreamStart u0 t) := by
  unfold execStreamStart
  repeat' first
    | with_reducible assumption
    | with_reducible exact Keeps.refl _
    | ((with_reducible refine hm.of ?_); exact rfl)
    | with_reducible exact Or.inr rfl
    | (with_reducible intro _)
    | with_reducible apply fireStart_keeps
    | with_reducible apply fireNext_keeps
    | with_reducible apply verifyStart_keeps
    | with_reducible apply next_keeps
    | with_reducible exact fault_keeps _
    | with_reducible apply id_keeps
    | split

theorem execConsign_keeps (hm : Sub 0x5420000 M) (u0 : BitVec 16) (h : Keeps M s t) :
    KeepsR M s (execConsign u0 t) := by
  unfold execConsign
  repeat' first
    | with_reducible assumption
    | with_reducible exact Keeps.refl _
    | ((with_reducible refine hm.of ?_); exact rfl)
    | with_reducible exact Or.inr rfl
    | (with_reducible intro _)
    | with_reducible apply fireCons_keeps
    | with_reducible apply fireNext_keeps

theorem execCollStart_keeps (hm : Sub 0x304c20040 M) (u0 : BitVec 16) (h : Keeps M s t) :
    KeepsR M s (execCollStart u0 t) := by
  unfold execCollStart
  repeat' first
    | with_reducible assumption
    | with_reducible exact Keeps.refl _
    | ((with_reducible refine hm.of ?_); exact rfl)
    | with_reducible exact Or.inr rfl
    | (with_reducible intro _)
    | with_reducible apply fireNext_keeps
    | with_reducible apply armColl_keeps
    | with_reducible apply warnWrite_keeps
    | with_reducible apply next_keeps
    | with_reducible exact fault_keeps _
    | with_reducible apply id_keeps
    | split

theorem execEnvRelease_keeps (hm : Sub 0x1c006e0008 M) (u0 : BitVec 16) (h : Keeps M s t) :
    KeepsR M s (execEnvRelease u0 t) := by
  unfold execEnvRelease
  repeat' first
    | with_reducible assumption
    | with_reducible exact Keeps.refl _
    | ((with_reducible refine hm.of ?_); exact rfl)
    | with_reducible exact Or.inr rfl
    | (with_reducible intro _)
    | (extract_lets +onlyGivenNames v_; clear_value v_; rename' v_ => w_)
    | with_reducible apply coreFault_keeps
    | with_reducible apply sendEnv_keeps
    | with_reducible apply fireNext_keeps
    | with_reducible apply next_keeps
    | with_reducible exact fault_keeps _
    | with_reducible apply id_keeps
    | split

theorem execReceiptAdd_keeps (hm : Sub 0xc20000 M) (u0 : BitVec 16) (h : Keeps M s t) :
    KeepsR M s (execReceiptAdd u0 t) := by
  unfold execReceiptAdd
  repeat' first
    | with_reducible assumption
    | with_reducible exact Keeps.refl _
    | ((with_reducible refine hm.of ?_); exact rfl)
    | with_reducible exact Or.inr rfl
    | (with_reducible intro _)
    | with_reducible apply addReceipt_keeps
    | with_reducible apply fireNext_keeps

theorem execCommit_keeps (hm : Sub 0x1daad6804c M) (u0 : BitVec 16) (h : Keeps M s t) :
    KeepsR M s (execCommit u0 t) := by
  unfold execCommit
  repeat' first
    | with_reducible assumption
    | with_reducible exact Keeps.refl _
    | ((with_reducible refine hm.of ?_); exact rfl)
    | with_reducible exact Or.inr rfl
    | (with_reducible intro _)
    | with_reducible apply fireCommit_keeps
    | with_reducible apply fireNext_keeps

theorem execCkptCut_keeps (hm : Sub 0x108420050 M) (u0 : BitVec 16) (h : Keeps M s t) :
    KeepsR M s (execCkptCut u0 t) := by
  unfold execCkptCut
  repeat' first
    | with_reducible assumption
    | with_reducible exact Keeps.refl _
    | ((with_reducible refine hm.of ?_); exact rfl)
    | with_reducible exact Or.inr rfl
    | (with_reducible intro _)
    | with_reducible apply fireNext_keeps
    | with_reducible apply fireCut_keeps

theorem execStepEnd_keeps (hm : Sub 0x905bece0354 M) (u0 : BitVec 16) (h : Keeps M s t) :
    KeepsR M s (execStepEnd u0 t) := by
  unfold execStepEnd
  repeat' first
    | with_reducible assumption
    | with_reducible exact Keeps.refl _
    | ((with_reducible refine hm.of ?_); exact rfl)
    | with_reducible exact Or.inr rfl
    | (with_reducible intro _)
    | with_reducible apply boundary_keeps
    | with_reducible apply fireNext_keeps

theorem execSchedStall_keeps (hm : Sub 0x420000 M) (u0 : BitVec 16) (h : Keeps M s t) :
    KeepsR M s (execSchedStall u0 t) := by
  unfold execSchedStall
  repeat' first
    | with_reducible assumption
    | with_reducible exact Keeps.refl _
    | ((with_reducible refine hm.of ?_); exact rfl)
    | with_reducible exact Or.inr rfl
    | (extract_lets +onlyGivenNames v_; clear_value v_; rename' v_ => w_)
    | with_reducible apply whenever_keeps
    | with_reducible apply modRel_keeps
    | with_reducible apply post_keeps
    | with_reducible apply next_keeps
    | with_reducible exact fault_keeps _
    | split

theorem execTiming_keeps (hm : Sub 0x80c00020108 M) (l : Fin 12) (crcOk : Bool) (root : BitVec 15)
    (period : BitVec 26) (pm : Pm) (h : Keeps M s t) :
    KeepsR M s (execTiming l crcOk root period pm t) := by
  unfold execTiming
  repeat' first
    | with_reducible assumption
    | with_reducible exact Keeps.refl _
    | with_reducible exact Or.inr rfl
    | with_reducible apply whenever_keeps
    | with_reducible apply timingArrives_keeps

theorem execTimingFrameSend_keeps (hm : Sub 0x400020108 M) (h : Keeps M s t) :
    KeepsR M s (execTimingFrameSend t) := by
  unfold execTimingFrameSend
  repeat' first
    | with_reducible assumption
    | with_reducible exact Keeps.refl _
    | ((with_reducible refine hm.of ?_); exact rfl)
    | with_reducible exact Or.inr rfl
    | with_reducible apply whenever_keeps
    | with_reducible apply sendTiming_keeps
    | with_reducible apply modTb_keeps

theorem execProbeSend_keeps (hm : Sub 0x400020108 M) (h : Keeps M s t) :
    KeepsR M s (execProbeSend t) := by
  unfold execProbeSend
  repeat' first
    | with_reducible assumption
    | with_reducible exact Keeps.refl _
    | ((with_reducible refine hm.of ?_); exact rfl)
    | with_reducible exact Or.inr rfl
    | with_reducible apply whenever_keeps
    | with_reducible apply queueFrame_keeps
    | with_reducible apply modTb_keeps

theorem execProbe_keeps (hm : Sub 0x400020008 M) (l : Fin 12) (crcOk : Bool) (t1 : Pm) (h : Keeps M s t) :
    KeepsR M s (execProbe l crcOk t1 t) := by
  unfold execProbe
  repeat' first
    | with_reducible assumption
    | with_reducible exact Keeps.refl _
    | with_reducible exact Or.inr rfl
    | (extract_lets +onlyGivenNames v_; clear_value v_; rename' v_ => w_)
    | with_reducible apply whenever_keeps
    | with_reducible apply queueFrame_keeps

theorem execProbeReply_keeps (hm : Sub 0x100 M) (l : Fin 12) (crcOk : Bool) (t1 : Pm) (t2 : Pm) (t3 : Pm)
    (h : Keeps M s t) :
    KeepsR M s (execProbeReply l crcOk t1 t2 t3 t) := by
  unfold execProbeReply
  repeat' first
    | with_reducible assumption
    | with_reducible exact Keeps.refl _
    | with_reducible exact Or.inr rfl
    | with_reducible apply whenever_keeps
    | with_reducible apply takeDelay_keeps

theorem execStop_keeps (hm : Sub 0x1c80d6840c M) (l : Fin 12) (crcOk : Bool) (origin : BitVec 15)
    (count : BitVec 16) (pm : Pm) (scope : BitVec 2) (h : Keeps M s t) :
    KeepsR M s (execStop l crcOk origin count pm scope t) := by
  unfold execStop
  repeat' first
    | with_reducible assumption
    | with_reducible exact Keeps.refl _
    | with_reducible exact Or.inr rfl
    | with_reducible apply stopArrives_keeps
    | with_reducible apply whenever_keeps

theorem execQuiesce_keeps (hm : Sub 0x1c80d6840c M) (l : Fin 12) (crcOk : Bool) (origin : BitVec 15)
    (count : BitVec 16) (pm : Pm) (scope : BitVec 2) (h : Keeps M s t) :
    KeepsR M s (execQuiesce l crcOk origin count pm scope t) := by
  unfold execQuiesce
  repeat' first
    | with_reducible assumption
    | with_reducible exact Keeps.refl _
    | with_reducible exact Or.inr rfl
    | with_reducible apply stopArrives_keeps
    | with_reducible apply whenever_keeps

theorem foreignRec_keeps (hm : Sub 0x400030088 M) (r : Rec) (h : Keeps M s t) :
    Keeps M s (foreignRec t r) := by
  unfold foreignRec
  repeat' first
    | with_reducible assumption
    | with_reducible exact Keeps.refl _
    | ((with_reducible refine hm.of ?_); exact rfl)
    | with_reducible exact Or.inr rfl
    | with_reducible apply forwardOther_keeps
    | with_reducible apply toShordo_keeps
    | with_reducible apply toRings_keeps
    | with_reducible apply forwardAlarm_keeps
    | split

theorem recordFrame_keeps (hm : Sub 0x400000000 M) (l : Nat) (ctype : BitVec 8) (body : BitVec 224)
    (f : State → Rec → State) (h : Keeps M s t) (hf_f : ∀ y0 y1, Keeps M s y0 → Keeps M s (f y0 y1)) :
    Keeps M s (recordFrame t l ctype body f) := by
  unfold recordFrame
  repeat' first
    | with_reducible assumption
    | with_reducible exact Keeps.refl _
    | with_reducible exact Or.inr rfl
    | (with_reducible intro _)
    | with_reducible apply hf_f
    | (extract_lets +onlyGivenNames v_
       first
       | (have hv_ : Keeps M s v_ := ?_; (on_goal 1 => (clear_value v_; rename' v_ => w_)); (on_goal 2 => (unfold v_; clear v_)))
       | (clear_value v_; rename' v_ => w_))
    | with_reducible apply modLink_keeps
    | split

theorem execAlarm_keeps (hm : Sub 0x400030088 M) (l : Fin 12) (crcOk : Bool) (body : BitVec 224) (h : Keeps M s t) :
    KeepsR M s (execAlarm l crcOk body t) := by
  unfold execAlarm
  repeat' first
    | with_reducible assumption
    | with_reducible exact Keeps.refl _
    | ((with_reducible refine hm.of ?_); exact rfl)
    | with_reducible exact Or.inr rfl
    | (with_reducible intro _)
    | with_reducible apply recordFrame_keeps
    | with_reducible apply whenever_keeps
    | with_reducible apply alarmAcked_keeps
    | with_reducible apply queueFrame_keeps
    | with_reducible apply foreignRec_keeps
    | with_reducible apply next_keeps
    | with_reducible exact fault_keeps _
    | with_reducible apply id_keeps
    | split

theorem execLog_keeps (hm : Sub 0x400030088 M) (l : Fin 12) (crcOk : Bool) (body : BitVec 224) (h : Keeps M s t) :
    KeepsR M s (execLog l crcOk body t) := by
  unfold execLog
  repeat' first
    | with_reducible assumption
    | with_reducible exact Keeps.refl _
    | ((with_reducible refine hm.of ?_); exact rfl)
    | with_reducible exact Or.inr rfl
    | (with_reducible intro _)
    | with_reducible apply recordFrame_keeps
    | with_reducible apply whenever_keeps
    | with_reducible apply foreignRec_keeps
    | with_reducible apply next_keeps
    | with_reducible exact fault_keeps _
    | with_reducible apply id_keeps
    | split

theorem execTrace_keeps (hm : Sub 0x400030088 M) (l : Fin 12) (crcOk : Bool) (body : BitVec 224) (h : Keeps M s t) :
    KeepsR M s (execTrace l crcOk body t) := by
  unfold execTrace
  repeat' first
    | with_reducible assumption
    | with_reducible exact Keeps.refl _
    | ((with_reducible refine hm.of ?_); exact rfl)
    | with_reducible exact Or.inr rfl
    | (with_reducible intro _)
    | with_reducible apply recordFrame_keeps
    | with_reducible apply whenever_keeps
    | with_reducible apply foreignRec_keeps
    | with_reducible apply next_keeps
    | with_reducible exact fault_keeps _
    | with_reducible apply id_keeps
    | split

theorem execCourierLost_keeps (hm : Sub 0x400020100 M) (l : Fin 12) (h : Keeps M s t) :
    KeepsR M s (execCourierLost l t) := by
  unfold execCourierLost
  repeat' first
    | with_reducible assumption
    | with_reducible exact Keeps.refl _
    | ((with_reducible refine hm.of ?_); exact rfl)
    | with_reducible exact Or.inr rfl
    | (extract_lets +onlyGivenNames v_
       first
       | (have hv_ : Keeps M s v_ := ?_; (on_goal 1 => (clear_value v_; rename' v_ => w_)); (on_goal 2 => (unfold v_; clear v_)))
       | (clear_value v_; rename' v_ => w_))
    | with_reducible apply whenever_keeps
    | with_reducible apply modLink_keeps
    | with_reducible apply switchSource_keeps
    | with_reducible apply post_keeps
    | with_reducible apply next_keeps
    | with_reducible exact fault_keeps _
    | split

theorem execCorrectionPulse_keeps (hm : Sub 0x308 M) (h : Keeps M s t) :
    KeepsR M s (execCorrectionPulse t) := by
  unfold execCorrectionPulse
  repeat' first
    | with_reducible assumption
    | with_reducible exact Keeps.refl _
    | with_reducible exact Or.inr rfl
    | with_reducible apply whenever_keeps
    | with_reducible apply pulse_keeps

theorem execTbLock_keeps (hm : Sub 0x20110 M) (h : Keeps M s t) :
    KeepsR M s (execTbLock t) := by
  unfold execTbLock
  repeat' first
    | with_reducible assumption
    | with_reducible exact Keeps.refl _
    | with_reducible exact Or.inr rfl
    | with_reducible apply whenever_keeps
    | with_reducible apply lock_keeps

theorem execTbInLoss_keeps (hm : Sub 0x20100 M) (h : Keeps M s t) :
    KeepsR M s (execTbInLoss t) := by
  unfold execTbInLoss
  repeat' first
    | with_reducible assumption
    | with_reducible exact Keeps.refl _
    | ((with_reducible refine hm.of ?_); exact rfl)
    | with_reducible exact Or.inr rfl
    | (extract_lets +onlyGivenNames v_
       have hv_ : Keeps M s v_ := ?_; (on_goal 1 => (clear_value v_; rename' v_ => w_)); (on_goal 2 => (unfold v_; clear v_)))
    | with_reducible apply whenever_keeps
    | with_reducible apply loseSource_keeps
    | with_reducible apply modTb_keeps
    | with_reducible apply next_keeps
    | with_reducible exact fault_keeps _
    | split

theorem execTbInReturn_keeps (hm : Sub 0x100 M) (h : Keeps M s t) :
    KeepsR M s (execTbInReturn t) := by
  unfold execTbInReturn
  repeat' first
    | with_reducible assumption
    | with_reducible exact Keeps.refl _
    | with_reducible exact Or.inr rfl
    | (extract_lets +onlyGivenNames v_
       have hv_ : Keeps M s v_ := ?_; (on_goal 1 => (clear_value v_; rename' v_ => w_)); (on_goal 2 => (unfold v_; clear v_)))
    | with_reducible apply whenever_keeps
    | with_reducible apply sourceReturns_keeps
    | with_reducible apply modTb_keeps
    | with_reducible apply next_keeps
    | with_reducible exact fault_keeps _
    | split

theorem execHoldoverExpiry_keeps (hm : Sub 0x20100 M) (h : Keeps M s t) :
    KeepsR M s (execHoldoverExpiry t) := by
  unfold execHoldoverExpiry
  repeat' first
    | with_reducible assumption
    | with_reducible exact Keeps.refl _
    | ((with_reducible refine hm.of ?_); exact rfl)
    | with_reducible exact Or.inr rfl
    | with_reducible apply whenever_keeps
    | with_reducible apply post_keeps
    | with_reducible apply modTb_keeps

theorem execUpdateEntryStart_keeps (hm : Sub 0x40000000 M) (h0 : Fin 4) (h : Keeps M s t) :
    KeepsR M s (execUpdateEntryStart h0 t) := by
  unfold execUpdateEntryStart
  repeat' first
    | with_reducible assumption
    | with_reducible exact Keeps.refl _
    | with_reducible exact Or.inr rfl
    | (extract_lets +onlyGivenNames v_; clear_value v_; rename' v_ => w_)
    | with_reducible apply modUpd_keeps
    | with_reducible apply whenever_keeps
    | with_reducible apply next_keeps
    | with_reducible exact fault_keeps _
    | split

theorem execUpdateEntryDone_keeps (hm : Sub 0x40800000 M) (h0 : Fin 4) (h : Keeps M s t) :
    KeepsR M s (execUpdateEntryDone h0 t) := by
  unfold execUpdateEntryDone
  repeat' first
    | with_reducible assumption
    | with_reducible exact Keeps.refl _
    | ((with_reducible refine hm.of ?_); exact rfl)
    | with_reducible exact Or.inr rfl
    | (extract_lets +onlyGivenNames v_; clear_value v_; rename' v_ => w_)
    | with_reducible apply addReceipt_keeps
    | with_reducible apply modUpd_keeps
    | with_reducible apply whenever_keeps

theorem execUpEnd_keeps (hm : Sub 0x40000000 M) (h0 : Fin 4) (h : Keeps M s t) :
    KeepsR M s (execUpEnd h0 t) := by
  unfold execUpEnd
  repeat' first
    | with_reducible assumption
    | with_reducible exact Keeps.refl _
    | ((with_reducible refine hm.of ?_); exact rfl)
    | with_reducible exact Or.inr rfl
    | (with_reducible intro _)
    | with_reducible apply modUpd_keeps
    | with_reducible apply upStep_keeps

theorem execUpLd_keeps (hm : Sub 0x981504e8250 M) (h0 : Fin 4) (ecc : EccAt) (h : Keeps M s t) :
    KeepsR M s (execUpLd h0 ecc t) := by
  unfold execUpLd
  repeat' first
    | with_reducible assumption
    | with_reducible exact Keeps.refl _
    | ((with_reducible refine hm.of ?_); exact rfl)
    | ((with_reducible refine Or.inl (hm.bit ?_)); exact rfl)
    | with_reducible exact Or.inr rfl
    | (with_reducible intro _)
    | (extract_lets +onlyGivenNames v_
       first
       | (have hv_ : Keeps M s v_ := ?_; (on_goal 1 => (clear_value v_; rename' v_ => w_)); (on_goal 2 => (unfold v_; clear v_)))
       | (clear_value v_; rename' v_ => w_))
    | with_reducible apply updFault_keeps
    | with_reducible apply upMem_keeps
    | with_reducible apply setOvf_keeps
    | with_reducible apply upPut_keeps
    | with_reducible apply countGradNf_keeps
    | with_reducible apply next_keeps
    | with_reducible exact fault_keeps _
    | with_reducible apply id_keeps
    | split
    | with_reducible apply mk_keeps

theorem stBlock_keeps (hm : Sub 0x58428040 M) (h0 : Fin 4) (u0 : UpdEng) (w : BitVec 32) (v : BitVec 32)
    (h : Keeps M s t) :
    Keeps M s (stBlock t h0 u0 w v) := by
  unfold stBlock
  repeat' first
    | with_reducible assumption
    | with_reducible exact Keeps.refl _
    | ((with_reducible refine hm.of ?_); exact rfl)
    | with_reducible exact Or.inr rfl
    | (with_reducible intro _)
    | (extract_lets +onlyGivenNames v_
       first
       | (have hv_ : Keeps M s v_ := ?_; (on_goal 1 => (clear_value v_; rename' v_ => w_)); (on_goal 2 => (unfold v_; clear v_)))
       | (have hv_ : Keeps M s v_.1 := ?_; (on_goal 1 => (clear_value v_; rename' v_ => w_)); (on_goal 2 => (unfold v_; clear v_)))
       | (clear_value v_; rename' v_ => w_))
    | with_reducible apply modUpd_keeps
    | with_reducible apply countEff_keeps
    | with_reducible apply setFlags_keeps
    | with_reducible apply updWrite_keeps
    | (with_reducible refine foldl_keeps (fun _ _ _ => ?_) ?_)
    | (with_reducible refine foldl_keeps1 (fun _ _ _ => ?_) ?_)
    | (with_reducible refine fst_keeps (by with_reducible assumption) ?_)
    | split

theorem execUpSt_keeps (hm : Sub 0x981584e8250 M) (h0 : Fin 4) (ecc : EccAt) (h : Keeps M s t) :
    KeepsR M s (execUpSt h0 ecc t) := by
  unfold execUpSt
  repeat' first
    | with_reducible assumption
    | with_reducible exact Keeps.refl _
    | ((with_reducible refine hm.of ?_); exact rfl)
    | ((with_reducible refine Or.inl (hm.bit ?_)); exact rfl)
    | with_reducible exact Or.inr rfl
    | (with_reducible intro _)
    | (extract_lets +onlyGivenNames v_
       first
       | (have hv_ : Keeps M s v_ := ?_; (on_goal 1 => (clear_value v_; rename' v_ => w_)); (on_goal 2 => (unfold v_; clear v_)))
       | (have hv_ : Keeps M s v_.1 := ?_; (on_goal 1 => (clear_value v_; rename' v_ => w_)); (on_goal 2 => (unfold v_; clear v_)))
       | (clear_value v_; rename' v_ => w_))
    | with_reducible apply updFault_keeps
    | with_reducible apply modUpd_keeps
    | with_reducible apply upMem_keeps
    | with_reducible apply countEff_keeps
    | with_reducible apply setFlags_keeps
    | with_reducible apply stBlock_keeps
    | with_reducible apply updWrite_keeps
    | with_reducible apply next_keeps
    | with_reducible exact fault_keeps _
    | (with_reducible refine fst_keeps (by with_reducible assumption) ?_)
    | with_reducible apply id_keeps
    | split
    | with_reducible apply mk_keeps

theorem execUpAdd_keeps (hm : Sub 0x40008010 M) (h0 : Fin 4) (h : Keeps M s t) :
    KeepsR M s (execUpAdd h0 t) := by
  unfold execUpAdd
  repeat' first
    | with_reducible assumption
    | with_reducible exact Keeps.refl _
    | with_reducible exact Or.inr rfl
    | with_reducible apply upBin_keeps

theorem execUpSub_keeps (hm : Sub 0x40008010 M) (h0 : Fin 4) (h : Keeps M s t) :
    KeepsR M s (execUpSub h0 t) := by
  unfold execUpSub
  repeat' first
    | with_reducible assumption
    | with_reducible exact Keeps.refl _
    | with_reducible exact Or.inr rfl
    | with_reducible apply upBin_keeps

theorem execUpMul_keeps (hm : Sub 0x40008010 M) (h0 : Fin 4) (h : Keeps M s t) :
    KeepsR M s (execUpMul h0 t) := by
  unfold execUpMul
  repeat' first
    | with_reducible assumption
    | with_reducible exact Keeps.refl _
    | with_reducible exact Or.inr rfl
    | with_reducible apply upBin_keeps

theorem execUpFma_keeps (hm : Sub 0x40008010 M) (h0 : Fin 4) (h : Keeps M s t) :
    KeepsR M s (execUpFma h0 t) := by
  unfold execUpFma
  repeat' first
    | with_reducible assumption
    | with_reducible exact Keeps.refl _
    | ((with_reducible refine hm.of ?_); exact rfl)
    | with_reducible exact Or.inr rfl
    | (with_reducible intro _)
    | (extract_lets +onlyGivenNames v_; clear_value v_; rename' v_ => w_)
    | with_reducible apply upStep_keeps
    | with_reducible apply upPut_keeps

theorem execUpDiv_keeps (hm : Sub 0x40008010 M) (h0 : Fin 4) (h : Keeps M s t) :
    KeepsR M s (execUpDiv h0 t) := by
  unfold execUpDiv
  repeat' first
    | with_reducible assumption
    | with_reducible exact Keeps.refl _
    | with_reducible exact Or.inr rfl
    | with_reducible apply upBin_keeps

theorem execUpSqrt_keeps (hm : Sub 0x40008010 M) (h0 : Fin 4) (h : Keeps M s t) :
    KeepsR M s (execUpSqrt h0 t) := by
  unfold execUpSqrt
  repeat' first
    | with_reducible assumption
    | with_reducible exact Keeps.refl _
    | with_reducible exact Or.inr rfl
    | with_reducible apply upUn_keeps

theorem execUpMax_keeps (hm : Sub 0x40008010 M) (h0 : Fin 4) (h : Keeps M s t) :
    KeepsR M s (execUpMax h0 t) := by
  unfold execUpMax
  repeat' first
    | with_reducible assumption
    | with_reducible exact Keeps.refl _
    | with_reducible exact Or.inr rfl
    | with_reducible apply upBin_keeps

theorem execUpMin_keeps (hm : Sub 0x40008010 M) (h0 : Fin 4) (h : Keeps M s t) :
    KeepsR M s (execUpMin h0 t) := by
  unfold execUpMin
  repeat' first
    | with_reducible assumption
    | with_reducible exact Keeps.refl _
    | with_reducible exact Or.inr rfl
    | with_reducible apply upBin_keeps

theorem execUpAbs_keeps (hm : Sub 0x40008010 M) (h0 : Fin 4) (h : Keeps M s t) :
    KeepsR M s (execUpAbs h0 t) := by
  unfold execUpAbs
  repeat' first
    | with_reducible assumption
    | with_reducible exact Keeps.refl _
    | with_reducible exact Or.inr rfl
    | with_reducible apply upUn_keeps

theorem execUpPows_keeps (hm : Sub 0x40008010 M) (h0 : Fin 4) (h : Keeps M s t) :
    KeepsR M s (execUpPows h0 t) := by
  unfold execUpPows
  repeat' first
    | with_reducible assumption
    | with_reducible exact Keeps.refl _
    | ((with_reducible refine hm.of ?_); exact rfl)
    | with_reducible exact Or.inr rfl
    | (with_reducible intro _)
    | (extract_lets +onlyGivenNames v_; clear_value v_; rename' v_ => w_)
    | with_reducible apply upStep_keeps
    | with_reducible apply upPut_keeps

theorem execUpRand_keeps (hm : Sub 0x40008010 M) (h0 : Fin 4) (h : Keeps M s t) :
    KeepsR M s (execUpRand h0 t) := by
  unfold execUpRand
  repeat' first
    | with_reducible assumption
    | with_reducible exact Keeps.refl _
    | ((with_reducible refine hm.of ?_); exact rfl)
    | with_reducible exact Or.inr rfl
    | (with_reducible intro _)
    | (extract_lets +onlyGivenNames v_; clear_value v_; rename' v_ => w_)
    | with_reducible apply upStep_keeps
    | with_reducible apply upPut_keeps

theorem execUpBsum_keeps (hm : Sub 0x40008010 M) (h0 : Fin 4) (h : Keeps M s t) :
    KeepsR M s (execUpBsum h0 t) := by
  unfold execUpBsum
  repeat' first
    | with_reducible assumption
    | with_reducible exact Keeps.refl _
    | with_reducible exact Or.inr rfl
    | with_reducible apply upBlk_keeps

theorem execUpBmax_keeps (hm : Sub 0x40008010 M) (h0 : Fin 4) (h : Keeps M s t) :
    KeepsR M s (execUpBmax h0 t) := by
  unfold execUpBmax
  repeat' first
    | with_reducible assumption
    | with_reducible exact Keeps.refl _
    | with_reducible exact Or.inr rfl
    | with_reducible apply upBlk_keeps

theorem execUpBar_keeps (hm : Sub 0x40008000 M) (h0 : Fin 4) (h : Keeps M s t) :
    KeepsR M s (execUpBar h0 t) := by
  unfold execUpBar
  repeat' first
    | with_reducible assumption
    | with_reducible exact Keeps.refl _
    | ((with_reducible refine hm.of ?_); exact rfl)
    | with_reducible exact Or.inr rfl
    | (with_reducible intro _)
    | (extract_lets +onlyGivenNames v_; clear_value v_; rename' v_ => w_)
    | with_reducible apply modUpd_keeps
    | with_reducible apply upStep_keeps
    | with_reducible apply setFlags_keeps

theorem execVldx_keeps (hm : Sub 0x460000 M) (c : CoreId) (fmt : BitVec 4) (mxs : Bool) (src : BitVec 17)
    (len : BitVec 14) (sAddr : BitVec 17) (xOff : BitVec 7) (h : Keeps M s t) :
    KeepsR M s (execVldx c fmt mxs src len sAddr xOff t) := by
  unfold execVldx
  repeat' first
    | with_reducible assumption
    | with_reducible exact Keeps.refl _
    | ((with_reducible refine hm.of ?_); exact rfl)
    | with_reducible exact Or.inr rfl
    | (with_reducible intro _)
    | (extract_lets +onlyGivenNames v_; clear_value v_; rename' v_ => w_)
    | with_reducible apply done_keeps
    | with_reducible apply issue_keeps
    | with_reducible apply setCore_keeps
    | with_reducible apply coreFault_keeps
    | with_reducible apply next_keeps
    | with_reducible exact fault_keeps _
    | with_reducible apply id_keeps
    | split

theorem execMv_keeps (hm : Sub 0x10468010 M) (c : CoreId) (w : W56) (h : Keeps M s t) :
    KeepsR M s (execMv c w t) := by
  unfold execMv
  repeat' first
    | with_reducible assumption
    | with_reducible exact Keeps.refl _
    | ((with_reducible refine hm.of ?_); exact rfl)
    | ((with_reducible refine Or.inl (hm.bit ?_)); exact rfl)
    | with_reducible exact Or.inr rfl
    | (with_reducible intro _)
    | (extract_lets +onlyGivenNames v_
       first
       | (have hv_ : Keeps M s v_ := ?_; (on_goal 1 => (clear_value v_; rename' v_ => w_)); (on_goal 2 => (unfold v_; clear v_)))
       | (clear_value v_; rename' v_ => w_))
    | with_reducible apply done_keeps
    | with_reducible apply issue_keeps
    | with_reducible apply coreEff_keeps
    | with_reducible apply setCore_keeps
    | with_reducible apply post_keeps
    | with_reducible apply coreFault_keeps
    | with_reducible apply next_keeps
    | with_reducible exact fault_keeps _
    | (with_reducible refine foldl_keeps (fun _ _ _ => ?_) ?_)
    | (with_reducible refine foldl_keeps1 (fun _ _ _ => ?_) ?_)
    | (with_reducible refine fst_keeps (by with_reducible assumption) ?_)
    | with_reducible apply id_keeps
    | split
    | with_reducible apply mk_keeps

theorem execMvSt_keeps (hm : Sub 0x10468040 M) (c : CoreId) (fmt : BitVec 4) (sat : Bool) (rows : BitVec 8)
    (dst : BitVec 17) (h : Keeps M s t) :
    KeepsR M s (execMvSt c fmt sat rows dst t) := by
  unfold execMvSt
  repeat' first
    | with_reducible assumption
    | with_reducible exact Keeps.refl _
    | ((with_reducible refine hm.of ?_); exact rfl)
    | with_reducible exact Or.inr rfl
    | (with_reducible intro _)
    | (extract_lets +onlyGivenNames v_; clear_value v_; rename' v_ => w_)
    | with_reducible apply done_keeps
    | with_reducible apply spWrite_keeps
    | with_reducible apply issue_keeps
    | with_reducible apply coreEff_keeps
    | with_reducible apply setCore_keeps
    | with_reducible apply coreFault_keeps
    | with_reducible apply next_keeps
    | with_reducible exact fault_keeps _
    | (with_reducible refine foldl_keeps (fun _ _ _ => ?_) ?_)
    | (with_reducible refine foldl_keeps1 (fun _ _ _ => ?_) ?_)
    | (with_reducible refine fst_keeps (by with_reducible assumption) ?_)
    | with_reducible apply id_keeps
    | split

theorem execVld_keeps (hm : Sub 0x460000 M) (c : CoreId) (vd : BitVec 5) (addr : BitVec 17) (h : Keeps M s t) :
    KeepsR M s (execVld c vd addr t) := by
  unfold execVld
  repeat' first
    | with_reducible assumption
    | with_reducible exact Keeps.refl _
    | ((with_reducible refine hm.of ?_); exact rfl)
    | with_reducible exact Or.inr rfl
    | (with_reducible intro _)
    | with_reducible apply done_keeps
    | with_reducible apply issue_keeps
    | with_reducible apply setCore_keeps
    | with_reducible apply coreFault_keeps
    | with_reducible apply next_keeps
    | with_reducible exact fault_keeps _
    | with_reducible apply id_keeps
    | split

theorem execVst_keeps (hm : Sub 0x460040 M) (c : CoreId) (vs : BitVec 5) (addr : BitVec 17) (h : Keeps M s t) :
    KeepsR M s (execVst c vs addr t) := by
  unfold execVst
  repeat' first
    | with_reducible assumption
    | with_reducible exact Keeps.refl _
    | ((with_reducible refine hm.of ?_); exact rfl)
    | with_reducible exact Or.inr rfl
    | (with_reducible intro _)
    | with_reducible apply done_keeps
    | with_reducible apply spWrite_keeps
    | with_reducible apply issue_keeps
    | with_reducible apply setCore_keeps
    | with_reducible apply coreFault_keeps
    | with_reducible apply next_keeps
    | with_reducible exact fault_keeps _
    | with_reducible apply id_keeps
    | split

theorem lanes_keeps (hm : Sub 0x10468000 M) (c : CoreId) (vd : BitVec 5) (srcs : List (BitVec 5))
    (f : List Val → Val) (h : Keeps M s t) :
    KeepsR M s (lanes c vd srcs f t) := by
  unfold lanes
  repeat' first
    | with_reducible assumption
    | with_reducible exact Keeps.refl _
    | ((with_reducible refine hm.of ?_); exact rfl)
    | with_reducible exact Or.inr rfl
    | (with_reducible intro _)
    | (extract_lets +onlyGivenNames v_; clear_value v_; rename' v_ => w_)
    | with_reducible apply done_keeps
    | with_reducible apply issue_keeps
    | with_reducible apply coreEff_keeps

theorem execVfma_keeps (hm : Sub 0x10468000 M) (c : CoreId) (vd : BitVec 5) (va : BitVec 5) (vb : BitVec 5)
    (vc : BitVec 5) (h : Keeps M s t) :
    KeepsR M s (execVfma c vd va vb vc t) := by
  unfold execVfma
  repeat' first
    | with_reducible assumption
    | with_reducible exact Keeps.refl _
    | with_reducible exact Or.inr rfl
    | with_reducible apply lanes_keeps

theorem execVadd_keeps (hm : Sub 0x10468000 M) (c : CoreId) (vd : BitVec 5) (va : BitVec 5) (vb : BitVec 5)
    (h : Keeps M s t) :
    KeepsR M s (execVadd c vd va vb t) := by
  unfold execVadd
  repeat' first
    | with_reducible assumption
    | with_reducible exact Keeps.refl _
    | with_reducible exact Or.inr rfl
    | with_reducible apply lanes_keeps

theorem execVmul_keeps (hm : Sub 0x10468000 M) (c : CoreId) (vd : BitVec 5) (va : BitVec 5) (vb : BitVec 5)
    (h : Keeps M s t) :
    KeepsR M s (execVmul c vd va vb t) := by
  unfold execVmul
  repeat' first
    | with_reducible assumption
    | with_reducible exact Keeps.refl _
    | with_reducible exact Or.inr rfl
    | with_reducible apply lanes_keeps

theorem execVmax_keeps (hm : Sub 0x10468000 M) (c : CoreId) (vd : BitVec 5) (va : BitVec 5) (vb : BitVec 5)
    (h : Keeps M s t) :
    KeepsR M s (execVmax c vd va vb t) := by
  unfold execVmax
  repeat' first
    | with_reducible assumption
    | with_reducible exact Keeps.refl _
    | with_reducible exact Or.inr rfl
    | with_reducible apply lanes_keeps

theorem execVmin_keeps (hm : Sub 0x10468000 M) (c : CoreId) (vd : BitVec 5) (va : BitVec 5) (vb : BitVec 5)
    (h : Keeps M s t) :
    KeepsR M s (execVmin c vd va vb t) := by
  unfold execVmin
  repeat' first
    | with_reducible assumption
    | with_reducible exact Keeps.refl _
    | with_reducible exact Or.inr rfl
    | with_reducible apply lanes_keeps

theorem execVcvt_keeps (hm : Sub 0x10468040 M) (c : CoreId) (sf : BitVec 4) (df : BitVec 4) (smx : Bool)
    (dmx : Bool) (sat : Bool) (sr : Bool) (src : VOp) (sSc : BitVec 17) (dst : VOp) (dSc : BitVec 17)
    (h : Keeps M s t) :
    KeepsR M s (execVcvt c sf df smx dmx sat sr src sSc dst dSc t) := by
  unfold execVcvt
  repeat' first
    | with_reducible assumption
    | with_reducible exact Keeps.refl _
    | ((with_reducible refine hm.of ?_); exact rfl)
    | with_reducible exact Or.inr rfl
    | (with_reducible intro _)
    | (extract_lets +onlyGivenNames v_
       first
       | (have hv_ : Keeps M s v_ := ?_; (on_goal 1 => (clear_value v_; rename' v_ => w_)); (on_goal 2 => (unfold v_; clear v_)))
       | (clear_value v_; rename' v_ => w_))
    | with_reducible apply done_keeps
    | with_reducible apply spWrite_keeps
    | with_reducible apply issue_keeps
    | with_reducible apply coreEff_keeps
    | with_reducible apply setCore_keeps
    | with_reducible apply coreFault_keeps
    | with_reducible apply next_keeps
    | with_reducible exact fault_keeps _
    | (with_reducible refine foldl_keeps (fun _ _ _ => ?_) ?_)
    | (with_reducible refine foldl_keeps1 (fun _ _ _ => ?_) ?_)
    | with_reducible apply id_keeps
    | split

/-- The bit of a part. -/
def Part.index : Part → Nat
  | .dev => 1
  | .sched => 2
  | .out => 3
  | .free => 4
  | .ns => 5
  | .mem => 6
  | .hostMem => 7
  | .tb => 8
  | .clk => 9
  | .regs => 10
  | .place => 11
  | .caps => 12
  | .start => 13
  | .sec => 14
  | .ctxs => 15
  | .doors => 16
  | .paths => 17
  | .cores => 18
  | .ports => 19
  | .evicts => 20
  | .flights => 21
  | .run => 22
  | .rcpt => 23
  | .cons => 24
  | .slots => 25
  | .queues => 26
  | .stages => 27
  | .stats => 28
  | .layers => 29
  | .upd => 30
  | .commit => 31
  | .ckpt => 32
  | .offices => 33
  | .links => 34
  | .linkCtr => 35
  | .e2e => 36
  | .hdi => 37
  | .bundles => 38
  | .sites => 39
  | .hubs => 40
  | .pwr => 41
  | .pins => 42
  | .sh => 43

/-- A part that is not in `M` is the same. -/
theorem Keeps.same {p : Part} (h : Keeps M s t) (hp : M.testBit p.index = false) : p.same s t := by
  cases p <;> simp only [Part.index] at hp <;> simp only [Part.same]
  · exact h.dev.resolve_left (by simp [hp])
  · exact h.sched.resolve_left (by simp [hp])
  · exact h.out.resolve_left (by simp [hp])
  · exact h.free.resolve_left (by simp [hp])
  · exact h.ns.resolve_left (by simp [hp])
  · exact h.mem.resolve_left (by simp [hp])
  · exact h.hostMem.resolve_left (by simp [hp])
  · exact h.tb.resolve_left (by simp [hp])
  · exact h.clk.resolve_left (by simp [hp])
  · exact h.regs.resolve_left (by simp [hp])
  · exact h.place.resolve_left (by simp [hp])
  · exact h.caps.resolve_left (by simp [hp])
  · exact h.start.resolve_left (by simp [hp])
  · exact h.sec.resolve_left (by simp [hp])
  · exact h.ctxs.resolve_left (by simp [hp])
  · exact h.doors.resolve_left (by simp [hp])
  · exact h.paths.resolve_left (by simp [hp])
  · exact h.cores.resolve_left (by simp [hp])
  · exact h.ports.resolve_left (by simp [hp])
  · exact h.evicts.resolve_left (by simp [hp])
  · exact h.flights.resolve_left (by simp [hp])
  · exact h.run.resolve_left (by simp [hp])
  · exact h.rcpt.resolve_left (by simp [hp])
  · exact h.cons.resolve_left (by simp [hp])
  · exact h.slots.resolve_left (by simp [hp])
  · exact h.queues.resolve_left (by simp [hp])
  · exact h.stages.resolve_left (by simp [hp])
  · exact h.stats.resolve_left (by simp [hp])
  · exact h.layers.resolve_left (by simp [hp])
  · exact h.upd.resolve_left (by simp [hp])
  · exact h.commit.resolve_left (by simp [hp])
  · exact h.ckpt.resolve_left (by simp [hp])
  · exact h.offices.resolve_left (by simp [hp])
  · exact h.links.resolve_left (by simp [hp])
  · exact h.linkCtr.resolve_left (by simp [hp])
  · exact h.e2e.resolve_left (by simp [hp])
  · exact h.hdi.resolve_left (by simp [hp])
  · exact h.bundles.resolve_left (by simp [hp])
  · exact h.sites.resolve_left (by simp [hp])
  · exact h.hubs.resolve_left (by simp [hp])
  · exact h.pwr.resolve_left (by simp [hp])
  · exact h.pins.resolve_left (by simp [hp])
  · exact h.sh.resolve_left (by simp [hp])

end Sys2Proof.Machine
end

