-- ==== Sys2Proof/Tests/Slice0.lean ====
section
/-! SUPPORT. Tests on the spec's worked cases and on small states of one step, and for every statement a named witness that
its hypotheses can be met. -/

namespace Sys2Proof.Tests

open Sys2Proof Sys2Proof.Machine

/-! ### Well-formedness: one ill-formed command for each check -/

def absentCore : CoreId := 0xA00
def okPacket : Packet := { hdr := 0, data := List.replicate 48 0 }
def shortPacket : Packet := { hdr := 0, data := List.replicate 47 0 }
def longPacket : Packet := { hdr := 0, data := List.replicate 4144 0 }
/-- A flit of seven slots of `n` bytes. -/
def someFlit (n : Nat) : Flit :=
  { hdr := 0, fecOk := true, fecFix := 0, crcOk := true, gcmOk := true, slots := List.replicate 7 (List.replicate n 0) }

theorem test_wf_core : wellFormed (.add absentCore 0) = false ∧ wellFormed (.mmaAccumulate absentCore) = false ∧
    wellFormed (.vadd absentCore 0 0 0) = false ∧ wellFormed (.envelopeRetry absentCore 0) = false ∧
    wellFormed (.add 0x9F0 0) = true := by decide

theorem test_wf_packet : wellFormed (.rsp 0 shortPacket) = false ∧ wellFormed (.piece 0 longPacket ⟨none, noEcc⟩) = false ∧
    wellFormed (.rsp 0 okPacket) = true ∧ wellFormed (.flitReceived 0 (someFlit 63)) = false ∧
    wellFormed (.flitReceived 0 (someFlit 64)) = true := by decide +kernel

theorem test_wf_guest : wellFormed (.guestRequest 0 (.envelope 0 0 (List.replicate 257 0))) = false ∧
    wellFormed (.guestRequest 0 (.read 0 65537)) = false ∧ wellFormed (.guestRequest 0 (.read 0 65536)) = true ∧
    wellFormed (.guestRequest 0 (.mso 0 1 2 false (List.replicate 15 0))) = false := by decide +kernel

theorem test_wf_access : wellFormed (.bar2Access true 0 8 [0] noEcc) = false ∧ wellFormed (.bar2Access true 0 1 [0] noEcc) = true ∧
    wellFormed (.registerWrite false 0 2 0) = false ∧ wellFormed (.registerWrite false 0 8 0) = true ∧
    wellFormed (.hdiRetrainDone 0 0 [(true, 528)] false) = false ∧ wellFormed (.hdiRetrainDone 0 0 [(true, 527)] false) = true := by decide

/-! ### Numbers: worked cases of chapters 2, 4, 5, 6 and 10 -/

/-- R26: a postmark just before the wrap is earlier than 0. -/
theorem test_postmark_wraps : pmLt 0xFFFFFFFFFFFFFFFF 0 = true ∧ pmLt 0 0xFFFFFFFFFFFFFFFF = false ∧ pmLt 5 5 = false := by decide

/-- The E4M3 block of chapter 4: amax 20.0 gives scale byte 0x7B; 20.0 gives code 0x7A, -1.0 code 0xD8, 0.03 code 0x2F. -/
theorem test_mx_e4m3 : ((convMx 4 false [.fin false 20 0, .fin true 1 0, decodeF fFP32 0x3CF5C28F]).1 = 0x7B) ∧
    ((convMx 4 false [.fin false 20 0, .fin true 1 0, decodeF fFP32 0x3CF5C28F]).2.1.map (·.code) = [0x7A, 0xD8, 0x2F]) := by
  decide +kernel

/-- The Q4X group of chapter 4: scale 0.0625, zero point 7, escapes -3.5 and 12.0. -/
def q4Header : List Byte := [0x80, 0x3D, 0x07, 0x02, 0x60, 0xC0, 0x40, 0x41, 0, 0, 0, 0]

theorem test_q4x_decode : ((q4Codes (q4Hdr false q4Header) 0 [7, 9, 15, 14, 0, 15, 8, 6]).map
      fun v => (round32 false v.1).code) =
    [0, 0x3E000000, 0xC0600000, 0x3EE00000, 0xBEE00000, 0x41400000, 0x3D800000, 0xBD800000] ∧
    (q4Codes (q4Hdr false q4Header) 0 [15, 15, 15]).map Prod.snd = [0, 0, fQ4xBad] := by decide +kernel

/-- The BF16 K-group of chapter 5. -/
def groupOf : List Val :=
  products ([0x4200, 0xC180, 0x4100, 0x3F00, 0x3B80, 0x4040, 0xB680, 0x0000].map (decodeF fBF16))
    ([0x4200, 0x4180, 0x4080, 0x3E80, 0x3C00, 0xBF80, 0x3700, 0x40A0].map (decodeF fBF16))

/-- Aligned: a' = 797.125 + 2^-14 and c' = -2^-15. -/
theorem test_group_aligned : (accumulateW false 0 0 (alignedGroup groupOf)).1 = 0x44474801 ∧
    (accumulateW false 0 0 (alignedGroup groupOf)).2.1 = 0xB8000000 := by decide +kernel

/-- Ledger: the same leading part, and the compensation keeps the small product: -2^-15 - 2^-35. -/
theorem test_group_ledger : codeOf fFP32 (ledgerGroup false ⟨Val.zero, Val.zero, 0, false⟩ groupOf).a = 0x44474801 := by
  decide +kernel

/-- The overflow of chapter 5: (2^127, +0) and G = 1.5 * 2^127 repeat once and leave 1.25 * 2^120 with tag 0x50. -/
theorem test_overflow_repeats :
    let m : AccMode := { int := false, sat := false, audit := false, ftz := false, ifmt := 8 }
    let r := accumulateSet m 3 0 [0x7F00000000000000] [[.fin false 3 126]] 0
    r.ents = [0x7BA0000000000000] ∧ r.rep = 1 ∧ passTag m 0x40 r = 0x50 := by decide +kernel

/-- The Q4X group of chapter 6: scale 0.25 (0x3E80), zero point 3, escapes for channels 193 and 210. -/
def boundsOf (i : Nat) : ChBound :=
  { lo := .fin true 3 (-2), hi := if i = 5 then .fin false 11 (-2) else .fin false 2 0, pinned := i == 8 }
def rowOf (i : Nat) : Val :=
  match i with
  | 0 => decodeF fFP32 0x3E99999A
  | 1 => .fin true 7 (-3)
  | 5 => decodeF fFP32 0x40266666
  | 8 => decodeF fFP32 0x40833333
  | 18 => .fin false 25 (-3)
  | _ => Val.zero

def groupBytes : List Byte :=
  let g := fitQ4Group ((List.range 64).map boundsOf) ((List.range 64).map fun i => (rowOf i, 0))
  packQ4 g.1 g.2.1 g.2.2

theorem test_q4x_group : groupBytes.take 12 = [0x80, 0x3E, 0x03, 0x02, 0x60, 0xBF, 0x48, 0x40, 0, 0, 0, 0] ∧
    (groupBytes.drop 12).take 10 = [0xF4, 0x33, 0xD3, 0x33, 0x3E, 0x33, 0x33, 0x33, 0x33, 0x3F] ∧ groupBytes.length = 44 := by
  decide +kernel

/-- R215: with key 0x0000_0003_0000_0005 the address 0x40_0003_2A10 lies on pseudo-channel 0x38. -/
theorem test_hbm_place : hbmPlace 0x0000000300000005 0x4000032A10 = 0x38 := by decide

/-! ### A small package for the witnesses

Core 0 runs a stream; umbel 0 is core 0 with receipts 0 to 3 and a release table of one entry `r`; context 0 is the image
context with key 1, and a region of hub 0 gives that key unit 0. -/

/-- An image with nothing in it. -/
def img0 : Image :=
  { sections := [], secBytes := 0, placement := 0, needCores := 0, needDies := 0, needHbm := 0, stepBeats := 0, streams := [],
    envBlocks := [], rels := [], umbels := [], plans := [], collHubs := [], colls := [], budgets := [], queues := [],
    rcptDescs := [], ckptRec := none, editions := [], guars := [], rtHdr := 0, flows := [], consFlow := [], xferFlow := [],
    hostFlow := [], hkeys := [], spareMap := [], layers := [], upd := none, latitude := 0, signature := 0 }

/-- Umbel 0: used, first core 0, one core, receipts 0 to 3, one release. -/
def um0 : BitVec 256 := (1 <<< 222) ||| (1 <<< 177) ||| (4 <<< 148) ||| (1 <<< 67)

/-- Release `action` at the base of its step, with `no_wait`. -/
def rel0 (action object arg : BitVec 256) : BitVec 256 := (action <<< 184) ||| (1 <<< 183) ||| (object <<< 96) ||| arg

def img1 (r : BitVec 256) : Image := { img0 with umbels := [(0, um0)], rels := [r] }

/-- Every clock domain runs and shows `pm`. -/
def clocksAt (pm : Pm) : Clocks :=
  let c := { Ctr.reset with on := true, loaded := true, pm := pm }
  { Clocks.reset with clDef := c, otherDef := c }

/-- A package whose schedule runs image `im`. -/
def running (im : Image) : State :=
  { State.reset with
    dev := .ready, sched := .running
    tb := { Timebase.reset with st := .locked }, clk := clocksAt 0
    ctxs := [(0, { Ctx.reset0 with cfg := 0xE000000004000000 })]
    hubs := [(0, { HubMem.reset with regions := [(0, (1 <<< 48) ||| (7 <<< 45))] })]
    run := { Run.reset with image := some im } }

def core1 : Core := { Core.reset with phase := .running }
def withCore (s : State) (k : Core) : State := { s with cores := [(0, k)] }
def withPort (s : State) (p : Port) : State := { s with ports := [(0, p)] }

/-- The package with core 0 as `k`, and nothing loaded. -/
def tCore (k : Core) : State := withCore { State.reset with dev := .ready } k

/-- The fields `rd`, `ra` and `rb` of an SCU word. -/
def w3 (d a b : W56) : W56 := (d <<< 51) ||| (a <<< 46) ||| (b <<< 41)

/-! ### Witnesses: the machine as a whole -/

theorem witness_StepRunsFrontCommand : { State.reset with pending := [.idcode] }.pending = .idcode :: [] := rfl
theorem witness_IdleStepIsOneNanosecond : State.reset.pending = [] := rfl
theorem witness_EveryStepKeepsMemoryCanonical : memoryOk State.reset ∧ ∃ t, step State.reset = .next t :=
  ⟨⟨by decide, by decide⟩, _, rfl⟩
theorem witness_CommandsChangeOnlyTheirParts : ∃ t, exec .idcode State.reset = .next t := ⟨_, rfl⟩
/-- The last cluster that exists. -/
theorem witness_OnlyAbsentCoresStopTheMachine : wellFormed (.add 0x19FF 0) = true := by decide

/-! ### Witnesses: the scalar control unit -/

/-- A core that owes s1 a drain's tag. -/
def owing : Core := { core1 with drainQ := [⟨0, 1 <<< 39, 0⟩] }

theorem witness_InstructionWaitsUntilItMayIssue :
    issueForm (.addi 0 (w3 1 1 0)) = some ⟨0, 0, [1]⟩ ∧ coreExists 0 = true ∧
    (coreOf (tCore Core.reset) 0).phase ≠ .running ∧
    holdMet (tCore { core1 with hold := .pm 1 }) 0 (coreOf (tCore { core1 with hold := .pm 1 }) 0) = false ∧
    (coreOf (tCore owing) 0).pc.toNat < 2048 ∧ [1].any (regPending (coreOf (tCore owing) 0)) = true := by decide +kernel

theorem witness_ReservedBitsAndStoreEndFaultAtIssue :
    issueForm (.nop 0 1) = some ⟨0, 1, []⟩ ∧ canIssue (tCore { core1 with pc := 2047 }) 0 [] ∧
    coreReady (tCore { core1 with pc := 2048 }) 0 ∧ 2048 ≤ (coreOf (tCore { core1 with pc := 2048 }) 0).pc.toNat := by
  unfold canIssue coreReady; decide +kernel

theorem witness_ScalarRegisterZeroReadsZero : (31 : BitVec 5) ≠ 0 ∧ (31 : BitVec 5) ≠ 1 ∧ tabWf 0 Core.reset.s = true := by decide

def loop1 (last : BitVec 12) (left : BitVec 16) : LoopEnt := ⟨0, last, left⟩

theorem witness_BranchesAndLoops :
    (∃ e : LoopEnt, { core1 with loops := [e] }.loops = [e] ∧ e.last ≠ core1.pc) ∧
    ((loop1 0 2).last = core1.pc ∧ 1 < (loop1 0 2).left.toNat) ∧
    ((loop1 0 1).last = core1.pc ∧ (loop1 0 1).left.toNat ≤ 1 ∧ (loop1 1 1).last ≠ core1.pc) ∧
    canIssue (tCore core1) 0 [1] ∧ w3 0 1 0 &&& ~~~(mRa ||| mTarget) = 0 ∧ w3 0 1 0 &&& ~~~mRa = 0 ∧
    canIssue (tCore core1) 0 [] ∧ (0x7FF : W56) &&& ~~~mTarget = 0 ∧
    (0x7FFFFFF : W56) &&& ~~~(0x7FFFFFF : W56) = 0 ∧
    (((scuEnd 0).setWidth 12 : BitVec 12).toNat ≤ (issued (tCore core1) 0).pc.toNat) ∧
    ((issued (tCore core1) 0).pc.toNat < ((scuEnd 1).setWidth 12 : BitVec 12).toNat ∧ scuCount 1 = 0) ∧
    (scuCount 0x801 ≠ 0 ∧ (issued (tCore { core1 with loops := [loop1 5 1] }) 0).loops.length < 2) ∧
    (canIssue (tCore { core1 with loops := [loop1 5 1, loop1 6 1] }) 0 [] ∧
      2 ≤ (issued (tCore { core1 with loops := [loop1 5 1, loop1 6 1] }) 0).loops.length) := by
  refine ⟨⟨loop1 1 1, ?_⟩, ?_⟩
  · decide
  · unfold canIssue coreReady; decide +kernel

theorem witness_ScalarInstructionsWriteTheirResult :
    canIssue (tCore core1) 0 [31, 31] ∧ w3 31 31 31 &&& ~~~(mRd ||| mRa ||| mRb) = 0 ∧ canIssue (tCore core1) 0 [31] ∧
    (w3 31 31 0 ||| 0xFFFFFFFF) &&& ~~~(mRd ||| mRa ||| mImm32) = 0 ∧ canIssue (tCore core1) 0 [] ∧
    (w3 31 0 0 ||| 0x1FFFFFFFFFF) &&& ~~~(mRd ||| mImm41) = 0 ∧ w3 31 0 0 &&& ~~~mRd = 0 ∧
    ((0x3FFF <<< 42 ||| 0x1F <<< 37 : W56) &&& ~~~(mRcpt ||| (0x1F <<< 37)) = 0) := by
  unfold canIssue coreReady; decide +kernel

theorem witness_ScalarLoadsAndStores :
    canIssue (tCore core1) 0 [1] ∧ canIssue (tCore core1) 0 [1, 2] ∧
    (w3 31 1 0 ||| 0x1FFFF) &&& ~~~(mRd ||| mRa ||| mOff) = 0 ∧ (w3 0 1 2 ||| 0x1FFFF) &&& ~~~(mRa ||| mRb ||| mOff) = 0 ∧
    (let at_ := fun (a : Word) => sreg (issued (tCore { core1 with s := [(1, a)] }) 0) 1
     (at_ 131073).toNat % 8 ≠ 0 ∧ ((at_ 131072).toNat % 8 = 0 ∧ 131072 ≤ (at_ 131072).toNat) ∧
     (at_ 131064).toNat % 8 = 0 ∧ (at_ 131064).toNat < 131072) ∧
    Memory.wf (tCore core1).mem = true := by
  unfold canIssue coreReady; decide +kernel

def inHandler (add idle : Bool) : Core := { core1 with handler := some ⟨0, .none, idle, add, 0⟩ }
def start0 : StartEnt := ⟨0, ⟨0, 0, false, .service, 0⟩, 0⟩

theorem witness_WaitsAndEndsOfStreams :
    canIssue (tCore core1) 0 [] ∧ (0xF : W56) &&& ~~~(0xF : W56) = 0 ∧ canIssue (tCore core1) 0 [1] ∧ w3 0 1 0 &&& ~~~mRa = 0 ∧
    (0xFFFE00FFFFFFFF : W56) &&& ~~~(mRcpt ||| (1 <<< 41) ||| mImm32) = 0 ∧
    (canIssue (tCore (inHandler true true)) 0 [] ∧ (issued (tCore (inHandler true true)) 0).handler.isSome = true) ∧
    ((issued (tCore core1) 0).handler = none ∧ (advance (issued (tCore core1) 0)).startQ = []) ∧
    ((issued (tCore { core1 with startQ := [start0] }) 0).startQ = start0 :: [] ∧
      (portOf (tCore { core1 with startQ := [start0] }) 0).pillar = []) ∧
    (issued (tCore (inHandler false false)) 0).handler = some ⟨0, .none, false, false, 0⟩ ∧
    (let s := withCore (running (img1 0)) (inHandler true false)
     canIssue s 0 [] ∧ (issued s 0).handler = some ⟨0, .none, false, true, 0⟩ ∧ mayAdd s 0 0 = true) := by
  unfold canIssue coreReady; decide +kernel

/-! ### Witnesses: the core's engines -/

def fullPort : Port := { Port.reset with outbox := (List.range 16).map fun i => (i, some ⟨0, 0, 0, none⟩) }

/-- Core 0 of umbel 0, with `a` in s1 and `b` in s2, and an envelope header of version 1 at scratchpad address 0. -/
def sender (a b : Word) : State :=
  { withCore (running (img1 0)) { core1 with s := [(1, a), (2, b)] } with mem := [(0x02000000003F, 1)] }

/-- RCPT.ADD of receipt `r`, increment in s1, remote package in s2. -/
def wRcpt (r : W56) (remote : Bool) : W56 := (r <<< 42) ||| (1 <<< 37) ||| if remote then (2 <<< 32) ||| (1 <<< 31) else 0

theorem witness_EnvelopeInstructions :
    (let s := withPort (sender 0 0) fullPort; canIssue s 0 [1] ∧ freeEntry (portOf s 0) = none) ∧
    (let s := sender 1 0; freeEntry (portOf s 0) = some 0 ∧ sendFault s 0 1 = some eAlign) ∧
    (let s := sender 0 0; freeEntry (portOf s 0) = some 0 ∧ sendFault s 0 0 = none ∧ ehDstPkg (hdrAt s 0 0) = s.place.addr) ∧
    ((0xF <<< 52 ||| w3 0 1 0) &&& ~~~((0xF <<< 52) ||| mRa) = 0 ∧ (w3 0 1 0 ||| 1) &&& ~~~(mRa ||| 1) = 0) ∧
    tabWf 0 (portOf (sender 0 0) 0).blk.ents = true ∧
    (canIssue (sender 0 0) 0 ([rcReg (wRcpt 0 true)] ++ if rcRemote (wRcpt 0 true) then [rcPkg (wRcpt 0 true)] else []) ∧
      canIssue (sender 0 0) 0 ([rcReg (wRcpt 0 false)] ++ if rcRemote (wRcpt 0 false) then [rcPkg (wRcpt 0 false)] else []) ∧
      wRcpt 3 true &&& ~~~(mRcpt ||| (0x1F <<< 37) ||| (0x1F <<< 32) ||| (1 <<< 31)) = 0) ∧
    (let inc := fun (a : Word) => sreg (issued (sender a 0) 0) (rcReg (wRcpt 0 true))
     inc 0 = 0 ∧ 2 ^ 31 ≤ (inc 0x80000000).toNat ∧ 0 < (inc 1).toNat ∧ (inc 0x7FFFFFFF).toNat < 2 ^ 31) ∧
    (let pkg := fun (b : Word) => sreg (issued (sender 1 b) 0) (rcPkg (wRcpt 0 true))
     ¬ (pkg 0x8000).toNat < 2 ^ 15 ∧ (pkg 0x7FFF).toNat < 2 ^ 15 ∧ BitVec.ofNat 15 (pkg 0x7FFF).toNat ≠ (sender 1 1).place.addr ∧
     BitVec.ofNat 15 (pkg 0).toNat = (sender 1 0).place.addr) ∧
    (rcRemote (wRcpt 0 false) = false ∧ mayAdd (sender 0 0) 0 (scuRcpt (wRcpt 3 false)) = true ∧
      mayAdd (sender 0 0) 0 (scuRcpt (wRcpt 4 false)) = false) := by
  unfold canIssue coreReady; decide +kernel

def swaps (n : Nat) : Core := { core1 with mxaQ := List.replicate n (.swap 0) }
/-- A drain of number `n` waits beside a swap of number 0. -/
def swapsAfter (n : Nat) : Core := { core1 with mxaQ := [.swap 0], drainQ := [⟨n, 0, 0⟩] }
def drains (n : Nat) : Core := { core1 with drainQ := List.replicate n ⟨0, 0, 0⟩ }

/-- An ACC.DRAIN of FP32 with stride 32 bytes and no epilogue. -/
def wDrain : W56 := (8 <<< 52) ||| (8 <<< 13)

theorem witness_ArrayInstructionsEnterTheirQueue :
    (canIssue (tCore (swaps 8)) 0 [] ∧ 8 ≤ (issued (tCore (swaps 8)) 0).mxaQ.length) ∧
    (canIssue (tCore (swaps 7)) 0 [] ∧ (issued (tCore (swaps 7)) 0).mxaQ.length < 8 ∧
      mmaFault (issued (tCore (swaps 7)) 0) 1 = some eReserved) ∧
    (mmaFault (issued (tCore (swaps 7)) 0) (1 <<< 47) = none ∧ mmaAShift (1 <<< 47) = 0) ∧
    (canIssue (tCore (drains 4)) 0 [] ∧ 4 ≤ (issued (tCore (drains 4)) 0).drainQ.length) ∧
    (drRsc wDrain = false ∧ canIssue (tCore (drains 3)) 0 [] ∧ (issued (tCore (drains 3)) 0).drainQ.length < 4 ∧
      drainFault (issued (tCore (drains 3)) 0) (3 <<< 52) = some eFormat ∧
      drainFault (issued (tCore (drains 3)) 0) wDrain = none) := by
  unfold canIssue coreReady; decide +kernel

theorem witness_ArrayEnginesAdvance :
    coreExists 0 = true ∧ (∃ q, (coreOf (tCore { core1 with mxaQ := [.mma 0 0 0 false [] [] [] [] []] }) 0).mxaQ =
      .mma 0 0 0 false [] [] [] [] [] :: q) ∧ (coreOf (tCore (swaps 1)) 0).mxaQ = .swap 0 :: [] ∧
    (∀ e ∈ (coreOf (tCore (swaps 1)) 0).drainQ, 0 < e.seq) ∧ (∃ e ∈ (swapsAfter 0).drainQ, e.seq ≤ 0) ∧
    ((coreOf (tCore (drains 1)) 0).drainQ = ⟨0, 0, 0⟩ :: [] ∧ swapsDone 0 (coreOf (tCore (drains 1)) 0).mxaQ = true) ∧
    ((swapsAfter 1).drainQ = ⟨1, 0, 0⟩ :: [] ∧ swapsDone 1 (swapsAfter 1).mxaQ = false) ∧
    (drEpi (1 <<< 50) = 1 ∧ drEpi (2 <<< 50) = 2) ∧ (∃ w, drRsc w = true) ∧
    (∃ j : DrainJob, (coreOf (tCore { core1 with drain := [j] }) 0).drain = j :: []) := by
  refine ⟨by decide, ⟨[], by decide⟩, by decide, by decide, ⟨⟨0, 0, 0⟩, by decide⟩, by decide, by decide, by decide, ?_, ⟨⟨0, [], 0, [], []⟩, by decide⟩⟩
  exact ⟨BitVec.allOnes 56, by decide⟩

theorem witness_VectorInstructions :
    canIssue (tCore core1) 0 [] ∧ (0x1FFE0 : BitVec 17).toNat % 64 ≠ 0 ∧ (0x1FFC0 : BitVec 17).toNat % 64 = 0 ∧
    Memory.wf (tCore core1).mem = true ∧ 10 ≤ (10 : BitVec 4).toNat ∧ (7 : BitVec 4).toNat < 8 ∧
    ((0x1FF00 : BitVec 17).toNat + (255 : BitVec 14).toNat + 1 ≤ 131072 ∧ (126 : BitVec 7).toNat * 128 + 255 + 1 ≤ 16384) ∧
    131072 < (0x1FF00 : BitVec 17).toNat + (256 : BitVec 14).toNat + 1 ∧
    16384 < (127 : BitVec 7).toNat * 128 + (128 : BitVec 14).toNat + 1 := by
  unfold canIssue coreReady; decide +kernel

theorem witness_MatrixVectorAndConversions :
    canIssue (tCore core1) 0 [] ∧ mvFault (issued (tCore core1) 0) (1 <<< 7) = some eReserved ∧
    mvFault (issued (tCore core1) 0) (1 <<< 47) = none ∧ 9 ≤ (9 : BitVec 4).toNat ∧ (8 : BitVec 4).toNat < 9 ∧
    131072 < (0x1FFF0 : BitVec 17).toNat + fmtBytes 8 5 ∧ (0x1FFF0 : BitVec 17).toNat + fmtBytes 8 4 ≤ 131072 ∧
    cvtFormatBad 9 9 false false (.sp 0) (.sp 0) = true ∧ cvtFormatBad 9 8 false false (.sp 0) (.reg 0) = false ∧
    cvtFormatBad 8 8 false false (.sp 0x1FFC0) (.reg 0) = false ∧
    (0x1FFC1 : BitVec 17).toNat + cvtBytes 8 (cvtCount 8 false false) > 131072 ∧
    (0x1FFC0 : BitVec 17).toNat + cvtBytes 8 (cvtCount 8 false false) ≤ 131072 := by
  unfold canIssue coreReady; decide +kernel

/-- An XFER of 16 bytes: address in s1, scratchpad address in s2. -/
def wXfer : W56 := (1 <<< 45) ||| (2 <<< 40)
def xfer0 (out istore : Bool) : Xfer := ⟨0, out, 0, 0, false, istore, 0, 0, 16, 0, false, false⟩
def withXfer (x : Xfer) : State := withPort (sender 0 0) { Port.reset with xfers := [x] }
def statusXfer : Xfer := { xfer0 true false with addr := 0x040000000000 }
def mso0 : Mso := ⟨0, 1, 2, false, false, 0, List.replicate 16 0, 0, 0⟩
def withMso (flushing : Bool) : State :=
  { withXfer (xfer0 false false) with hubs := [(0, { HubMem.reset with msos := [mso0], flushing := flushing })] }
/-- Cache slice 0 is live. -/
def cached : State := { withXfer (xfer0 false false) with caps := { Caps.reset with llmLive := 1 } }
/-- XFER.OUT as a memory-side add of 32-bit integers. -/
def wMso : W56 := wXfer ||| (1 <<< 54) ||| (2 <<< 52)

theorem witness_TransfersMoveBytes :
    canIssue (sender 0xFFF0 0x1FFF0) 0 [xfRa wXfer, xfRs wXfer] ∧
    xferFault (sender 0xFFF8 0) 0 false wXfer 0xFFF8 0 16 = some eAlign ∧
    xferFault (sender 0x10000 0) 0 true wXfer 0x10000 0 16 = some eKey ∧
    xferFault (sender 0xFFF0 0x1FFF0) 0 false wXfer 0xFFF0 0x1FFF0 16 = none ∧
    xferFault (sender 0xFFF0 0x1FFF0) 0 true wXfer 0xFFF0 0x1FFF0 16 = none ∧
    xferFault (sender 0xFFF0 0x1FFF0) 0 true wMso 0xFFF0 0x1FFF0 16 = none ∧ xfMop wMso ≠ 0 ∧ ((xfLen wMso).toNat + 1) * 16 = 16 ∧
    (coreExists 0 = true ∧ (portOf (sender 0 0) 0).xfers = []) ∧
    (let s := withXfer (xfer0 false false)
     (portOf s 0).xfers = xfer0 false false :: [] ∧ (xfer0 false true).mop = 0 ∧ msosLeft s 0 (xfer0 false false) = false ∧
      hbmWaits s 0 16 = false ∧ (coreOf s 0).phase ≠ .retired ∧ (coreOf s 0).phase ≠ .faulted ∧
      xferLost s (xfer0 false false) = false ∧ inStatus (xfer0 true false).addr.toNat = false ∧
      inStatus statusXfer.addr.toNat = true) ∧
    msosLeft (withMso false) 0 (xfer0 false false) = true ∧ hbmWaits (withMso true) 0 16 = true ∧
    (let s := withMso false
     (hubOf s 0).msos = mso0 :: [] ∧ mso0.data.length = 16 ∧ mso0.mop = 1 ∧ mso0.mtype = 2 ∧ mso0.sat = false ∧
      tabWf HubMem.reset s.hubs = true ∧ (hubOf s 0).flushing = false ∧ touchesRetired s 0 16 = false ∧
      touchesPoison s 0 16 false = false ∧ msoLanes s 0 (msoStack s mso0) ≠ 0) ∧
    (Memory.wf cached.mem = true ∧ touchesRetired cached 15 1 = false ∧ 15 < (xfer0 false false).addr.toNat + 16 ∧
      cacheSlice cached 15 = some 0) := by
  unfold canIssue coreReady; decide +kernel

/-! ### Witnesses: releases, preemption, envelopes, receipts, consignments -/

/-- A package whose umbel 0 comes to `r`, the first of `n` releases. -/
def due (n : BitVec 256) (r : BitVec 256) : State :=
  running { img1 r with umbels := [(0, um0 + ((n - 1) <<< 67))], colls := [1 <<< 480] }

def isDue (s : State) (r : BitVec 256) : Bool := nextRel s 0 == some r && releasesOn s 0 && relDue s 0 r

/-- Slot 0 of core 0 is armed with scratchpad address 0, where a header of version 1 stands. -/
def armed (r : BitVec 256) : State :=
  { withPort (due 1 r) { Port.reset with slots := [(0, some 0)] } with mem := [(0x02000000003F, 1)] }

/-- An update section of one program word, one entry, and a commit record. -/
def upd0 (w : BitVec 32) (e : BitVec 512) (c : BitVec 256) : UpdSection :=
  { seed := 0, version := 1, lsInit := 0, rsv := 0, commit := c, progs := [(0, w)], hyper := [], entries := [e] }

def commits (r c : BitVec 256) : State := running { img1 r with upd := some (upd0 0 0 c) }

theorem witness_ReleasesFireWhenDue :
    (∀ i : Fin 8, isDue (due 1 (rel0 (BitVec.ofNat 256 (i.val + 1)) 1 0)) (rel0 (BitVec.ofNat 256 (i.val + 1)) 1 0) = true ∧
      (relAction (rel0 (BitVec.ofNat 256 (i.val + 1)) 1 0)).toNat = i.val + 1) ∧
    isDue (due 2 (rel0 1 0 0)) (rel0 1 0 0) = true ∧
    (relOf (due 2 (rel0 1 0 0)) 0).idx + 1 < (umRelCount (umbelOf (due 2 (rel0 1 0 0)) 0)).toNat ∧
    (umRelCount (umbelOf (due 1 (rel0 1 0 0)) 0)).toNat ≤ (relOf (due 1 (rel0 1 0 0)) 0).idx + 1 ∧
    (collEntry (due 1 (rel0 3 1 0)) 1 = some (1 <<< 480) ∧ findColl (officeOf (due 1 (rel0 3 1 0)) 0) (0, 1) = none) ∧
    (umFirst (umbelOf (due 1 (rel0 4 0 0)) 0) = 0 ∧ tget none (portOf (due 1 (rel0 4 0 0)) 0).slots 0 = none) ∧
    (isDue (armed (rel0 4 0 0)) (rel0 4 0 0) = true ∧ tget none (portOf (armed (rel0 4 0 0)) 0).slots 0 = some 0 ∧
      freeEntry (portOf (armed (rel0 4 0 0)) 0) = some 0 ∧ sendFault (armed (rel0 4 0 0)) 0 0 = none) ∧
    (commitRec (due 1 (rel0 6 0 0)) = none ∧ ckptRec (due 1 (rel0 7 0 0)) = none) := by decide +kernel

theorem witness_ReleasesFireWhenDue_rounds :
    (isDue (commits (rel0 6 0 0) 0) (rel0 6 0 0) = true ∧ commitRec (commits (rel0 6 0 0) 0) = some 0 ∧
      roundOpen (commits (rel0 6 0 0) 0) = false) ∧
    roundOpen { commits (rel0 6 0 0) 0 with commit := { Commit.reset with phase := .open_ } } = true ∧
    (ckptRec (running { img1 (rel0 7 0 0) with ckptRec := some 0 }) = some 0 ∧
      cutDue (relFired (running { img1 (rel0 7 0 0) with ckptRec := some 0 }) 0 (rel0 7 0 0)) 0 0 = false) ∧
    boundaryDue (due 1 (rel0 8 0 0)) 0 = true := by decide +kernel

/-- A package whose latitude block gives a stall of one beat; its clocks show beat `b`. -/
def stalls (b : Pm) (told : Nat) : State :=
  let s := running { img1 (rel0 1 0 0) with latitude := 1 <<< 88, stepBeats := 4 }
  { s with clk := clocksAt (b <<< 24), run := { s.run with rel := [(0, { Rel.reset with stalled := told })] } }

def evict0 (p : EvictPhase) : Evict :=
  { umbel := 0, owner := 0, by_ := 0, byOwner := 0, phase := p, at_ := 0, atNs := 0, drainNs := 0, starts := [], again := [],
    cores := [], ports := [], bytes := [] }
def evicting (p : EvictPhase) (k : Core) : State := { withCore (running (img1 0)) k with evicts := [evict0 p] }

/-- A schedule that comes to the cut of step 0, whose boundary is held. -/
def cutNow : State :=
  let s := running { img1 (rel0 7 0 0) with ckptRec := some ((1 <<< 240) ||| (63 <<< 234) ||| (63 <<< 132)) }
  { s with run := { s.run with bounds := [⟨0, [], [], 1, 0, []⟩] } }

theorem witness_ReleasesFireWhenDue_cut :
    isDue cutNow (rel0 7 0 0) = true ∧ (relOf cutNow 0).step.toNat ≤ cutNow.run.settled.toNat ∧
    (∃ c b, ckptRec cutNow = some c ∧ cutDue (relFired cutNow 0 (rel0 7 0 0)) c 0 = true ∧ cutNow.ckpt.writing = false ∧
      cutNow.run.bounds.find? (fun b => b.step == 0) = some b ∧
      (let t0 := relFired cutNow 0 (rel0 7 0 0)
       let small := blockBytes t0 + ((carriedSlots t0 b).map fun y => y.2.length).sum
       small ≤ ((ckBuddyGib c).toNat + 1) * 2 ^ 30 ∧ small ≤ ((ckStoreGib c).toNat + 1) * 2 ^ 30)) := by
  refine ⟨by decide +kernel, by decide +kernel, _, _, rfl, by decide +kernel, by decide +kernel, rfl, ?_⟩
  have h : ∀ s, blockBytes s < 2 ^ 32 := fun s => (fld (Config.freeWord (s.free + 2)) 0 32).isLt
  have := h (relFired cutNow 0 (rel0 7 0 0))
  constructor <;> (simp only [carriedSlots, List.filter_nil, List.filterMap_nil, List.map_nil, List.sum_nil]
                   exact Nat.le_trans (Nat.le_of_lt this) (by decide))

theorem witness_PreemptionPassesThroughItsPhases :
    (∃ pm, laterPm (stalls 1 0) 0 (relOf (stalls 1 0) 0).stalled = some pm ∧ releasesOn (stalls 1 0) 0 = true ∧
      0 < (latStallBeats (latitude (stalls 1 0))).toNat ∧
      pmReached (clock (stalls 1 0) (relDom (stalls 1 0) (umbelOf (stalls 1 0) 0)))
        (pm + BitVec.ofNat 64 ((latStallBeats (latitude (stalls 1 0))).toNat * 2 ^ 24)) = true) ∧
    (∃ pm, laterPm (stalls 1 1) 0 (relOf (stalls 1 1) 0).stalled = some pm ∧
      pmReached (clock (stalls 1 1) (relDom (stalls 1 1) (umbelOf (stalls 1 1) 0)))
        (pm + BitVec.ofNat 64 ((latStallBeats (latitude (stalls 1 1))).toNat * 2 ^ 24)) = false) ∧
    laterPm State.reset 0 (relOf State.reset 0).stalled = none ∧
    evictOf State.reset 0 = none ∧
    (∀ p ∈ [EvictPhase.draining, .saved, .handedOver, .restoring],
      evictOf (evicting p Core.reset) 0 = some (evict0 p) ∧ (evict0 p).starts = [] ∧ (evict0 p).again = []) ∧
    (umCores (umbelOf (evicting .draining Core.reset) 0)).all (drained (evicting .draining Core.reset)) = true ∧
    (umCores (umbelOf (evicting .draining (swaps 1)) 0)).all (drained (evicting .draining (swaps 1))) = false ∧
    readyToRestore (evicting .handedOver Core.reset) (evict0 .handedOver) = true := by
  refine ⟨⟨0, by decide +kernel⟩, ⟨0x4000000, by decide +kernel⟩, ?_⟩
  decide +kernel

/-- Handler `n` of core 0 is valid, at word 0. -/
def handles (n : Nat) : Port := { Port.reset with blk := { hdr := 0, ents := [(n, 0x8000)] } }
def flying (f : Flight) (p : Port) : State := { withPort (running (img1 0)) p with flights := [f] }
def env0 (h : BitVec 512) : Flight := .env h [] 0 none
def sent (tries : Nat) (retry : Option Pm) : OutEnt := ⟨0, tries, 0, retry⟩
def sending (tries : Nat) (retry : Option Pm) : Port :=
  { Port.reset with outbox := [(0, some (sent tries retry))], blk := { hdr := 2 <<< 91, ents := [] } }
def waitingEnv : Port := { handles 0 with pillar := [⟨0, [], 0⟩] }

theorem witness_EnvelopesReachTheirHandler :
    ((flying (env0 (63 <<< 496)) (handles 63)).flights[0]? = some (env0 (63 <<< 496)) ∧
      inOrder (flying (env0 (63 <<< 496)) (handles 63)) 0 (63 <<< 496) = true ∧
      (envMember (flying (env0 (63 <<< 496)) (handles 63)) (63 <<< 496) &&
        isGuestDie (flying (env0 (63 <<< 496)) (handles 63)) 0) = false ∧
      envRefused (flying (env0 (63 <<< 496)) (handles 63)) (63 <<< 496) = none ∧
      isGuestDie (flying (env0 (63 <<< 496)) (handles 63)) (dieOf (ehSrcCore (63 <<< 496))) = false) ∧
    envRefused (flying (env0 0) (handles 63)) 0 = some eRange ∧
    ((flying (.ack 0 0) (sending 0 none)).flights[0]? = some (.ack 0 0) ∧
      tget none (portOf (flying (.ack 0 0) (sending 0 none)) 0).outbox 0 = some (sent 0 none)) ∧
    ((flying (.dead 0 0 0) (sending 0 none)).flights[0]? = some (.dead 0 0 0) ∧
      (sent 0 none).tries + 1 < (ebMaxTries (portOf (flying (.dead 0 0 0) (sending 0 none)) 0).blk.hdr).toNat ∧
      (ebMaxTries (portOf (flying (.dead 0 0 0) (sending 1 none)) 0).blk.hdr).toNat ≤ (sent 1 none).tries + 1) ∧
    (coreExists 0 = true ∧ tget none (portOf (flying (.ack 0 0) (sending 0 (some 0))) 0).outbox 0 = some (sent 0 (some 0)) ∧
      (sent 0 (some 0)).retry = some 0) ∧
    (inOrder { flying (env0 0) (handles 63) with flights := [env0 0, env0 0] } 1 0 = false ∧
      pmReached (coreClock (flying (.ack 0 0) Port.reset) 0) 0 = true ∧ pmReached (coreClock (flying (.ack 0 0) Port.reset) 0) 1 = false ∧
      ehDstPkg (travelHdr State.reset 0 (hdrAt State.reset 0 0) 0 0) = State.reset.place.addr) ∧
    (let s := withPort (tCore { Core.reset with halted := true }) waitingEnv
     (portOf s 0).pillar = ⟨0, [], 0⟩ :: [] ∧ atDispatchPoint s 0 = true ∧ tabWf 0 (coreOf s 0).s = true ∧
      tabWf Port.reset s.ports = true ∧ tabWf none (portOf s 0).outbox = true) ∧
    (flying (.guest 0 0 none 0) Port.reset).flights[0]? = some (.guest 0 0 none 0) := by decide +kernel

/-- Die 0 is a guest that declares `caps`; its context is 0. -/
def guestDie (caps : BitVec 256) : State :=
  { running (img1 0) with sites := [(0, { Site.reset with mode := .guest16, block := caps })] }

theorem witness_GuestRequestsAreChecked :
    isGuestDie State.reset 31 = false ∧ isGuestDie (guestDie 0) 0 = true ∧
    cbMem (guestBlock (guestDie 0) 0) = false ∧ cbRcpt (guestBlock (guestDie 0) 0) = false ∧ cbEnv (guestBlock (guestDie 0) 0) = false ∧
    cbMem (guestBlock (guestDie (1 <<< 212)) 0) = true ∧
    guestMemFault (guestDie (1 <<< 212)) 0 0xFFF8 16 true false = some eAlign ∧
    guestMemFault (guestDie (1 <<< 212)) 0 0xFFF0 16 true false = none ∧
    (guestMemFault (guestDie (1 <<< 212)) 0 0xFFF0 (List.replicate 16 (0 : Byte)).length false true = none ∧
      inStatus 0xFFF0 = false) ∧
    (xferFormatBad true ((1 : BitVec 2) ++ (2 : BitVec 2) ++ BitVec.ofBool true ++ (0 : BitVec 51)) = false ∧
      guestMemFault (guestDie (1 <<< 212)) 0 0xFFF0 16 true true = none) ∧
    cbRcpt (guestBlock (guestDie (1 <<< 213)) 0) = true ∧ (2 ^ 31 ≤ (0x80000000 : BitVec 64).toNat) ∧
    (0 < (0x7FFFFFFF : BitVec 64).toNat ∧ (0x7FFFFFFF : BitVec 64).toNat < 2 ^ 31 ∧
      isEndpoint (guestDie (1 <<< 213)) 0 = true ∧ mayAdd (guestDie (1 <<< 213)) 0 3 = true ∧
      mayAdd (guestDie (1 <<< 213)) 0 4 = false) ∧
    (cbEnv (guestBlock (guestDie (1 <<< 214)) 0) = true ∧ guestEnvFault (guestDie (1 <<< 214)) 0 0 [] = some eRange ∧
      guestEnvFault (guestDie (1 <<< 214)) 0 (1 <<< 504) [] = none ∧
      ehDstPkg (1 <<< 504) = (guestDie (1 <<< 214)).place.addr) := by decide +kernel

def adding : State := { State.reset with rcpt := { Rcpts.reset with adds := [(0x3FFF, 1, 0)], sends := [(35, 0x3FFF, 1)] } }

theorem witness_ReceiptsCountAdds :
    State.reset.rcpt.adds = [] ∧
    (adding.run.rolling = none ∧ ((adding.rcpt.adds.filter fun a => a.1 == (0x3FFF : BitVec 14)).take 1) ≠ [] ∧
      countOf adding 0x3FFF + 1 ≠ countOf adding 0x3FFF ∧ countOf adding 0x3FFF + 0 = countOf adding 0x3FFF) ∧
    { adding with run := { Run.reset with rolling := some 0 } }.run.rolling.isSome = true ∧
    takeFirst (fun a => a.1 == (34 : Fin 36) && a.2.1.toNat / 4096 == 3) adding.rcpt.sends = none ∧
    takeFirst (fun a => a.1 == (35 : Fin 36) && a.2.1.toNat / 4096 == 3) adding.rcpt.sends = some ((35, 0x3FFF, 1), []) ∧
    ((35, 0x3FFF, 1) : Fin 36 × BitVec 14 × BitVec 32).2.1 ≠ 0x3FFE := by decide +kernel

/-- Consignment 0 in state `st`: a plan of kind COPY of one row of 16 bytes, from address 0 to `dst`. -/
def copying (st : ConsSt) (dst remote : BitVec 256) : State :=
  { running { img1 0 with plans := [(0, (1 <<< 252) ||| (remote <<< 247) ||| (dst <<< 72) ||| (16 <<< 32))] } with
    cons := [(0, { Cons.reset with st := st })] }

theorem witness_ConsignmentsMoveThroughTheirStates :
    (schedRuns (copying .booked 16 0) = true ∧ (consOf (copying .booked 16 0) 0).st = .booked ∧
      canStart (copying .booked 16 0) (planOf (copying .booked 16 0) 0) = true ∧
      engineFree (copying .booked 16 0) (consHub 0) = true ∧
      (copying .booked 16 0).cons.any (startsBefore (copying .booked 16 0) 0) = false ∧
      plKind (planOf (copying .booked 16 0) 0) = 1) ∧
    (consOf (copying .inTransit 16 0) 0).st ≠ .booked ∧
    ((consOf (copying .inTransit 16 0) 0).st = .inTransit ∧ plRemote (planOf (copying .inTransit 16 0) 0) = false ∧
      consFault (copying .inTransit 16 0) 0 (planOf (copying .inTransit 16 0) 0) = none ∧
      plQuant (planOf (copying .inTransit 16 0) 0) = false ∧ (consOf (copying .inTransit 16 0) 0).again = none) ∧
    consFault (copying .inTransit 0x10000 0) 0 (planOf (copying .inTransit 0x10000 0) 0) = some (causeErr .key) ∧
    consFault (copying .inTransit 16 0) 0 (planOf (copying .inTransit 16 0) 0) ≠ some (causeErr .key) ∧
    anyWaits (copying .inTransit 16 0) (consSpans (copying .inTransit 16 0) 0 (planOf (copying .inTransit 16 0) 0)) = false := by
  decide +kernel

theorem witness_ConsignmentsMoveThroughTheirStates_remote :
    (plRemote (planOf (copying .inTransit 16 1) 0) = true ∧ { Cons.reset with st := .inTransit, sent := true }.sent = true ∧
      ((e2eOf (copying .inTransit 16 1) 0).reqs.any fun r => r.for_ == .write 0) = false ∧
      tabWf E2e.reset (copying .inTransit 16 1).e2e = true ∧ tabWf Cons.reset (copying .inTransit 16 1).cons = true) := by
  decide +kernel

/-! ### Witnesses: the update engines -/

/-- Hub 0's engine at word 0 of program 0, which is `w`, in an entry with bits `e`. -/
def updating (w : BitVec 32) (e : BitVec 512) (u : UpdEng) : State :=
  { running { img1 0 with upd := some (upd0 w e 0) } with upd := [(0, u)] }
def busyUpd : UpdEng := { UpdEng.reset with busy := true }
def uw (op : BitVec 32) (imm : BitVec 32) : BitVec 32 := (op <<< 26) ||| imm

theorem witness_UpdateEntriesRunInOrder :
    ((hubEntries (updating 0 0 UpdEng.reset) 0)[updDone (updating 0 0 UpdEng.reset) UpdEng.reset]? = some (0, 0) ∧ schedRuns (updating 0 0 UpdEng.reset) = true ∧
      (updOf (updating 0 0 UpdEng.reset) 0).busy = false ∧
      rcReached (copyOf (updating 0 0 UpdEng.reset) 32 (ueGo 0)) (rcTarget (updating 0 0 UpdEng.reset) (ueGo 0) (ueGoTarget 0) 0)
        = true) ∧
    (updOf (updating 0 0 busyUpd) 0).busy = true ∧
    (updOf (updating 0 0 { busyUpd with ended := true }) 0).ended = true ∧
    ((updOf (updating 0 0 busyUpd) 0).ended = false ∧ uiOp (updWord (updating 0 0 busyUpd) busyUpd) = 0 ∧
      uiOp (updWord (updating (uw 16 0) 0 busyUpd) busyUpd) = 0x10) ∧
    (barAt (updating 0 0 busyUpd) (ueProg 0).toNat = none ∧ busyUpd.elem + 1 ≤ (ueElems (1 <<< 416)).toNat ∧
      (ueElems 0).toNat ≤ busyUpd.elem) ∧
    schedRuns State.reset = false := by decide +kernel

theorem witness_UpdateInstructions_arithmetic :
    ∀ i : Fin 11,
      schedRuns (updating (uw (BitVec.ofNat 32 (i.val + 3)) 0) 0 busyUpd) = true ∧ (updOf (updating (uw (BitVec.ofNat 32 (i.val + 3)) 0) 0 busyUpd) 0).busy = true ∧
      (updOf (updating (uw (BitVec.ofNat 32 (i.val + 3)) 0) 0 busyUpd) 0).ended = false ∧
      (uiOp (updWord (updating (uw (BitVec.ofNat 32 (i.val + 3)) 0) 0 busyUpd) busyUpd)).toNat = i.val + 3 := by decide +kernel

/-- An element array of E4M3 codes: `w_fmt` 4. -/
def e4m3 : BitVec 512 := 4 <<< 474

/-- Stage 0 has an edition descriptor with room, and a pending edition of step 0. -/
def withEdition (w : BitVec 32) : State :=
  { running { img1 0 with upd := some (upd0 w (8 <<< 474) 0), editions := [(1 <<< 242) ||| (1 <<< 216) ||| (1 <<< 192)] } with
    upd := [(0, busyUpd)], stages := [(0, { Stage.reset with eds := [(1, { Edition.reset with st := .pending })] })] }

theorem witness_UpdateInstructions_memory :
    (uiOp (updWord (updating (uw 1 0) 0 busyUpd) busyUpd) = 0x01 ∧
      accessFault (updating (uw 1 0) 0 busyUpd) 1 0 4 true false = none ∧
      accessFault (updating (uw 1 0) (0x10000 <<< 232) busyUpd) 1 0x10000 4 true false = some eKey) ∧
    ((uiImm (updWord (updating (uw 1 4) 0 busyUpd) busyUpd)).extractLsb' 0 3).toNat = 4 ∧
    (uiOp (updWord (updating (uw 2 1) e4m3 busyUpd) busyUpd) = 0x02 ∧ ueWFmt e4m3 = 4 ∧ 30 % 32 ≠ 31) ∧
    (uiOp (updWord (updating (uw 14 1) 0 busyUpd) busyUpd) = 0x0E ∧
      (uiImm (updWord (updating (uw 14 1) 0 busyUpd) busyUpd)).getLsbD 0 = true ∧
      uiOp (updWord (updating (uw 15 0) 0 busyUpd) busyUpd) = 0x0F) := by decide +kernel

theorem witness_UpdateInstructions_edition :
    uiOp (updWord (withEdition (uw 2 1)) busyUpd) = 0x02 ∧ ¬ (arrayOf (8 <<< 474) 1).2 = 4 ∧ readsFree busyUpd [0] = false ∧
    edDesc (withEdition (uw 2 1)) 0 = some ((1 <<< 242) ||| (1 <<< 216) ||| (1 <<< 192)) ∧
    (pendFor (modUpd (withEdition (uw 2 1)) 0 fun _ => { busyUpd with pcw := 1 }) 0 ((1 <<< 242) ||| (1 <<< 216) ||| (1 <<< 192))
      0).map Prod.snd = some 1 := by decide +kernel

/-! ### Witnesses: commit, rollback and checkpoint -/

/-- Two members, windows of 16 ticks each: V at tick 16, C at tick 32, D at tick 48 of the round's postmark 0. -/
def crec : BitVec 256 := (1 <<< 242) ||| (1 <<< 130) ||| (1 <<< 114) ||| (1 <<< 98)
def rounding (ph : RoundPhase) (tick : Pm) (bad : List (BitVec 40)) : State :=
  let s := commits (rel0 6 0 0) crec
  { s with commit := { Commit.reset with phase := ph }, clk := clocksAt (tick <<< 12), run := { s.run with stepBad := bad } }

theorem witness_CommitRoundsEndByTheirDeadlines :
    commitRec State.reset = none ∧ commitRec (rounding .open_ 0 []) = some crec ∧
    ((rounding .open_ 0 [0]).run.stepBad.contains (rounding .open_ 0 [0]).commit.step = true) ∧
    ((rounding .open_ 15 []).run.stepBad.contains (rounding .open_ 15 []).commit.step = false ∧
      readyRcpt (rounding .open_ 15 []) crec 0 = true ∧
      pmLt (hub0Pm (rounding .open_ 15 [])) (voteEnd (rounding .open_ 15 []) crec) = true ∧
      memberPos (rounding .open_ 15 []) crec 0 = some 0 ∧ (0 : BitVec 64) ||| BitVec.ofNat 64 (2 ^ 0) ≠ fullMask crec) ∧
    pmLt (hub0Pm (rounding .voted 16 [])) (voteEnd (rounding .voted 16 []) crec) = false ∧
    pmLt (hub0Pm (rounding .confirmed 31 [])) (confirmEnd (rounding .confirmed 31 []) crec) = true ∧
    pmLt (hub0Pm (rounding .confirmed 32 [])) (confirmEnd (rounding .confirmed 32 []) crec) = false ∧
    pmLt (hub0Pm (rounding .doubt 47 [])) (doubtEnd (rounding .doubt 47 []) crec) = true ∧
    pmLt (hub0Pm (rounding .doubt 48 [])) (doubtEnd (rounding .doubt 48 []) crec) = false := by decide +kernel

def bound0 : Boundary := ⟨0, [], [], 1, 0, []⟩
def rollingBack : State := { State.reset with run := { Run.reset with rolling := some 0, bounds := [bound0] } }

theorem witness_RollbackRestoresTheBoundary :
    State.reset.run.rolling = none ∧ rollingBack.run.rolling = some 0 ∧ rollingBack.commit.phase = .closed ∧
    agentsStopped rollingBack = true ∧ agentsStopped (withCore rollingBack (swaps 1)) = false ∧
    rollingBack.run.bounds.find? (fun x => x.step == 0) = some bound0 := by decide +kernel

def gen0 : Gen := ⟨0, false, 0, bound0, 0, 0, 0, [], [], [], [], [], [], 0⟩
def cutting (done : Bool) : State :=
  { running { img1 0 with ckptRec := some 0 } with
    ckpt := { Ckpt.reset with writing := true, localDone := done, newer := some gen0 } }

theorem witness_CheckpointsAreWrittenThenSealed :
    State.reset.ckpt.writing = false ∧ ckptRec (cutting true) = some 0 ∧ (cutting true).ckpt.writing = true ∧
    (cutting true).sched = .running ∧ (cutting true).ckpt.localDone = true ∧ (cutting false).ckpt.localDone = false ∧
    (cutting false).ckpt.heldBits = [] ∧ (cutting true).ckpt.newer = some gen0 ∧
    (e2eOf (cutting true) 0).reqs.any (fun x => x.for_ == .ckpt) = false := by decide +kernel

/-! ### Witnesses: collectives and die interfaces -/

/-- A broadcast of 2 stations at station 0, whose root is station 1, with a timeout of one beat. -/
def bcast0 : BitVec 512 := (1 <<< 480) ||| (1 <<< 478) ||| (1 <<< 447) ||| (1 <<< 413) ||| (1 <<< 201)
def coll0 (st : CollSt) (id : BitVec 512) : Coll := ⟨bcast0 + (id <<< 480), 0, st, false, none, 0, 0, 0, 0, false⟩
def station (l : List Coll) (pm : Pm) : State :=
  let s := running (img1 0)
  { s with offices := [(0, { Office.reset with colls := l })], clk := clocksAt pm }
def sevenActive : List Coll := (List.range 7).map fun i => coll0 .active (BitVec.ofNat 512 (i + 1))
def eightActive : List Coll := (List.range 8).map fun i => coll0 .active (BitVec.ofNat 512 (i + 1))

theorem witness_CollectivesStartInOrderOrFail :
    earliest ((officeOf (station (coll0 .armed 0 :: sevenActive) 0) 0).colls.filter fun x => x.st = .armed) =
      some (coll0 .armed 0) ∧
    officeRuns (station (coll0 .armed 0 :: sevenActive) 0) (coll0 .armed 0) = true ∧
    mustWait (station (coll0 .armed 0 :: sevenActive) 0) 0 (collKey (coll0 .armed 0)) = false ∧
    ((officeOf (station (coll0 .armed 0 :: sevenActive) 0) 0).colls.filter fun x => x.st = .active).length < 8 ∧
    (if isReduce bcast0 then isFirst bcast0 else isRoot bcast0) = false ∧
    heldOf (officeOf (station (coll0 .armed 0 :: sevenActive) 0) 0) (collKey (coll0 .armed 0)) = [] ∧
    (let s := station (coll0 .armed 0 :: sevenActive) 0
     tabWf Office.reset s.offices = true ∧ anyWaits s (collSpans bcast0) = false ∧ (officeOf s 0).lanesLive ≠ 0) ∧
    8 ≤ ((officeOf (station (coll0 .armed 0 :: eightActive) 0) 0).colls.filter fun x => x.st = .active).length ∧
    (officeOf State.reset 0).colls.filter (fun x => x.st = .armed) = [] ∧
    (officeOf (station [coll0 .armed 0] 0) 0).colls.find? (fun c => coId c.entry == 1 && (c.st = .armed || c.st = .listed)) =
      some (coll0 .armed 0) ∧
    collLate (station [coll0 .armed 0] 0xFFFFFF) 0 0 bcast0 = false ∧
    collLate (station [coll0 .armed 0] 0x1000000) 0 0 bcast0 = true := by decide +kernel

/-- Port 3 of bundle 35 is as `h`. -/
def hdiAt (h : HdiPort) : State := { State.reset with hdi := [(143, h)] }
def port0 (retraining : Bool) (up down : HdiWay) : HdiPort :=
  { HdiPort.reset with live := true, retraining := retraining, up := up, down := down, spares := [(0, 1)] }
def way0 (tries : Nat) (nak discard : Bool) : HdiWay := { HdiWay.reset with tries := tries, nak := nak, discard := discard }

theorem witness_HdiPortsReplayRetrainAndRetire :
    (hdiOf State.reset 143).live = false ∧ nextPort State.reset 35 true ≠ some 3 ∧ tabWf HdiPort.reset State.reset.hdi = true ∧
    tabWf HdiFlow.reset State.reset.bundles = true ∧
    (∀ u ∈ [way0 0 false false, way0 1 false false, way0 0 false true],
      ∀ d ∈ [way0 0 false false, way0 2 true false, way0 3 true false],
      nextPort (hdiAt (port0 false u d)) 35 true = some 3 ∧ wayOf (port0 false u d) true = u ∧ wayOf (port0 false u d) (!true) = d ∧
        tabWf HdiPort.reset (hdiAt (port0 false u d)).hdi = true ∧
        0 < frameUnits (hdiAt (port0 false u d)) 35 3 true ∧ u.replay = [] ∧ u.next = 0 ∧
        u.credits.get .ctl ≠ 0 ∧ u.credits.get .rsp ≠ 0 ∧ u.credits.get .req ≠ 0 ∧
        flowOf (hdiAt (port0 false u d)) 35 true = HdiFlow.reset) ∧
    (HdiFlow.reset.waiting = ⟨[], [], []⟩ ∧ HdiFlow.reset.transit = ⟨[], [], []⟩ ∧ HdiFlow.reset.moved = [] ∧
      HdiFlow.reset.held = [] ∧ HdiFlow.reset.low = HdiFlow.reset.seq) ∧
    (let h := port0 true HdiWay.reset HdiWay.reset
     h.retraining = true ∧ sparesEnough h [(false, 31)] = false ∧ sparesEnough h [(true, 31)] = true ∧
      sparesEnough h [(false, 32)] = true ∧ sparesEnough h [] = true) := by decide +kernel

/-! ### Witnesses: torus links -/

def pkt (hdr : BitVec 128) : Packet := ⟨hdr, []⟩
def upLink (st : LinkSt) (n : Nat) (retrained : Bool) (replay : List SentFlit) : Link :=
  { Link.reset with st := st, n := n, retrained := retrained, replay := replay, rxSeq := 0xFFFF, live := 0xFF }
def linkAt (l : Link) : State := { State.reset with dev := .ready, links := [(11, l)] }
def oneFlit : List SentFlit := [⟨0, [], []⟩]
def flit0 (hdr : BitVec 512) (sound : Bool) : Flit := ⟨hdr, sound, 0, sound, sound, List.replicate 7 (List.replicate 64 0)⟩
/-- A flit whose first slot begins a packet of class 0 on channel `vc`. -/
def flit1 (vc : BitVec 512) : Flit := flit0 ((vc <<< 456) ||| (1 <<< 449)) true

theorem witness_LinksReplayAndRetrain :
    (¬ ((linkOf State.reset 11).st = .up ∨ (linkOf State.reset 11).st = .replaying)) ∧
    (tabWf Link.reset (linkAt (upLink .up 0 false [])).links = true ∧ tabWf LinkCtr.reset (linkAt (upLink .up 0 false [])).linkCtr = true) ∧
    (let k := upLink .up 0 false []
     (linkOf (linkAt k) 11).st = .up ∧ flitSound k (flit0 0 false) = false ∧ flitSound k (flit0 0 true) = true ∧ fhNak 0 = false ∧
      fhKind (1 <<< 477) = 1 ∧ fhKind 0 = 0 ∧ fhSeq 0 = k.rxSeq + 1 ∧ fhSeq (1 <<< 496) ≠ k.rxSeq + 1 ∧
      flitSound k (flit0 (1 <<< 477) true) = true) ∧
    (let f := flit1 1
     let k := upLink .up 0 false []
     flitSound k f = true ∧ fhSeq f.hdr = k.rxSeq + 1 ∧ fhNak f.hdr = false ∧ fhKind f.hdr = 0 ∧ slotVc f.hdr 1 ≠ 0 ∧
      (fhSopMap f.hdr).getLsbD 0 = true ∧ (∀ n ∈ [2, 3, 4, 5, 6, 7], slotVc f.hdr n = 0) ∧
      pkCount (packetOf [List.replicate 64 0]).hdr = 1 ∧ packetGood (packetOf [List.replicate 64 0]) 1 = false ∧
      packetGood (packetOf [leBytes 64 ((1 : BitVec 512) <<< 124)]) 1 = true ∧ tget [] k.rxPart 0 = []) ∧
    ((upLink .up 0 false []).replay = [] ∧ (upLink .up 0 false oneFlit).replay ≠ [] ∧ Link.reset.ackNs = 0) ∧
    ((upLink .replaying 3 false oneFlit).n < 4 ∧ (upLink .replaying 4 true oneFlit).retrained = true ∧
      (upLink .replaying 7 true oneFlit).n < 8 ∧ (upLink .replaying 4 false oneFlit).retrained = false ∧
      8 ≤ (upLink .replaying 8 true oneFlit).n) ∧
    ((upLink .retraining 4 false oneFlit).st = .retraining ∧ (0xFF : BitVec 8) &&& 0xFF ≠ 0 ∧ (0xFF : BitVec 8) &&& ~~~0xFF = 0 ∧
      (0xFF : BitVec 8) &&& 0 = 0 ∧ Link.reset.rate.toNat < 2 ∧ Link.reset.stNs + 40000 < 40001 ∧
      Link.reset.rate.toNat < (minRate (linkAt (upLink .retraining 4 false oneFlit))).toNat ∧
      (widthFor (laneCount ((0xFF : BitVec 8) &&& 0xFF))).toNat ≤ (upLink .retraining 4 false oneFlit).lanes.toNat ∧
      (upLink .retraining 4 false oneFlit).lanes.toNat ≤ (minLanes (linkAt (upLink .retraining 4 false oneFlit))).toNat) := by
  decide +kernel

/-- Link 11 of a placed package in training, and what a training without encryption finds when all is right. -/
def training : State :=
  { linkAt { Link.reset with st := .training } with place := { Place.reset with set := true } }
def trained : TrainResult :=
  ⟨0xFF, true, peerPkg training 11, BitVec.ofNat 4 (peerLinkNo 11), true, true, 0, 0, true, true, false, 0, 0⟩

theorem witness_LinksTrainAndChangeWidth :
    ((linkOf { training with links := [(11, { Link.reset with waitPeer := true })] } 11).st = .down ∧ training.place.set = true ∧
      Link.reset.authHeld = false ∧ tabWf Link.reset training.links = true) ∧
    Link.reset.st ≠ .training ∧ State.reset.place.set = false ∧
    ((linkOf training 11).st = .training ∧ training.ns ≤ (linkOf training 11).stNs + 150000000 ∧ trained.lanesOk ≠ 0 ∧
      trained.framing = true ∧ trained.peerAddr = peerPkg training 11 ∧ trained.peerLink.toNat = peerLinkNo 11 ∧
      authStep training trained = 0 ∧ trained.gcmPeer = (linkOf training 11).gcm ∧
      (widthFor (laneCount trained.lanesOk)).toNat ≤ (minLanes training).toNat) ∧
    authStep training { trained with partOk := false } ≠ 0 ∧ { trained with peerLink := 15 }.peerLink.toNat ≠ peerLinkNo 11 ∧
    ({ Link.reset with st := .changing, wanted := some (1, 1) }.wanted = some (1, 1)) ∧
    (laneUp training = true ∧ laneUp State.reset = false ∧ (linkOf training 11).st ≠ .down ∧ (upLink .up 0 false []).st ≠ .training) ∧
    (let s := linkAt (upLink .up 0 false [])
     (upLink .up 0 false []).st = .up ∧ (2 : BitVec 2) ≠ 3 ∧ (linkOf s 11).wanted = none ∧ named s 11 0 0 = (0, 0) ∧
      named s 11 1 1 ≠ (0, 0)) ∧
    (let k := { upLink .up 0 false [] with wanted := some (0, 0) }
     k.wanted = some (0, 0) ∧ k.crossed = false ∧ (widthFor (laneCount k.live)).toNat ≤ (1 : BitVec 2).toNat) ∧
    ({ upLink .up 0 false [] with gcm := true, epochFlits := 2 ^ 40 }.gcm = true) := by
  decide +kernel

/-! ### Witnesses: the end-to-end layer -/

/-- A request packet of kind `t`, the next of a stream that starts at 0. -/
def reqPkt (t : BitVec 128) (data : List Byte) : Packet := ⟨(t <<< 124) ||| (1 <<< 74), data⟩
def winState (w : Window) : State := { State.reset with e2e := [(0, { E2e.reset with wins := [w] })] }
def win0 (done : List (BitVec 16 × Option (Err × List Byte))) (held : List (Packet × PieceMet)) : Window := ⟨0, 0, 0, done, held, 0⟩

theorem witness_RequestsAreExecutedOnce :
    (pkPtype (reqPkt 1 []).hdr = 1 ∧ pkDstPkg (reqPkt 1 []).hdr = State.reset.place.addr ∧ (pkDstHub (reqPkt 1 []).hdr).toNat = 0 ∧
      pkRsv (reqPkt 1 []).hdr = true ∧ notFirst State.reset (reqPkt 1 []) = false ∧
      anyWaits State.reset (writeSpan State.reset (reqPkt 1 [])) = false) ∧
    pkPtype (reqPkt 6 []).hdr ≠ 1 ∧ commitKind (reqPkt 4 [1]) = 1 ∧ isAbort (reqPkt 5 []) = false ∧
    findWin (e2eOf State.reset 0) 0 0 = none ∧
    (findWin (e2eOf (winState (win0 [(1, none)] [])) 0) 0 0 = some (win0 [(1, none)] []) ∧
      (advanceWin (win0 [(1, none)] []) 0).done.any (fun d => d.1 == pkSeq (reqPkt 1 []).hdr) = true ∧
      (∀ x ∈ (e2eOf (winState (win0 [(1, none)] [])) 0).wins, x.held = [])) ∧
    8192 ≤ ({ E2e.reset with wins := List.replicate 8192 (win0 [] []) }).wins.length ∧
    seqLt (pkSeq (pkt (1 <<< 124)).hdr) (advanceWin { win0 [] [] with low := 1 } 0).low = true ∧
    (let w := advanceWin (win0 [] [(reqPkt 1 [], pieceClean)]) 0
     seqLt (pkSeq (reqPkt 1 []).hdr) w.low = false ∧ inReach w (pkSeq (reqPkt 1 []).hdr) = true ∧
      w.done.any (fun d => d.1 == pkSeq (reqPkt 1 []).hdr) = false ∧
      w.held.any (fun x => pkSeq x.1.hdr == pkSeq (reqPkt 1 []).hdr) = true) := by decide +kernel

/-- A package where queue 0 has one slot at address 0 with producer umbel 0, receipt 1 is open, and the commit record is
`crec`; a collective of hub 0 is armed. -/
def serving : State :=
  { running { img1 (rel0 6 0 0) with
      upd := some (upd0 0 0 crec), queues := [0], rcptDescs := [(1 <<< 114) ||| (1 <<< 113)], collHubs := [1 <<< 48] } with
    offices := [(0, { Office.reset with colls := [coll0 .armed 0] })] }

/-- The bytes of a plan of kind 2, with 16 bytes at offset 0 (LOG 23). -/
def postData : List Byte := List.replicate 31 0 ++ [0x20] ++ List.replicate 6 0 ++ [16, 0] ++ List.replicate 16 0 ++ List.replicate 16 0xAA

/-- A piece header for collective 1. -/
def pieceData (abort : Bool) : List Byte := leBytes 48 (mkPh 1 0 0 0 false false abort 0 0)

theorem witness_FirstRequestsHaveTheirEffect :
    (pkPtype (reqPkt 1 postData).hdr = 1 ∧ pkDstPkg (reqPkt 1 postData).hdr = serving.place.addr ∧
      (pkDstHub (reqPkt 1 postData).hdr).toNat = 0 ∧ pkRsv (reqPkt 1 postData).hdr = true ∧ serving.dev = .ready ∧
      findWin (e2eOf serving 0) 0 0 = none ∧ (e2eOf serving 0).wins.length < 8192 ∧
      pkSeq (reqPkt 1 postData).hdr = pkAck (reqPkt 1 postData).hdr + 1 ∧ storeUsed (e2eOf serving 0) < 2 ^ 20 ∧
      notFirst serving (reqPkt 1 postData) = false ∧ tabWf E2e.reset serving.e2e = true ∧ tabWf Office.reset serving.offices = true ∧
      (∀ w ∈ (e2eOf serving 0).wins, w.held = [])) ∧
    (¬ (serving.sched = .stopped ∨ serving.run.rolling.isSome = true) ∧ rcptOpen serving 1 = true ∧
      rcptOpen serving (BitVec.ofNat 14 (dataNat (reqPkt 3 [0, 0]) 0 2)) = false ∧ dataNat (reqPkt 3 [1, 0]) 0 2 = 1) ∧
    ({ serving with sched := .stopped }.sched = .stopped) ∧
    (plKind (BitVec.ofNat 256 (dataNat (reqPkt 1 postData) 0 32)) ≠ 0 ∧ queueDesc serving 0 = some 0 ∧
      slotAddr 0 (slotIdx 0 0) + dataNat (reqPkt 1 postData) 48 8 = 0 ∧ (qdProducer 0).toNat = dataNat (reqPkt 1 postData) 36 2 ∧
      postAccepts (slotOf serving 0 (slotIdx 0 0)) 0 = true ∧
      permitted serving (ctxKey serving (imgOwner serving)) 0 (dataNat (reqPkt 1 postData) 38 2) false true = true ∧
      touchesRetired serving 0 16 = false ∧ touchesPoison serving 0 16 true = false ∧
      anyWaits serving (writeSpan serving (reqPkt 1 postData)) = false ∧ inStatus 0 = false ∧ dataNat (reqPkt 1 postData) 38 2 = 16) ∧
    commitKind (reqPkt 4 [4]) = 4 := by decide +kernel

theorem witness_FirstRequestsHaveTheirEffect_rounds :
    commitRec serving = some crec ∧ memberPos serving crec 0 = some 0 ∧
    (commitKind (reqPkt 4 [1, 1, 0, 0, 0]) = 1 ∧ commitKind (reqPkt 4 [2, 1, 0, 0, 0]) = 2 ∧ commitKind (reqPkt 4 [3, 1, 0, 0, 0]) = 3) ∧
    BitVec.ofNat 32 (dataNat (reqPkt 4 [1, 1, 0, 0, 0]) 1 4) = serving.commit.closed + 1 ∧
    BitVec.ofNat 32 (dataNat (reqPkt 4 [1, 0, 0, 0, 0]) 1 4) ≠ serving.commit.closed + 1 ∧
    (serving.commit.votes ||| BitVec.ofNat 64 (2 ^ 0) ≠ fullMask crec ∧ serving.commit.phase ≠ .confirmed ∧
      serving.commit.phase ≠ .voted ∧ (rounding .open_ 0 []).commit.phase ≠ .closed) ∧
    (isAbort (reqPkt 5 (pieceData false)) = false ∧ isAbort (reqPkt 5 (pieceData true)) = true ∧
      collState serving 0 (0, 1) = some .armed ∧ (heldPieces (officeOf serving 0)).length < holdSlots serving 0 ∧
      (heldPieces (officeOf serving 0)).contains (1, 0, 0, false) = false ∧
      findColl (officeOf serving 0) (0, 1) = some (coll0 .armed 0) ∧ (coll0 .armed 0).st = .armed ∧
      (phStart (BitVec.ofNat 384 (dataNat (reqPkt 5 (pieceData true)) 0 48)),
        phId (BitVec.ofNat 384 (dataNat (reqPkt 5 (pieceData true)) 0 48))) = (0, 1)) := by decide +kernel

/-- A member whose place lies in a row of two packages, so that another member's packet can come. -/
def secondMember : State :=
  { serving with place := { Place.reset with set := true, lenD := 1 } }

theorem witness_FirstRequestsHaveTheirEffect_other :
    memberPos secondMember crec (memberAddr secondMember crec 1) = some 1 ∧
    memberAddr secondMember crec 1 ≠ secondMember.place.addr := by decide +kernel

def req0 (f : ReqFor) (busy : Bool) : Req := ⟨0, 0, 1, 0, [], f, 0, busy, false⟩
def asking (f : ReqFor) (busy : Bool) (ns : Nat) : State :=
  { rounding .doubt 47 [] with ns := ns, e2e := [(0, { E2e.reset with
      reqs := [req0 f busy], outs := [⟨0, 0, 1, 1, 0, 0⟩], wins := [win0 [] []] })] }
def rspPkt (status : BitVec 128) (data : List Byte) : Packet := ⟨(8 <<< 124) ||| (1 <<< 74) ||| (status <<< 23), data⟩

theorem witness_ResponsesTransitAndTimers :
    isFor State.reset 0 8 (reqPkt 1 []) = false ∧ isFor State.reset 0 8 (rspPkt 0 []) = true ∧
    isQueryAnswer State.reset 0 (rspPkt 0 []) = false ∧ (e2eOf State.reset 0).reqs = [] ∧
    (let s := asking (.write 0) false 0
     notFirst s (rspPkt 0 []) = false ∧ tabWf E2e.reset s.e2e = true ∧
      (e2eOf s 0).reqs.find? (fun r => ofStream (pkSrcPkg (rspPkt 0 []).hdr) (pkSrcHub (rspPkt 0 []).hdr) r &&
        r.seq == pkSeq (rspPkt 0 []).hdr) = some (req0 (.write 0) false) ∧
      isQueryAnswer s 0 (rspPkt 0 []) = false ∧ findWin (e2eOf State.reset 0) 0 0 = none ∧
      ackless eLinkDown = true ∧ ackless eBusy = false ∧
      pkStatus (rspPkt (eBusy.setWidth 128) []).hdr = eBusy ∧ pkStatus (rspPkt (eLinkDown.setWidth 128) []).hdr = eLinkDown ∧
      pkStatus (rspPkt 0 []).hdr = eOk ∧ covered (e2eOf s 0) (req0 (.write 0) false) eOk = []) ∧
    (let s := { asking (.rcptAdd 0 0) false 0 with e2e := [(0, { E2e.reset with reqs := [req0 (.rcptAdd 0 0) false] })] }
     findWin (e2eOf s 0) 0 0 = none ∧ isGuestDie s (dieOf 0) = false ∧
      (e2eOf s 0).reqs.find? (fun r => ofStream 0 0 r && r.seq == pkSeq (rspPkt 0 []).hdr) = some (req0 (.rcptAdd 0 0) false)) ∧
    (let s := { asking (.commit 4 1) false 0 with e2e := [(0, { E2e.reset with reqs := [req0 (.commit 4 1) false] })] }
     findWin (e2eOf s 0) 0 0 = none ∧ isFor s 0 8 (rspPkt 0 [0]) = true ∧
      (e2eOf s 0).reqs.find? (fun r => ofStream 0 0 r && r.seq == pkSeq (rspPkt 0 [0]).hdr) = some (req0 (.commit 4 1) false) ∧
      s.commit.phase = .doubt ∧ s.commit.closed + 1 = 1 ∧ commitRec s = some crec ∧
      pmLt (hub0Pm s) (doubtEnd s crec) = true ∧
      memberPos s crec 0 = some 0 ∧ outcomeFrom ([0].headD 3) = .committed ∧ s.commit.waiting = none) ∧
    (let s := asking .none false 0
     isFor s 0 6 (pkt (6 <<< 124)) = true ∧ findWin (e2eOf s 0) 0 0 = some (win0 [] []) ∧ (∀ x ∈ (e2eOf s 0).wins, x.held = []) ∧
      isFor State.reset 0 6 (pkt (6 <<< 124)) = true ∧ isFor s 0 6 (pkt (8 <<< 124)) = false) := by decide +kernel

/-- Package 0 of a torus of two along S, with its links in state `st`. -/
def neighbour (st : LinkSt) : State :=
  { State.reset with dev := .ready, place := { Place.reset with set := true, lenS := 1 }
                     links := (List.range 12).map fun l => (l, upLink st 0 false []) }
def away (s : State) : BitVec 15 := addrOf s 0 0 1

/-- A request of package 0 to its neighbour along S, after `hops` hops. -/
def passing (hops : BitVec 128) : BitVec 128 := (1 <<< 124) ||| ((away (neighbour .up)).setWidth 128 <<< 109) ||| (hops <<< 31)
/-- As `neighbour`, with only link 0, of another axis, Up. -/
def cutOff : State := { neighbour .up with links := [(0, upLink .up 0 false [])] }

theorem witness_ResponsesTransitAndTimers_transit :
    away (neighbour .up) ≠ (neighbour .up).place.addr ∧
    (let h := passing 254
     notFirst (neighbour .up) (pkt h) = false ∧
      pkDstPkg h = away (neighbour .up) ∧ pkRsv h = true ∧ knownType (pkt h) = true ∧ lowPower (neighbour .up) = false ∧
      mayTransit (neighbour .up) 11 false (pkt h) = true ∧ 255 ≤ (pkHops h).toNat + 1) ∧
    (let s := neighbour .up
     let h := putFld (passing 253) 31 (BitVec.ofNat 8 254)
     (pkHops (passing 253)).toNat + 1 < 255 ∧ pkDstPkg h ≠ s.place.addr ∧
      (routeTo (leavePool s (pkt (passing 253))) (flowEnt s (pkFlow h)) (pkDstPkg h) (pkWay h) (some 11) (11 % 2)).isSome = true ∧
      (routeTo (leavePool s (pkt (passing 253))) (flowEnt s (pkFlow h)) (pkDstPkg h) (pkWay h) (some 11) (11 % 2)).all
        (fun x => !x.2.2) = true) ∧
    (mayTransit cutOff 0 false (pkt (passing 0)) = true ∧
      routePacket cutOff (putFld (passing 0) 31 (1 : BitVec 8)) [] (some (0, false)) = none) ∧
    lowPower { neighbour .up with dev := .dormant } = true ∧
    knownType (pkt (7 <<< 124)) = false ∧ mayTransit State.reset 11 false (pkt (passing 0)) = false := by decide +kernel

theorem witness_ResponsesTransitAndTimers_timers :
    (e2eOf (asking .none true 1000) 0).reqs[0]? = some (req0 .none true) ∧ (req0 .none true).unsent = false ∧
    { req0 .none true with unsent := true }.unsent = true ∧ (req0 .none false).busy = false ∧
    (asking .none true 1999999).ns < (req0 .none true).sentNs + 2000000 ∧
    (req0 .none true).sentNs + 2000000 ≤ (asking .none true 2000000).ns ∧
    ((req0 .none true).busy = true ∧ (req0 .none true).sentNs + 1000 ≤ (asking .none true 1000).ns ∧
      (routePacket (asking .none true 1000) (putFld 0 58 (1 : BitVec 16)) [] none).isSome = true) ∧
    (asking .none true 999).ns < (req0 .none true).sentNs + 1000 ∧
    ((e2eOf (asking .none true 2000) 0).outs[0]? = some ⟨0, 0, 1, 1, 0, 0⟩ ∧ (1 : BitVec 16) ≠ 0 ∧
      0 + 2000 ≤ (asking .none true 2000).ns ∧ (asking .none true 1999).ns < 0 + 2000) ∧
    ((e2eOf (asking .none true 0) 0).wins[0]? = some (win0 [] []) ∧ (win0 [] []).lastNs + 1000000 ≤ (asking .none true 1000000).ns ∧
      (asking .none true 999999).ns < (win0 [] []).lastNs + 1000000 ∧ (win0 [] []).done = [] ∧ (win0 [] []).held = [] ∧
      (win0 [(1, none)] []).done ≠ [] ∧ (win0 [] [(reqPkt 1 [], pieceClean)]).held ≠ []) := by decide +kernel

/-! ### Witnesses: timebase, courier lanes, records, doorbells -/

def tbAt (tb : Timebase) : State := { State.reset with dev := .ready, tb := tb }
def follower : Timebase := { Timebase.reset with st := .acquiring, source := 11, hasCount := true }
def reserve (st : TbState) (count ok : Bool) : Timebase := { Timebase.reset with role := 2, st := st, hasCount := count, tbInOk := ok }
def holding (beat : Pm) : State :=
  { running { img1 0 with latitude := 1 <<< 120 } with tb := { Timebase.reset with st := .holdover, now := beat <<< 24 } }

/-- A follower that answers its own probe of postmark 5 on link 11. -/
def probing (delays : List Nat) : State := tbAt { follower with probeT1 := some 5, probeNs := some 0, delays := delays }

theorem witness_TimebaseLocksFollowsAndHolds :
    tabWf Link.reset (tbAt follower).links = true ∧ laneUp State.reset = false ∧ powered State.reset = false ∧
    (linkOf (linkAt { Link.reset with lane := { Lane.reset with lost := true } }) 11).lane.lost = true ∧
    (laneUp (tbAt follower) = true ∧ (linkOf (tbAt follower) 11).lane.lost = false ∧
      (tbAt follower).tb.role = 0 ∧ follows (tbAt follower) 11 = true ∧
      (1000000 : BitVec 26) = (tbAt follower).tb.beatPeriod ∧ (1000001 : BitVec 26) ≠ (tbAt follower).tb.beatPeriod ∧
      (let goal := fun (pm : Pm) => pm + BitVec.ofNat 64 (follower.delayPs.toNat * 2 ^ 24 / (follower.beatPeriod.toNat * 1000))
       pmLt follower.now (goal 1) = true ∧ pmLt follower.now (goal 0) = false ∧ follower.hasCount = true)) ∧
    ({ Timebase.reset with role := 1 }.role = 1 ∧ (0x7FFF : BitVec 15) ≠ State.reset.place.addr) ∧
    (let s := tbAt { Timebase.reset with role := 1, sentNs := some 0 }
     powered s = true ∧ { s with ns := 1999 }.ns < 0 + 2000 ∧ 0 + 2000 ≤ { s with ns := 2000 }.ns) ∧
    (powered (tbAt follower) = true ∧ follower.source ≠ 0xF ∧ follower.probeNs = none ∧
      { probing [] with ns := 999999 }.ns < 0 + 1000000 ∧ 0 + 1000000 ≤ { probing [] with ns := 1000000 }.ns ∧
      Timebase.reset.source = 0xF) ∧
    ((probing []).tb.source = BitVec.ofNat 4 11 ∧ (probing []).tb.probeT1 = some 5 ∧ follower.probeT1 ≠ some 5 ∧
      (probing []).tb.delays = [] ∧ (probing (List.replicate 16 7)).tb.delays.length = 16) ∧
    (follower.hasCount = true ∧ follower.lastPulse = 0 ∧ State.reset.tb.hasCount = false ∧
      (let s := tbAt { follower with now := 2 ^ 30, lastPulse := 1 }
       pmLt s.tb.lastPulse (pulsePm s) = true) ∧
      (let s := tbAt { follower with lastPulse := 1 }
       pmLt s.tb.lastPulse (pulsePm s) = false ∧ s.tb.lastPulse ≠ 0)) ∧
    (let c := { Ctr.reset with pm := 1, on := true }
     c.on = true ∧ c.loaded = false ∧ { c with loaded := true }.loaded = true ∧ pmLt c.pm 2 = true ∧ pmLt c.pm 0 = false ∧ c.pm = 1 ∧
      pmLt 1 1 = false) := by decide +kernel

theorem witness_TimebaseLocksFollowsAndHolds_locks :
    (canLock (tbAt follower) = true ∧ follower.hasCount = true ∧
      (let s := { tbAt { reserve .acquiring false true with role := 1 } with pins := { Pins.reset with sysclk := true } }
       canLock s = true ∧ s.tb.hasCount = false ∧ s.tb.role = 1) ∧
      (let s := tbAt (reserve .acquiring false true)
       canLock s = true ∧ s.tb.hasCount = false ∧ s.tb.role = 2) ∧
      canLock State.reset = false) ∧
    (State.reset.tb.tbInOk = false ∧ (reserve .locked true true).tbInOk = true ∧ (reserve .locked true true).hasCount = true ∧
      (reserve .locked true true).role = 2 ∧ (reserve .locked true true).st = .locked ∧
      (reserve .acquiring false true).hasCount = false ∧ (reserve .acquiring false true).st ≠ .holdover ∧
      { Timebase.reset with tbInOk := true }.role ≠ 2) ∧
    ((holding 2).tb.st = .holdover ∧ (holding 2).tb.lost = false ∧ imageRuns (holding 2) = true ∧
      (latHoldover (latitude (holding 2))).toNat * 2 ^ 24 < ((holding 2).tb.now - (holding 2).tb.holdSince).toNat ∧
      ((holding 1).tb.now - (holding 1).tb.holdSince).toNat ≤ (latHoldover (latitude (holding 1))).toNat * 2 ^ 24) := by
  decide +kernel

theorem witness_UrgentFramesActOnceInScope :
    tabWf Link.reset (running (img1 0)).links = true ∧ laneUp State.reset = false ∧
    ({ Regs.reset with stopsSeen := [stopId 0 1] }.stopsSeen.contains (stopId 0 1) = true) ∧
    (laneUp (running (img1 0)) = true ∧ powered (running (img1 0)) = true ∧ (linkOf (running (img1 0)) 3).lane.lost = false ∧
      laneUp { running (img1 0) with dev := .failed } = true ∧ powered { running (img1 0) with dev := .failed } = false ∧
      (running (img1 0)).regs.stopsSeen.contains (stopId 0 1) = false ∧
      inScope (running (img1 0)) 0 3 = false ∧ inScope (running (img1 0)) 0 0 = true ∧ (running (img1 0)).sched = .running) ∧
    (inScope (tCore core1) 0 2 = true ∧ (tCore core1).sched ≠ .running ∧ (tCore core1).sched ≠ .quiesced) := by decide +kernel

/-- Part `i` of a record of class `c`, of which the other bits are 0 (R276). -/
def partOf (c i : BitVec 224) : BitVec 224 := (if i = 2 then c <<< 46 else 0) ||| i
/-- The lane of link 11 holds parts 0 and 1 of a record under each of the three types. -/
def twoParts : Link :=
  let first := fun (k : Lane) (ty : BitVec 8) => (takePart (takePart k ty (partOf 0 0)).1 ty (partOf 0 1)).1
  { Link.reset with lane := first (first (first Lane.reset 0x20) 0x40) 0x41 }
def hearing (tb : Timebase) (links : Tab Link) : State := { tbAt tb with links := links ++ [(11, twoParts)] }

theorem witness_RecordsTravelToTheRoot :
    laneUp State.reset = false ∧ laneUp (hearing follower []) = true ∧ tabWf Link.reset (hearing follower []).links = true ∧
    ((fld (3 : BitVec 224) 0 2 : BitVec 2) = 3 ∧ (fld (partOf 1 2) 0 2 : BitVec 2) ≠ 3) ∧
    (∀ ty ∈ ([0x20, 0x40, 0x41] : List (BitVec 8)), (takePart Link.reset.lane ty (partOf 1 2)).2 = none) ∧
    (∀ x ∈ ([(0x20, 1, .alarm), (0x40, 2, .log), (0x41, 3, .trace)] : List (BitVec 8 × BitVec 224 × EvClass)),
      ((takePart (linkOf (hearing follower []) 11).lane x.1 (partOf x.2.1 2)).2.map fun w => (recFrom w).cls) = some x.2.2) ∧
    ((hearing { follower with role := 1 } []).tb.role = 1) ∧
    ((hearing follower []).tb.role = 0 ∧ upLane (hearing follower []) = none ∧ (hearing follower []).paths.sentAlarms.length < 1024 ∧
      (tget [] (hearing follower []).paths.courierQ follower.upstream.toNat).length < 64) ∧
    (let s := hearing follower [(0, { Link.reset with courier := true })]
     tabWf Link.reset s.links = true ∧ upLane s = some 0 ∧ s.paths.fwdStore = [] ∧ s.paths.sentAlarms = [] ∧
      tget [] s.paths.courierQ 0 = [] ∧ (linkOf s 0).lane.ready = [] ∧ (linkOf s 0).lane.nextSlot ≤ s.ns) ∧
    ((linkOf State.reset 11).courier = false ∧ (linkOf (linkAt { Link.reset with courier := true }) 11).courier = true ∧
      { linkAt { Link.reset with courier := true } with ns := 8000 }.ns = 0 + 8000 ∧ State.reset.tb.role = 0 ∧
      State.reset.tb.source ≠ 11 ∧ (tbAt follower).tb.source = 11) := by decide +kernel

def alarm0 : Rec := ⟨0, 0, evCoreFault, .alarm, 0, false, 0, 1, false, 0, false⟩
def posting (now : Pm) : State :=
  { State.reset with paths := { Paths.reset with posted := [alarm0] }, tb := { Timebase.reset with now := now <<< 12, lastPulse := 1 } }
def ring63 (head : BitVec 32) (irq : Bool) : State :=
  { State.reset with doors := [(63, { Door.reset with
      evEn := true, evSize := 6, evTail := 64, evHead := head, owed := [alarm0], irqEn := irq, irqWait := true, lastIrq := some 0 })] }

theorem witness_RecordsReachTheRings :
    State.reset.paths.posted = [] ∧
    (firstRec (posting 1).paths.posted = some alarm0 ∧ settled (posting 1) alarm0 = false) ∧
    (settled (posting 2) alarm0 = true ∧ takers (posting 2) alarm0 = [] ∧ alarm0.cls = .alarm) ∧
    (ringFree (doorOf (ring63 0 false) 63) = 0 ∧ heldFor State.reset 63 = []) ∧
    ((doorOf (ring63 1 false) 63).evEn = true ∧ 0 < ringFree (doorOf (ring63 1 false) 63) ∧
      firstRec (heldFor (ring63 1 false) 63) = some alarm0 ∧ (doorOf (ring63 1 false) 63).irqEn = false ∧
      (doorOf (ring63 1 false) 63).newLogs + (doorOf (ring63 1 false) 63).newTraces = 0 ∧
      (doorOf (ring63 1 false) 63).owed.contains alarm0 = true) ∧
    ((doorOf (ring63 1 true) 63).irqWait = true ∧ (doorOf (ring63 1 true) 63).irqEn = true ∧
      (doorOf (ring63 1 true) 63).lastIrq = some 0) := by decide +kernel

/-- A package whose function 0 serves, with door 63 as given. -/
def hosted (d : Door) : State :=
  { State.reset with dev := .ready, pins := { Pins.reset with peRdy0 := true, perstN0 := true }, doors := [(63, d)] }
def door6 : Door := { Door.reset with mbSize := 6, evTail := 1 }

theorem witness_DoorbellPagesKeepTheirWindows :
    (fnReady State.reset false = false ∧ bar0Up State.reset = false) ∧
    (fnReady (hosted door6) false = true ∧ bar0Up (hosted door6) = true) ∧
    (((64 : BitVec 32) - door6.mbHead).toNat ≤ 2 ^ door6.mbSize.toNat ∧ ((64 : BitVec 32) - door6.mbTail).toNat ≤ 2 ^ door6.mbSize.toNat) ∧
    (let s := { hosted door6 with doors := [(63, { door6 with mbEn := true, mbTail := 64 })] }
     tabWf Door.reset s.doors = true ∧ takeable s 63 = true ∧ takeable (hosted { door6 with mbTail := 64 }) 63 = false) ∧
    2 ^ door6.mbSize.toNat < ((65 : BitVec 32) - door6.mbHead).toNat ∧
    ((1 : BitVec 32) - door6.evHead).toNat ≤ (door6.evTail - door6.evHead).toNat ∧
    (door6.evTail - door6.evHead).toNat < ((2 : BitVec 32) - door6.evHead).toNat ∧
    ({ door6 with mbEn := true }.mbEn = true ∧ (0x80000000 : BitVec 32).getLsbD 31 = true ∧ (0 : BitVec 32).getLsbD 31 = false ∧
      (mbCtl true door6 0x80000010).mbEn = true ∧ (mbCtl true door6 0x80000011).mbEn = false ∧
      (evCtl true door6 0x80000014).evEn = true) := by decide +kernel

/-! ### Witnesses: the mailbag -/

/-- Context 0's mailbag holds one descriptor, and function 0 serves. -/
def mailed (s : State) : State :=
  { s with dev := .ready, doors := [(0, { Door.reset with mbEn := true, mbSize := 6, mbTail := 1 })]
           pins := { Pins.reset with peRdy0 := true, perstN0 := true } }
def idlePkg : State := mailed State.reset
def dv : BitVec 504 := 1 <<< 496
def long0 (cmd : LongCmd) : Long := ⟨0, 0, false, 0, 0, .package, cmd, 0⟩
def withLongs (s : State) (n : Nat) (cmd : LongCmd) : State :=
  { s with paths := { s.paths with longs := List.replicate n (long0 cmd) } }

theorem witness_MailbagsAnswerTheFirstFailingCheck :
    myTurn State.reset 0 = false ∧ myTurn idlePkg 0 = true ∧ (doorOf idlePkg 0).mbMute = false ∧
    16 ≤ (withLongs idlePkg 16 (.toState true)).paths.longs.length ∧ (withLongs idlePkg 15 (.toState true)).paths.longs.length < 16 ∧
    judge idlePkg 0 0 0x01 (bodyZero 0 384) false anySched false none = some eRange ∧
    judge idlePkg 0 dv 0x02 (copyRsvOk dv) false anySched false (copyErr idlePkg 0 dv) = some eRange ∧
    judge idlePkg 0 dv 0x05 (stStep dv == 0 && bodyZero dv 304) true [.loaded] false none = some eState ∧
    judge (withLongs idlePkg 1 (.toState true)) 0 dv 0x04 (bodyZero dv 384) true anySched
      (pkgLocked (withLongs idlePkg 1 (.toState true))) none = some eBusy := by decide +kernel

/-- A package with an image, in schedule state `st`, with its mailbag filled. -/
def imaged (st : Sched) : State :=
  { mailed (running { img1 0 with ckptRec := some 0, plans := [(1, 1 <<< 252)] }) with
    sched := st, cons := [(1, { Cons.reset with st := .returned })] }

theorem witness_ShortCommandsHaveTheirEffect_schedule :
    myTurn idlePkg 0 = true ∧ judge idlePkg 0 dv 0x01 (bodyZero dv 384) false anySched false none = none ∧
    (myTurn (imaged .loaded) 0 = true ∧
      judge (imaged .loaded) 0 dv 0x04 (bodyZero dv 384) true [.loaded, .stopped] (pkgLocked (imaged .loaded)) none = none) ∧
    judge (imaged .loaded) 0 (dv ||| (2 <<< 344)) 0x05
      (stStep (dv ||| (2 <<< 344)) == 0 && bodyZero (dv ||| (2 <<< 344)) 304) true [.loaded] (pkgLocked (imaged .loaded))
      (startErr (imaged .loaded) (stBeat (dv ||| (2 <<< 344)))) = none ∧
    (¬ ((imaged .quiesced).sched = .stopped ∧ (imaged .quiesced).run.rolling.isSome = true) ∧
      judge (imaged .quiesced) 0 dv 0x06 (bodyZero dv 304) true [.quiesced, .stopped] (pkgLocked (imaged .quiesced))
        (resumeErr (imaged .quiesced) (stBeat dv) (stStep dv)) = none ∧
      judge (imaged .stopped) 0 (dv ||| (2 <<< 344)) 0x06 (bodyZero (dv ||| (2 <<< 344)) 304) true [.quiesced, .stopped]
        (pkgLocked (imaged .stopped)) (resumeErr (imaged .stopped) (stBeat (dv ||| (2 <<< 344))) (stStep (dv ||| (2 <<< 344))))
        = none) := by decide +kernel

/-- The last region entry of hub 3 for its last unit below the image shadow, and a guarantee of 1 GB/s of flow 0. -/
def dRegion : BitVec 504 := dv ||| (3 <<< 382) ||| (1023 <<< 372) ||| ((0x00FFFFFF - 0x2000) <<< 96) ||| (1 <<< 47)
def dGuar (remove : BitVec 504) : BitVec 504 := dv ||| (remove <<< 371) ||| (1 <<< 96) ||| (1 <<< 113)
def liveHbm : State := { idlePkg with caps := { Caps.reset with hbmLive := 1 } }
def guarded : State := { liveHbm with hubs := [(0, { HubMem.reset with guars := [⟨rgEntry (dGuar 0), 10⟩] })] }

theorem witness_ShortCommandsHaveTheirEffect_memory :
    judge idlePkg 0 dRegion 0x07 (!rgRemove dRegion && dRegion.extractLsb' 128 243 == 0 && rgRsv (rgEntry dRegion)) true anySched
      (pkgLocked idlePkg) (regionErr idlePkg (rgHub dRegion) (rgIndex dRegion) (rgEntry dRegion)) = none ∧
    (myTurn liveHbm 0 = true ∧ rgRemove (dGuar 0) = false ∧ badGuarantee liveHbm.run.flows (rgEntry (dGuar 0)) = false ∧
      badClass liveHbm (umbels liveHbm) (imgOwner liveHbm) liveHbm.run.flows (rgEntry (dGuar 0)) = false ∧
      notAdmitted liveHbm (allGuars liveHbm ++ [rgEntry (dGuar 0)]) = false ∧
      judge liveHbm 0 (dGuar 0) 0x08 (guarRsvOk (dGuar 0)) true anySched (pkgLocked liveHbm) none = none) ∧
    (rgRemove (dGuar 1) = true ∧ (allGuars guarded).any (sameGuarantee (rgEntry (dGuar 1))) = true ∧
      judge guarded 0 (dGuar 1) 0x08 (guarRsvOk (dGuar 1)) true anySched (pkgLocked guarded) none = none) := by decide +kernel

theorem witness_ShortCommandsHaveTheirEffect_image :
    ((ckptRec (imaged .running)).isSome = true ∧ ((dv ||| (64 <<< 320)).extractLsb' 320 64).toNat % 64 = 0 ∧
      judge (imaged .running) 0 (dv ||| (64 <<< 320)) 0x0B (bodyZero (dv ||| (64 <<< 320)) 320) false withImage false none = none) ∧
    judge (imaged .running) 0 dv 0x0C (bodyZero dv 384) true withImage (pkgLocked (imaged .running)) none = none ∧
    (plKind (planOf (imaged .running) 1) ≠ 0 ∧ (consOf (imaged .running) 1).st = .returned ∧ (consOf (imaged .running) 1).again = none ∧
      ((dv ||| (1 <<< 364)).extractLsb' 364 20).toNat = 1 ∧
      judge (imaged .running) 0 (dv ||| (1 <<< 364)) 0x0E (bodyZero (dv ||| (1 <<< 364)) 364) true withImage
        (pkgLocked (imaged .running)) none = none) ∧
    (dv.getLsbD 366 = false ∧ coInvalid (imaged .running) dv = false ∧
      (coreOf (withCore (imaged .running) { core1 with phase := .faulted }) (coCore dv)).phase = .faulted ∧
      judge (imaged .running) 0 dv 0x0F (bodyZero dv 366) true withImage (pkgLocked (imaged .running)) none = none) ∧
    ((dv ||| (1 <<< 366)).getLsbD 366 = true ∧
      judge (imaged .running) 0 (dv ||| (1 <<< 366)) 0x0F (bodyZero (dv ||| (1 <<< 366)) 366) true withImage
        (pkgLocked (imaged .running)) none = none ∧
      (coreOf (withCore (imaged .running) { core1 with phase := .retired }) (coCore (dv ||| (1 <<< 366)))).phase = .retired) := by
  decide +kernel

/-- A host's broadcast of 32 values between hubs 0 and 1, which hub 1 roots; its start beat is 5. -/
def hostBcast : BitVec 512 :=
  (1 <<< 511) ||| (1 <<< 478) ||| (6 <<< 472) ||| (6 <<< 468) ||| (1 <<< 447) ||| (1 <<< 413) ||| (1 <<< 396) ||| (1 <<< 379) |||
    (31 <<< 327) ||| (64 <<< 231) ||| (1 <<< 201)

theorem witness_ShortCommandsHaveTheirEffect_coll :
    judge (imaged .loaded) 0 dv 0x09 (bodyZero dv 319) false [.loaded, .running, .quiesced] false
      (collCmdErr (imaged .loaded) dv hostBcast 5) = none ∧
    findColl (officeOf (imaged .loaded) (coHub hostBcast).toNat) (5, coId hostBcast) = none ∧
    (coreOf (imaged .running) (coCore (dv ||| (1 <<< 366)))).phase ≠ .retired ∧
    collCmdErr (imaged .loaded) dv hostBcast 0 = some eRange := by decide +kernel

/-- A copy inside package memory, from address 0 to 64, of 64 bytes. -/
def dCopy : BitVec 504 := dv ||| (2 <<< 382) ||| (64 <<< 280) ||| (64 <<< 176)
def copier : State := mailed (running (img1 0))

theorem witness_LongCommandsStartAndEnd_begins :
    (myTurn copier 0 = true ∧ copier.paths.longs.length < 16 ∧
      judge copier 0 dCopy 0x02 (copyRsvOk dCopy) false anySched
        (pkgLocked copier || rangeLocked copier ((cpRanges dCopy).map fun x => (x.1, x.2.1))) (copyErr copier 0 dCopy) = none) ∧
    (((dv ||| (4096 <<< 320) ||| (64 <<< 288)).extractLsb' 320 64).toNat % 4096 = 0 ∧
      ((dv ||| (4096 <<< 320) ||| (64 <<< 288)).extractLsb' 288 32).toNat % 64 = 0 ∧
      judge idlePkg 0 (dv ||| (4096 <<< 320) ||| (64 <<< 288)) 0x03 (bodyZero (dv ||| (4096 <<< 320) ||| (64 <<< 288)) 288) true
        [.none] (pkgLocked idlePkg) none = none) ∧
    (rsSource dv = 0 ∧ rsReplica dv = 0 ∧ rsSource (dv ||| (1 <<< 342)) = 1) ∧
    (dv.extractLsb' 382 2 = 0 ∧ { idlePkg with dev := .dormant }.dev ≠ .ready ∧ myTurn { idlePkg with dev := .dormant } 0 = true ∧
      judge { idlePkg with dev := .dormant } 0 dv 0x10 (bodyZero dv 382) true [.none] false (stateErr { idlePkg with dev := .dormant } dv)
        = none) ∧
    ((dv ||| (1 <<< 382)).extractLsb' 382 2 = 1 ∧ idlePkg.dev ≠ .dormant ∧
      judge idlePkg 0 (dv ||| (1 <<< 382)) 0x10 (bodyZero (dv ||| (1 <<< 382)) 382) true [.none] (pkgLocked idlePkg)
        (stateErr idlePkg (dv ||| (1 <<< 382))) = none) ∧
    (∀ i : Fin 2,
      judge (mailed (linkAt (upLink .up 0 false []))) 0 (dv ||| (0x800 <<< 372) ||| (BitVec.ofNat 504 (i.val * 2) <<< 370)) 0x0A
        (bodyZero (dv ||| (0x800 <<< 372) ||| (BitVec.ofNat 504 (i.val * 2) <<< 370)) 366) true anySched false
        (linkCmdErr (mailed (linkAt (upLink .up 0 false []))) (dv ||| (0x800 <<< 372) ||| (BitVec.ofNat 504 (i.val * 2) <<< 370))) = none) ∧
    (∀ i : Fin 2,
      judge (mailed training) 0 (dv ||| (0x800 <<< 372) ||| (BitVec.ofNat 504 (i.val * 2 + 1) <<< 370)) 0x0A
        (bodyZero (dv ||| (0x800 <<< 372) ||| (BitVec.ofNat 504 (i.val * 2 + 1) <<< 370)) 366) true anySched false
        (linkCmdErr (mailed training) (dv ||| (0x800 <<< 372) ||| (BitVec.ofNat 504 (i.val * 2 + 1) <<< 370))) = none) := by decide +kernel

theorem witness_LongCommandsStartAndEnd_ends :
    (State.reset.paths.longs[0]? = none ∧ (withLongs copier 1 (.copy 2 0 64 0 64)).paths.longs[0]? = some (long0 (.copy 2 0 64 0 64)) ∧
      (long0 (.copy 2 0 64 0 64)).cmd = .copy 2 0 64 0 64 ∧ lowPower (withLongs copier 1 (.copy 2 0 64 0 64)) = false ∧
      anyWaits copier [(0, 64), (64, 64)] = false ∧ (copyRanges 2 0 64 64).map (fun x => (x.1, x.2.1)) = [(0, 64), (64, 64)] ∧
      anyWaits { copier with hubs := [(0, { HubMem.reset with flushing := true })] } [(0, 64), (64, 64)] = true ∧
      noEcc.outcome = .clean ∧ copyRetired copier (copyRanges 2 0 64 64) = false ∧ (1 : BitVec 2) ≠ 2) ∧
    (long0 (.load 64 img0 img0)).cmd = .load 64 img0 img0 ∧
    (loadErr (withLongs idlePkg 1 (.load 64 img0 img0)) img0 0 64).isSome = true ∧
    (long0 (.link 0 0x800)).cmd = .link 0 0x800 ∧ (0 : BitVec 2) ≠ 3 ∧
    (let done := fun (s : State) => (lkLinks 0x800).all fun k => linkUp s k || decide ((linkOf s k).st = .down)
     done training = false ∧ done (linkAt (upLink .up 0 false [])) = true ∧
      (lkLinks 0x800).all (fun k => (linkOf (linkAt { upLink .up 0 false [] with courier := true }) k).courier) = true) ∧
    ((long0 (.restore false 0 none)).cmd = .restore false 0 none ∧ idlePkg.run.image = none ∧ copier.run.image.isSome = true ∧
      lowPower { idlePkg with dev := .dormant } = true) ∧
    ((long0 (.toState true)).cmd = .toState true ∧ idlePkg.dev = .ready ∧ (long0 (.toState false)).cmd = .toState false) ∧
    ((withLongs idlePkg 1 (.toState true)).paths.longs.findIdx? (fun l => l.ctx = (0 : Fin 64)) = some 0 ∧
      longBound idlePkg (.copy 2 0 64 0 64) = none ∧ longBound idlePkg (.toState true) = some 50000000 ∧
      { idlePkg with ns := 50000000 }.ns ≤ (long0 (.toState true)).began + 50000000 ∧
      (long0 (.toState true)).began + 50000000 < { idlePkg with ns := 50000001 }.ns) ∧
    (State.reset.paths.longs.findIdx? (fun l => l.ctx = (0 : Fin 64)) = none) ∧
    ((doorOf idlePkg 0).mbMute = false ∧
      (doorOf { idlePkg with doors := [(0, { Door.reset with mbMute := true })] } 0).mbMute = true) := by decide +kernel

/-- A stopped package with a sealed generation of step 0, and a buddy one place along D. -/
def hdr0 : BitVec 512 := (1 <<< 501) ||| (0x1040000 <<< 300)
def sealedPkg : State :=
  { imaged .stopped with
    place := { Place.reset with lenS := 1, lenD := 1, lenP := 0 }
    ckpt := { Ckpt.reset with newer := some { gen0 with sealed_ := true, hdr := hdr0 } } }
def buddy0 : BuddyData := ⟨true, hdr0, true, bound0, 0, 0, [], [], [], [], [], [], []⟩
def dBuddy : BitVec 504 := dv ||| (1 <<< 342) ||| (1 <<< 327)

theorem witness_LongCommandsStartAndEnd_restores :
    (rsSource dv = 0 ∧ rsReplica dv = 0 ∧ myTurn sealedPkg 0 = true ∧
      judge sealedPkg 0 dv 0x0D (bodyZero dv 327) true [.loaded, .stopped] (pkgLocked sealedPkg)
        (localErr sealedPkg (rsStep dv)) = none) ∧
    (rsSource dBuddy = 1 ∧
      judge sealedPkg 0 dBuddy 0x0D (bodyZero dBuddy 327) true [.loaded, .stopped] (pkgLocked sealedPkg)
        (buddyErr sealedPkg (rsStep dBuddy) (rsReplica dBuddy) buddy0) = none) := by decide +kernel

/-! ### Witnesses: the host's windows and the registers

Clauses that turn on an opaque value of Config (a signature that holds, or two images whose digests differ) have no witness
that the kernel can evaluate: nothing in the model says what those values are. -/

/-- A package whose context 0 has key 1 over the first units, with BAR2 open on them under that key. -/
def windowed : State := { copier with regs := { Regs.reset with bar2En := true, bar2Key := 1 } }

theorem witness_HostWindowsActAtOnce :
    bar0Up State.reset = false ∧ bar0Up idlePkg = true ∧ (1 : BitVec 2) ≠ 0 ∧ (3 : BitVec 2) ≠ 0 ∧
    bar0Up copier = true ∧ copier.sched = .running ∧ idlePkg.sched ≠ .running ∧ idlePkg.sched ≠ .quiesced ∧
    (windowed.regs.bar2En = true ∧ windowed.dev = .ready ∧ accessFault windowed 1 0 8 true false = none ∧
      accessFault windowed 1 0 8 false true = none ∧ anyWaits windowed [(0, 8)] = false ∧ noEcc.outcome = .clean ∧
      anyWaits { windowed with hubs := [(0, { HubMem.reset with flushing := true })] } [(0, 8)] = true) ∧
    ((0x1FFFFFFF8 : BitVec 33).toNat + 8 ≤ 2 ^ 33 ∧ (0x1FFFFFFF8 : BitVec 33).toNat % 8 + 8 ≤ 8 ∧
      ((7 : BitVec 33).toNat % 8 + 1 ≤ 8)) ∧
    accessFault { windowed with regs := { windowed.regs with bar2Base := 0xFFFFFFFF } } 1 (0xFFFFFFFF * 65536) 8 true false
      = some eRange ∧
    (idlePkg.regs.bar2En = false) := by decide +kernel

def locked (s : State) : State := { s with regs := { s.regs with lock := true } }
/-- SYS.PLACE of the first place in a torus of 2 by 2 by 2. -/
def place222 : BitVec 64 := (1 <<< 30) ||| (1 <<< 24) ||| (1 <<< 18)
def heldOf (s : State) : BitVec 36 := s.place.lenS ++ s.place.lenD ++ s.place.lenP ++ s.place.s ++ s.place.d ++ s.place.p
def placed : State := { idlePkg with place := ⟨true, 0, 1, 1, 1, 0, 0, 0⟩ }

theorem witness_SetupRegistersKeepTheirRules :
    fnReady State.reset false = false ∧ fnReady idlePkg false = true ∧ fnReady idlePkg true = false ∧
    ({ idlePkg with start := { idlePkg.start with done := true } }.start.done = true ∧ idlePkg.start.done = false) ∧
    ((locked placed).regs.lock = true ∧ fnReady (locked placed) false = true ∧
      place222.extractLsb' 0 36 ≠ heldOf (locked idlePkg) ∧ (0 : BitVec 64).extractLsb' 0 36 ≠ heldOf (locked placed)) ∧
    ((∃ v : BitVec 64, v.extractLsb' 0 36 = heldOf placed) ∧ placed.place.addr = BitVec.ofNat 15 0) ∧
    ((place222.extractLsb' 18 6).toNat + 1 = 2 ∧ ((0 : BitVec 64).extractLsb' 18 6).toNat + 1 = 1) ∧
    idlePkg.place.set = false ∧ idlePkg.regs.lock = false ∧
    (tabWf Link.reset idlePkg.links = true ∧ linksPowered idlePkg = true ∧ linksPowered State.reset = false) ∧
    ((1 : BitVec 32) ≠ (locked idlePkg).regs.llmMode ∧ (locked idlePkg).regs.llmMode = 0) ∧
    (idlePkg.dev = .ready ∧ idlePkg.sched = .none ∧ copier.sched ≠ .none ∧ copier.regs.lock = false) ∧
    (((0xFF00 <<< 26 : BitVec 64).extractLsb' 26 16).toNat = 0xFF00 ∧ ((0xFEFF <<< 26 : BitVec 64).extractLsb' 26 16).toNat < 0xFF00) ∧
    ((ctxOf copier 0).cfg.getLsbD 63 = true ∧ (ctxOf copier 1).cfg.getLsbD 63 = false) := by
  refine ⟨by decide +kernel, by decide +kernel, by decide +kernel, by decide +kernel, by decide +kernel, ⟨⟨(1 <<< 30) ||| (1 <<< 24) ||| (1 <<< 18), by decide +kernel⟩, by decide +kernel⟩, by decide +kernel⟩

/-- A package that follows its source on link 0, and could follow link 1. -/
def twoSources (u a : Bool) : State :=
  { idlePkg with
    tb := { Timebase.reset with role := 0, st := .locked, upstream := 2, altUpstream := 1 }
    links := [(0, { Link.reset with st := .up, courier := u }), (1, { Link.reset with st := .up, courier := a })] }

theorem witness_RegisterWritesAndPortResets :
    bar0Up State.reset = false ∧ bar0Up idlePkg = true ∧
    (∀ i : Fin 4, (![7999, 8000, 65000000, 65000001] i : Nat) < 2 ^ 26) ∧
    (idlePkg.sched = .none ∧ copier.sched ≠ .none) ∧
    ({ idlePkg with pins := { idlePkg.pins with sysclk := true } }.pins.sysclk = true ∧ State.reset.pins.sysclk = false ∧
      { Timebase.reset with tbInOk := true }.tbInOk = true ∧ State.reset.tb.tbInOk = false) ∧
    ((linkOf (twoSources true true) 0).courier = true ∧ (twoSources true true).tb.upstream ≠ 0 ∧ (twoSources true true).tb.role = 0 ∧
      (twoSources true true).tb.st ≠ .unlocked) ∧
    ((linkOf (twoSources false true) 0).courier = false ∧ (linkOf (twoSources false true) 1).courier = true ∧
      (0x100 : BitVec 32).toNat / 256 % 16 = 1 ∧ (0xB0B : BitVec 32).toNat % 16 < 12 ∧ 12 ≤ (0xC0C : BitVec 32).toNat % 16) ∧
    fnReady State.reset true = false ∧ fnReady idlePkg false = true ∧
    ((2 ≠ 4 ∧ 2 ≠ 8) ∧ (0x40004 : BitVec 25).toNat % 8 ≠ 0 ∧ (0x40004 : BitVec 25).toNat % 4 = 0) ∧
    (∀ i : Fin 4, ((600 ≤ (![599, 600, 1400, 1401] i : Nat) % 2048 ∧ (![599, 600, 1400, 1401] i : Nat) % 2048 ≤ 1400) ↔ (i = 1 ∨ i = 2))) ∧
    (∀ i : Fin 4, ((16 ≤ (![15, 16, 60, 61] i : Nat) % 64 ∧ (![15, 16, 60, 61] i : Nat) % 64 ≤ 60) ↔ (i = 1 ∨ i = 2))) ∧
    ((0xFFF8 : BitVec 25).toNat < 0x10000 ∧ (0x7FFFFC : BitVec 25).toNat < 0x00800000 ∧ 0x00080000 ≤ (0x80000 : BitVec 25).toNat) ∧
    (perstHigh State.reset false = false ∧ perstHigh idlePkg false = true ∧
      (let up := fun (s : State) => { s with pins := { s.pins with perstN0 := true } }
       fnReady (up State.reset) false = false ∧
        fnReady (up { idlePkg with pins := { idlePkg.pins with perstN0 := false } }) false = true)) ∧
    (∀ c : Fin 64, 0x0100000C + c.val * 0x1000 < 2 ^ 25 ∧ 0x01000020 + c.val * 0x1000 < 2 ^ 25 ∧ 0x20000 + c.val * 0x100 < 0x30000) := by
  decide +kernel

/-! ### Witnesses: power, frequency, temperature and memory -/

def standby (n : BitVec 4) (sh : ShordoSt) : State :=
  { State.reset with dev := .standby, start := { Start.reset with stage := n, shordo := sh } }
def railed (s : State) (tile : Nat) (r : Rail) (x : RailSt) : State :=
  { s with pwr := { s.pwr with rails := [(railKey tile r, x)] } }
def withRails (s : State) (x : Tab RailSt) : State := { s with pwr := { s.pwr with rails := x } }
/-- A package in service whose logical die 0 stands on site 0 with its clusters in place. -/
def diced : State := { idlePkg with caps := { Caps.reset with cores := 2560, dies := 1 } }

theorem witness_PowerFaultsShutWhatTheyName :
    State.reset.dev = .off ∧ idlePkg.dev ≠ .off ∧ State.reset.pins.pwrgd = false ∧
    ({ idlePkg with pins := { idlePkg.pins with pwrgd := true } }.pins.pwrgd = true ∧
      { State.reset with pins := { Pins.reset with pwrgd := true } }.dev = .off) ∧
    (powered State.reset = false ∧ State.reset.dev ≠ .failed ∧ powered idlePkg = true ∧
      powered (standby 0 .up) = false ∧ powered (standby 1 .up) = true) ∧
    ({ idlePkg with pwr := { idlePkg.pwr with bladeLost := true } }.pwr.bladeLost = true ∧ idlePkg.pwr.bladeLost = false) ∧
    (idlePkg.pins.rstN = true ∧ { idlePkg with pins := { idlePkg.pins with rstN := false } }.pins.rstN = false ∧
      State.reset.pins.rstN = true) ∧
    ((standby 3 .fresh).start.stage = 3 ∧ idlePkg.start.stage ≠ 3) ∧
    (railOf 0 .core = true ∧ railOf 36 .core = false ∧ railOf 36 .hbm = true ∧ railOf 35 (.vcl 169) = true ∧ railOf 35 (.vcl 170) = false ∧
      railOf 35 .hub = false ∧ tget .off (standby 3 .fresh).pwr.rails (railKey 0 .core) ≠ .retired ∧
      tget .off (railed (standby 3 .fresh) 0 .core .retired).pwr.rails (railKey 0 .core) = .retired) ∧
    (let live := fun (s : State) (tile : Nat) (r : Rail) => withRails s (tput .off (tput .off [] (groupKey tile r) .on) (railKey tile r) .on)
     railRuns (live (standby 3 .fresh) 0 .core) 0 .core = true ∧ railRuns (standby 3 .fresh) 0 .core = false ∧
      tabWf .off (live (standby 3 .fresh) 0 .core).pwr.rails = true ∧ railKey 0 .transit ≠ railKey 0 .core ∧
      railRuns (live idlePkg 36 .hub) 36 .hub = true ∧ railRuns (live diced 0 (.vcl 0)) 0 (.vcl 0) = true ∧
      railRuns (live idlePkg 39 (.vcl 0)) 39 (.vcl 0) = false) ∧
    (let due := fun (s : State) => tget .off s.pwr.rails (railKey 0 .core) = .retrying ∧
       tget 0 s.pwr.retryNs (railKey 0 .core) + 5000000 ≤ s.ns
     ¬ due idlePkg ∧ ¬ due { railed idlePkg 0 .core .retrying with ns := 4999999 } ∧
      due { railed idlePkg 0 .core .retrying with ns := 5000000 } ∧
      due { railed (standby 3 .fresh) 0 .core .retrying with ns := 5000000 } ∧ (standby 3 .fresh).start.stage = 3) := by decide +kernel

theorem witness_PowerFaultsShutWhatTheyName_clusters :
    (36 ≤ (36 : Fin 40).val ∧ (35 : Fin 40).val < 36 ∧ railGroup .standby ≠ 2 ∧ railGroup .transit ≠ 2 ∧ railGroup .core = 2) ∧
    (clusterAt diced 0 0 = some (0, 0) ∧ clusterAt diced 0 159 = some (0, 159) ∧ clusterAt diced 0 160 = none ∧
      diced.sched ≠ .running ∧ mayReplace diced latSpareCluster = true ∧ mayReplace copier latSpareCluster = false ∧
      freeSpareCluster diced 0 = some 160 ∧ clusterAt idlePkg 0 168 = none ∧ (coreOf diced 0).phase ≠ .retired) ∧
    ((159 : BitVec 8).toNat < 160 ∧ 160 ≤ (160 : BitVec 8).toNat) := by decide +kernel

def lat (x : BitVec 256) : State := running { img1 0 with latitude := x }
def drooping : State := { idlePkg with pwr := { idlePkg.pwr with drooped := [0] } }
def throttling (n : Nat) : State :=
  { idlePkg with ns := n, pwr := { idlePkg.pwr with flowOk := true, flowSince := some 0, episodes := [(0, some ⟨0, 0, 0, 0, 0⟩), (5, some ⟨0, 0, 0, 0, 0⟩)] } }

/-- The current ceiling that CURRENT_PERIOD leaves. -/
def curCeilAfter (s : State) (i : Nat) : Option (BitVec 6) :=
  match exec (.currentPeriod i 0) s with | .next t => some t.pwr.curCeil | _ => none

theorem witness_FrequenciesFollowTheirCeilings :
    State.reset.dev ≠ .ready ∧ idlePkg.dev = .ready ∧ dvfsOn idlePkg = false ∧
    (dvfsOn (lat ((1 <<< 73) ||| (60 <<< 248) ||| (16 <<< 240))) = true) ∧
    (160 ≤ (160 : BitVec 8).toNat ∧ (159 : BitVec 8).toNat < 160 ∧ drooping.pwr.drooped.contains 0 = true ∧
      idlePkg.pwr.drooped.contains 0 = false) ∧
    (let s := { idlePkg with pwr := { idlePkg.pwr with flowOk := true, freq := [(0, 40)] } }
     domLogical s 0 = 0 ∧ 0 ≠ allClusters ∧ freqOf s 0 < wantOf s 0 ∧ wantOf s 1 ≤ freqOf s 1 ∧ 0 < wantAll s ∧ reasonOn drooping 4 = true) ∧
    (curCeilAfter idlePkg 1800 = some 60 ∧ curCeilAfter idlePkg 1801 = some 60 ∧ curCeilAfter idlePkg 2000 = some 60 ∧
      curCeilAfter idlePkg 2001 = some 46 ∧
      curCeilAfter { idlePkg with pwr := { idlePkg.pwr with curCeil := 16 } } 2001 = some 16 ∧
      curCeilAfter { idlePkg with pwr := { idlePkg.pwr with curCeil := 16 } } 1800 = some 17) ∧
    (tget none idlePkg.pwr.episodes 0 = none ∧ tget none (throttling 999999999).pwr.episodes 0 = some ⟨0, 0, 0, 0, 0⟩ ∧
      (throttling 999999999).ns < 0 + 1000000000 ∧ 0 + 1000000000 ≤ (throttling 1000000000).ns) := by decide +kernel

/-- A hub sensor at level `l`, and what a reading of `n` makes of it. -/
def levelAfter (l : BitVec 2) (n : Nat) : Option (BitVec 2) :=
  match exec (.sensorRead (.hub 0) n) { idlePkg with pwr := { idlePkg.pwr with level := tput 0 [] (sensorKey idlePkg (.hub 0)) l } } with
  | .next t => some (tget 0 t.pwr.level (sensorKey idlePkg (.hub 0))) | _ => none

/-- Stack 0 at throttle level `l`, and what a report of `n` makes of it. -/
def stackAfter (l : BitVec 2) (n : Nat) : Option (BitVec 2) :=
  match exec (.hbmTempReport 0 n) { idlePkg with hubs := [(0, { HubMem.reset with throttle := tput 0 [] 0 l })] } with
  | .next t => some (tget 0 (hubOf t 0).throttle 0) | _ => none

def crit (k at_ n : Nat) : State := { idlePkg with ns := n, pwr := { idlePkg.pwr with critNs := [(k, at_ + 1)] } }
def flowLost (n : Nat) : State := { idlePkg with ns := n, pwr := { idlePkg.pwr with flowLostNs := some 0 } }

theorem witness_TemperaturesThrottleThenHalt :
    State.reset.dev = .off ∧ idlePkg.dev ≠ .off ∧ powered idlePkg = true ∧ powered State.reset = false ∧
    ((levelAfter 0 99, levelAfter 0 100, levelAfter 0 104, levelAfter 0 105) = (some 0, some 1, some 1, some 2) ∧
      (levelAfter 1 96, levelAfter 1 97, levelAfter 1 104, levelAfter 1 105) = (some 0, some 1, some 1, some 2) ∧
      (levelAfter 2 101, levelAfter 2 102) = (some 1, some 2)) ∧
    ((stackAfter 0 84, stackAfter 0 85, stackAfter 0 94, stackAfter 0 95) = (some 0, some 1, some 1, some 2) ∧
      (stackAfter 1 81, stackAfter 1 82, stackAfter 1 94, stackAfter 1 95) = (some 0, some 1, some 1, some 2) ∧
      (stackAfter 2 91, stackAfter 2 92) = (some 1, some 2)) ∧
    (criticalAt (.hub 0) ≤ 112 ∧ ¬ criticalAt (.hub 0) ≤ 111 ∧ tget 0 idlePkg.pwr.critNs (sensorKey idlePkg (.hub 0)) = 0 ∧
      criticalAt (.teasel 0 0) = 125) ∧
    (let s := fun (n : Nat) => { idlePkg with ns := n, pwr := { idlePkg.pwr with
       level := [(sensorKey idlePkg (.hub 0), 1)], levelNs := [(sensorKey idlePkg (.hub 0), 1)] } }
     let k := sensorKey (s 0) (.hub 0)
     (tget 0 (s 0).pwr.level k).toNat = 1 ∧ 0 < tget 0 (s 0).pwr.levelNs k ∧
      ¬ tget 0 (s 99999).pwr.levelNs k - 1 + 100000 ≤ (s 99999).ns ∧ tget 0 (s 100000).pwr.levelNs k - 1 + 100000 ≤ (s 100000).ns) ∧
    (let held := fun (s : State) (hbm : Bool) => s.pwr.critNs.any fun x =>
       if hbm then decide (200000 ≤ x.1 ∧ x.2 - 1 + 1000000 ≤ s.ns) else decide (x.1 < 200000 ∧ x.2 - 1 + 100000 ≤ s.ns)
     held (crit 16384 0 99999) false = false ∧ held (crit 16384 0 100000) false = true ∧ held (crit 200000 0 999999) true = false ∧
     held (crit 200000 0 1000000) true = true ∧ held (crit 200000 0 1000000) false = false) ∧
    (idlePkg.pwr.halting = none ∧ { idlePkg with dev := .dormant }.dev = .dormant ∧ (standby 6 .fresh).start.stage.toNat ≤ 6 ∧
      ¬ (standby 7 .fresh).start.stage.toNat ≤ 6) ∧
    (idlePkg.pwr.flowOk = false ∧ (throttling 0).pwr.flowOk = true) ∧
    (tget none idlePkg.pwr.episodes 5 = none ∧ (throttling 99999).pwr.flowSince = some 0 ∧ (throttling 99999).ns < 0 + 100000 ∧
      0 + 100000 ≤ (throttling 100000).ns) ∧
    ((flowLost 1999999).pwr.flowLostNs = some 0 ∧ (flowLost 1999999).ns < 0 + 2000000 ∧ 0 + 2000000 ≤ (flowLost 2000000).ns) ∧
    { idlePkg with pwr := { idlePkg.pwr with halting := some (.coolant, 0) } }.pwr.halting = some (.coolant, 0) := by
  refine ⟨by decide, by decide +kernel, by decide +kernel, by decide +kernel, by decide +kernel, by decide +kernel,
    by decide +kernel⟩

def monitored (run : Nat) : State :=
  { idlePkg with regs := { Regs.reset with imbEn := true, imbThresh := 32 }, hubs := [(0, { HubMem.reset with runHbm := run })] }
/-- A hub that migrates region `i` of two relocatable ones of one granule each, at chunk `c`. -/
def migrating (i c : Nat) : State :=
  { idlePkg with hubs := [(0, { HubMem.reset with
      regions := [(0, (1 <<< 64) ||| (1 <<< 47) ||| (1 <<< 44)), (1, (1 <<< 96) ||| (1 <<< 64) ||| (1 <<< 47) ||| (1 <<< 44))]
      migr := some ⟨i, c, 0, 0⟩ })] }
def starved (n : Nat) : State :=
  { idlePkg with ns := n, hubs := [(0, { HubMem.reset with short := some ⟨0, 0, 0, false, 0⟩ })] }

theorem witness_MemoryUnitsWatchAndRekey :
    { idlePkg with regs := { Regs.reset with imbEn := false } }.regs.imbEn = false ∧ (monitored 62).regs.imbEn = true ∧
    (let bad := fun (total largest units : Nat) =>
       units * 65536 ≤ total ∧ (monitored 0).regs.imbThresh.toNat * total ≤ largest * 16 * units
     ¬ bad 16777215 131072 256 ∧ bad 16777216 131072 256 ∧ ¬ bad 16777216 131071 256 ∧ monUnits (monitored 0) 0 .hbm = 256) ∧
    (monUnits (monitored 0) 0 .hbm ≠ 0 ∧ monUnits (monitored 0) 0 .cache ≠ 0 ∧
      monUnits { monitored 0 with regs := { Regs.reset with llmMode := 0xFF } } 0 .cache = 0) ∧
    ((hubOf (monitored 62) 0).runHbm < 63 ∧ 63 ≤ (hubOf (monitored 63) 0).runHbm) ∧
    ((hubOf idlePkg 0).flushing = false ∧ (hubOf { idlePkg with hubs := [(0, { HubMem.reset with flushing := true })] } 0).flushing = true) ∧
    (hubOf idlePkg 0).migr = none ∧
    ((hubOf (migrating 0 0) 0).migr = some ⟨0, 0, 0, 0⟩ ∧ (migrating 0 0).sched ≠ .quiesced ∧ (hubOf (migrating 0 0) 0).short = none ∧
      0 < (rgSize (tget 0 (hubOf (migrating 0 0) 0).regions 0)).toNat ∧
      (rgSize (tget 0 (hubOf (migrating 0 1) 0).regions 0)).toNat ≤ 1) ∧
    (regionsAfter (hubOf (migrating 0 1) 0) 0 = [1] ∧ regionsAfter (hubOf (migrating 1 1) 0) 1 = []) ∧
    ((hubOf idlePkg 0).short = none ∧ (hubOf (starved 999999999) 0).short = some ⟨0, 0, 0, false, 0⟩ ∧
      (starved 999999999).ns < 0 + 1000000000 ∧ 0 + 1000000000 ≤ (starved 1000000000).ns) := by decide +kernel

/-! ### Witnesses: start-up and management -/

def fw (v : BitVec 30) : FwSlot := ⟨true, v, 0, 0, 0⟩
/-- A flash that holds one copy, written first. -/
def oneCopy {α : Type} (x : α) : Copies α := ⟨some (0, x), none⟩
def flash (a b : FwSlot) : BootRead := ⟨a, b, 7, 0, 0, false, oneCopy [], ⟨none, none⟩, oneCopy [], [], [], []⟩
/-- A sound capability block of site 0, of a Yarrow die, and one of a wrong vendor. -/
def yarrowBlock (vendor : BitVec 256) : CapBlock := ⟨0, true, (vendor <<< 240) ||| (1 <<< 232) ||| (0x12 <<< 224) ||| (4 <<< 220) ||| (2 <<< 216)⟩
/-- Standby with flow for `n` ns, the trip input high and SYSCLK there. -/
def flowing (n : Nat) (stage : BitVec 4) (sh : ShordoSt) : State :=
  { standby stage sh with
    ns := n
    pins := { Pins.reset with sysclk := true, flowOk := true }
    pwr := { Pwr.reset with flowOk := true, flowSince := some 0 } }

theorem witness_StartUpRunsItsStages :
    idlePkg.dev ≠ .off ∧ State.reset.dev = .off ∧
    ((standby 0 .boot).dev = .standby ∧ (standby 0 .bootAsked).start.shordo = .bootAsked ∧ (standby 0 .up).start.shordo ≠ .boot ∧
      newest (dropBad [] 0 (flash (fw 1) (fw 2)).repair) = some (0, []) ∧ newest (dropBad [0] 0 (flash (fw 1) (fw 2)).repair) = none ∧
      newest (dropBad [0] 0 ⟨some (1, [(1 : BitVec 128)]), some (0, [2])⟩) = some (0, [2]) ∧
      (standby 0 .boot).sh.known = false ∧ { Shordo.reset with known := true }.known = true) ∧
    ((flowing 1000000000 0 .fresh).pwr.flowSince = some 0 ∧ 0 + 1000000000 ≤ (flowing 1000000000 0 .fresh).ns ∧
      ¬ 0 + 1000000000 ≤ (flowing 999999999 0 .fresh).ns ∧ (flowing 1000000000 0 .fresh).start.stage = 0 ∧
      (flowing 1000000000 0 .fresh).pwr.flowOk = true ∧ (flowing 1000000000 0 .fresh).pins.thermTripN = true ∧
      (flowing 1000000000 0 .fresh).pins.sysclk = true) ∧
    ((standby 3 .fresh).start.stage = 3 ∧ (railed (standby 3 .fresh) 0 .core .retrying).pwr.rails.any (fun x => x.2 == .retrying) = true ∧
      (∀ x ∈ (standby 3 .fresh).pwr.rails, x.2 = .retired → 2 ≤ x.1 % 1024)) ∧
    ((∃ x ∈ (railed (standby 3 .fresh) 36 .hub .retired).pwr.rails, x.2 = .retired ∧ 36 * 1024 ≤ x.1) ∧
      (∀ x ∈ (railed (standby 3 .fresh) 35 .transit .retired).pwr.rails, x.2 = .retired → x.1 < 36 * 1024) ∧
      (∃ x ∈ (railed (standby 3 .fresh) 35 .transit .retired).pwr.rails, x.2 = .retired ∧ x.1 % 1024 < 2) ∧
      (∀ x ∈ (railed (standby 3 .fresh) 35 .core .retired).pwr.rails, x.2 = .retired → 2 ≤ x.1 % 1024)) ∧
    (tabWf Site.reset (standby 3 .fresh).sites = true ∧ ([yarrowBlock 0x0C41].find? (fun x => x.site == 0 && x.crcOk)) = some (yarrowBlock 0x0C41) ∧
      blockBad (yarrowBlock 0x0C41).block = none ∧ blockMode (yarrowBlock 0x0C41).block = .yarrow ∧
      (blockBad (yarrowBlock 0).block).isSome = true ∧ [{ yarrowBlock 0x0C41 with crcOk := false }].find? (fun x => x.site == 0 && x.crcOk) = none) ∧
    (let two : List (BitVec 2 × BitVec 8 × BitVec 6) := [(0, 0, 0), (0, 0, 1)]
     hbmShort (standby 5 .fresh) two 0 0 = false ∧ hbmShort (standby 5 .fresh) ((0, 0, 33) :: two) 0 0 = true ∧
      hbmShort (standby 5 .fresh) [(0, 0, 34)] 0 1 = false ∧ hbmShort (standby 5 .fresh) [(0, 0, 34), (0, 1, 35)] 0 0 = true) := by decide +kernel

theorem witness_StartUpRunsItsStages_later :
    ((standby 4 .fresh).start.stage = 4 ∧ (standby 5 .fresh).start.stage = 5 ∧ (standby 6 .fresh).start.stage = 6 ∧
      (standby 7 .fresh).start.stage = 7 ∧ (standby 8 .fresh).start.stage = 8 ∧ (standby 9 .fresh).start.stage = 9) ∧
    ((standby 7 .fresh).start.retMode = false ∧ (standby 7 .fresh).place.set = false ∧ inCopy (standby 7 .fresh).sh.placeRec = none ∧ placed.place.set = true ∧
      inCopy (writeCopy (standby 7 .fresh).sh.placeRec 0x41040000) = some 0x41040000 ∧
      placeBad ((0x41040000 : BitVec 36).setWidth 64) = false ∧ placeBad ((0 : BitVec 36).setWidth 64) = true) ∧
    ((∀ l : Fin 12, linkSettled (standby 8 .fresh) l.val = true) ∧
      linkSettled { standby 8 .fresh with links := [(11, { Link.reset with st := .training })] } 11 = false ∧
      linkSettled { standby 8 .fresh with ns := 149999999, links := [(11, { Link.reset with st := .down, waitPeer := true })] } 11 = false ∧
      linkSettled { standby 8 .fresh with ns := 150000000, links := [(11, { Link.reset with st := .down, waitPeer := true })] } 11 = true) ∧
    ((standby 9 .fresh).tb.st ≠ .locked ∧ (standby 9 .fresh).start.stageNs + 5000000000 ≤ { standby 9 .fresh with ns := 5000000000 }.ns ∧
      ¬ (standby 9 .fresh).start.stageNs + 5000000000 ≤ { standby 9 .fresh with ns := 4999999999 }.ns) := by decide +kernel

def shordo (f : Shordo → Shordo) : State := { standby 0 .up with sh := f Shordo.reset }
/-- A repair entry of channel `c`, cleared or not, of time `t`. -/
def repairOf (c t : Nat) (cleared : Bool) : BitVec 128 :=
  (BitVec.ofNat 128 c <<< 96) ||| (if cleared then 1 <<< 80 else 0) ||| BitVec.ofNat 128 t

theorem witness_ManagementCommandsAreAnswered_checks :
    ((State.reset.dev = .off) ∧ (shordo fun h => { h with recovery := true }).sh.recovery = true ∧
      (standby 0 .down).start.shordo ≠ .up) ∧
    ((standby 0 .up).dev ≠ .off ∧ (standby 0 .up).start.shordo = .up ∧ (standby 0 .up).sh.recovery = false) ∧
    (((0x1041000 : BitVec 36).extractLsb' 18 6).toNat + 1 = 2 ∧ ((0 : BitVec 36).extractLsb' 18 6).toNat + 1 = 1) ∧
    copier.sched = .running ∧
    ((repairs (standby 0 .up).sh)[0]? = none ∧
      (repairs (shordo fun h => { h with repair := oneCopy [repairOf 1 0 false] }).sh)[0]? = some (repairOf 1 0 false) ∧
      (repairOf 1 0 false).getLsbD 80 = false ∧ (repairOf 1 0 true).getLsbD 80 = true) ∧
    ((1 ≤ (1 : BitVec 8).toNat ∧ (15 : BitVec 8).toNat ≤ 15 ∧ 60 < (61 : BitVec 8).toNat) ∧
      (16 ≤ (16 : BitVec 8).toNat ∧ (60 : BitVec 8).toNat ≤ 60)) ∧
    (∀ n : Fin 4, (shordo fun h => { h with revoked := 0xF }).sh.revoked.getLsbD n.val = true) ∧
    (let holds := fun (l : List Nat) => keyStore (shordo fun h => { h with keys := oneCopy l }).sh
     holds [7] = [7] ∧ (holds (List.range 16)).length = 16 ∧ (holds (List.range 15)).length < 16 ∧ (16 : Nat) ∉ List.range 16) := by decide +kernel

theorem witness_ManagementCommandsAreAnswered_state :
    (stateBusy (standby 3 .up) = true ∧ stateBusy (standby 0 .up) = false ∧ idlePkg.dev = .ready ∧ stateBusy idlePkg = false) ∧
    ({ standby 0 .up with dev := .failed }.dev = .failed ∧ stateBusy { standby 0 .up with dev := .failed } = false) ∧
    (startReady (flowing 999999999 0 .up) = false ∧ startReady (flowing 1000000000 0 .up) = true ∧
      flowHeld (flowing 999999999 0 .up) = false ∧ flowHeld (flowing 1000000000 0 .up) = true ∧
      startReady { flowing 1000000000 0 .up with pins := { Pins.reset with flowOk := true } } = false ∧
      (shordo fun h => { h with fwNew := true }).sh.fwNew = true ∧
      (flowing 1000000000 0 .up).sh.fwNew = false ∧ stateBusy (flowing 1000000000 0 .up) = false) ∧
    (let hot := fun (t h : Nat) => { flowing 1000000000 0 .up with
       dev := .haltedCoolant
       pwr := { (flowing 1000000000 0 .up).pwr with temps := [(0, t)] }
       hubs := [(0, { HubMem.reset with temp := [(0, h)] })] }
     coolAgain (hot 96 81) = true ∧ coolAgain (hot 97 81) = false ∧ coolAgain (hot 96 82) = false ∧ stateBusy (hot 96 81) = false) ∧
    ({ idlePkg with pwr := { idlePkg.pwr with halting := some (.coolant, 0) } }.pwr.halting.isSome = true ∧ idlePkg.pwr.halting = none) ∧
    ((shordo fun h => { h with debugLock := true }).sh.debugLock = true ∧ (standby 0 .up).sh.debugLock = false ∧
      (standby 0 .up).sh.challenge = none ∧ (shordo fun h => { h with challenge := some 5 }).sh.challenge = some 5) := by decide +kernel

/-- 4,094 repair entries, all cleared or none. -/
def fullRecord (cleared : Bool) : State :=
  shordo fun h => { h with repair := oneCopy (List.replicate 4094 (repairOf 1 0 cleared)), repairQ := [repairOf 2 9 false, repairOf 3 8 false] }

theorem witness_ManagementCommandsAreAnswered_flash :
    ((standby 0 .up).sh.updAgent = none ∧ (shordo fun h => { h with updAgent := some 1 }).sh.updAgent = some 1 ∧ (1 : Nat) ≠ 2 ∧
      (standby 0 .up).sec.slot = false ∧ { standby 0 .up with sec := { Sec.reset with slot := true } }.sec.slot = true) ∧
    ((fw 1).accepted = true ∧ (standby 0 .up).sh.revoked.getLsbD (fw 1).keySlot.toNat = false ∧
      (standby 0 .up).sh.svnFused.toNat ≤ (fw 1).svn.toNat ∧
      ¬ (shordo fun h => { h with svnFused := 1 }).sh.svnFused.toNat ≤ (fw 1).svn.toNat) ∧
    ((standby 0 .up).sh.smbus = false ∧ (shordo fun h => { h with smbus := true }).sh.smbus = true ∧
      (standby 0 .up).sh.standbyNs + 1000000000 ≤ { standby 0 .up with ns := 1000000000 }.ns ∧
      { standby 0 .up with ns := 999999999 }.ns < (standby 0 .up).sh.standbyNs + 1000000000) ∧
    ((standby 0 .up).sh.repairQ = [] ∧ (repairs (standby 0 .up).sh).length < 4094 ∧ earliestEntry [repairOf 2 9 false, repairOf 3 8 false] = some (repairOf 3 8 false) ∧
      ([repairOf 3 0 false].any fun x => x.extractLsb' 96 32 == (repairOf 3 8 false).extractLsb' 96 32) = true) ∧
    State.reset.dev = .off ∧ idlePkg.dev ≠ .off := by decide +kernel

theorem witness_ManagementCommandsAreAnswered_full :
    (repairs (fullRecord true).sh).length = 4094 ∧ ((repairs (fullRecord true).sh).filter fun x => !x.getLsbD 80).length = 0 ∧
    ((repairs (fullRecord false).sh).filter fun x => !x.getLsbD 80).length = 4094 ∧
    (((repairs (fullRecord false).sh).filter fun x => !x.getLsbD 80).any
      fun x => x.extractLsb' 96 32 == (repairOf 3 8 false).extractLsb' 96 32) = false := by decide +kernel

def spdmAt (n : SpdmStage) : State := shordo fun h => { h with spdm := [(2, n)] }

theorem witness_SpdmAnswersInItsOrder :
    (transportUp (standby 0 .up) .i3c = true ∧ transportUp (standby 0 .up) .smbus = false ∧ transportUp idlePkg .doe0 = true ∧
      transportUp idlePkg .doe1 = false) ∧
    (tget 0 (spdmAt 0).sh.spdm (transportNo .i3c) < 1 ∧ 1 ≤ tget 0 (spdmAt 1).sh.spdm (transportNo .i3c) ∧
      tget 0 (spdmAt 1).sh.spdm (transportNo .i3c) < 2 ∧ 2 ≤ tget 0 (spdmAt 2).sh.spdm (transportNo .i3c) ∧
      tget 0 (spdmAt 2).sh.spdm (transportNo .i3c) < 3 ∧ 3 ≤ tget 0 (spdmAt 3).sh.spdm (transportNo .i3c)) ∧
    ((spdmAt 3).sh.spdmUntil ≤ (spdmAt 3).ns ∧ (spdmAt 3).ns < (shordo fun h => { h with spdmUntil := 1 }).sh.spdmUntil) ∧
    ((5 < 6 ∧ 6 ≠ 255) ∧ 5 ≤ 5 ∧ (spdmAt 3).sched = .none ∧ copier.sched ≠ .none) := by decide +kernel

theorem witness_PostmarksCompareInSerialArithmetic :
    0 < 2 ^ 39 * 2 ^ 24 - 1 ∧ pmLt 0xFFFFFFFFFFFFFFFF 0 = true ∧ pmLt 0 0x7FFFFFFFFFFFFFFF = true ∧ pmLt 0 0x8000000000000000 = false ∧
    pmLt 0 0 = false := by decide

theorem witness_TheHigherAcceptedFirmwareBoots :
    (standby 0 .boot).dev = .standby ∧ (standby 0 .boot).start.shordo = .boot ∧
    (let h := Shordo.reset
     slotGood h (fw 1) = true ∧ slotGood h { fw 1 with accepted := false } = false ∧ slotGood { h with revoked := 1 } (fw 1) = false ∧
     slotGood { h with svnFused := 1 } (fw 1) = false ∧
     bootSlot { h with fwA := some (fw 1), fwB := some (fw 2) } = some (true, fw 2) ∧
     bootSlot { h with fwA := some (fw 2), fwB := some (fw 2) } = some (false, fw 2) ∧
     bootSlot { h with fwA := some (fw 1), fwB := some { fw 2 with accepted := false } } = some (false, fw 1) ∧
     bootSlot { h with fwA := some { fw 1 with accepted := false }, fwB := none } = none) := by decide +kernel

theorem witness_HaltedCoolantEndsOnceCool :
    (let halted := fun (t : Nat) => mailed { flowing 1000000000 0 .up with pwr := { (flowing 1000000000 0 .up).pwr with temps := [(0, t)] } }
     let s := fun (t : Nat) => { halted t with dev := .haltedCoolant }
     (s 96).dev = .haltedCoolant ∧ myTurn (s 96) 0 = true ∧ (doorOf (s 96) 0).mbMute = false ∧ (s 96).paths.longs.length < 16 ∧
     (∀ i : Fin 2, judge (s 96) 0 (dv ||| (BitVec.ofNat 504 i.val <<< 382)) 0x10
       (bodyZero (dv ||| (BitVec.ofNat 504 i.val <<< 382)) 382) true [.none] (pkgLocked (s 96)) none = none) ∧
     coolAgain (s 96) = true ∧ coolAgain (s 97) = false) := by decide +kernel

/-! ### The worked case of chapter 22, and two small checks -/

/-- The package of the worked case before stage 8, with both ports up. -/
def setupPkg : State :=
  { standby 7 .fresh with pins := { Pins.reset with peRdy0 := true, peRdy1 := true, perstN0 := true, perstN1 := true } }

/-- SYS.PLACE 0xFFBC_029E is place (30, 10, 0) of a 48 by 64 by 4 system: address 510. -/
theorem test_place_510 : ∃ t, exec (.registerWrite false 0x40000 8 0xFFBC029E) setupPkg = .next t ∧
    (t.place.addr, (barRead t 0x40000 8).2) = (510, 0x81FE0000FFBC029E) := ⟨_, rfl, by decide +kernel⟩

/-- Step 2 of the worked case: the locked write of `p` 31 from port 1 is counted and changes nothing. -/
theorem test_place_locked : ∃ t, exec (.registerWrite true 0x40000 8 0xFFBC029F)
      (locked { setupPkg with place := ⟨true, 510, 3, 63, 47, 0, 10, 30⟩ }) = .next t ∧
    (t.place.addr, (barRead t 0x10030 8).2) = (510, 0x0004000000010007) :=
  ⟨_, rfl, by decide +kernel⟩

/-- The identity registers of R461, and the reset values of R392, R466 and R414 as they read. -/
theorem test_register_reads :
    (barRead State.reset 0 4).2 = 0x54553336 ∧ (barRead State.reset 4 4).2 = 0x4101 ∧ (barRead State.reset 8 4).2 = 0x36010C41 ∧
    (barRead State.reset 0x30000 4).2 = 1200 ∧ (barRead State.reset 0x30004 4).2 = 50 ∧
    (barRead State.reset 0x60000 8).2 = 0x000F424000000000 ∧ (barRead State.reset 0x60010 8).2 = 0xF0 ∧
    (barRead State.reset 0x800000 8).2 = 0x8002 ∧ (barRead State.reset 0x50008 4).2 = 0x2001 ∧
    (barRead State.reset 0x10004 8).2 = 0xFFFFFFFFFFFFFFFF := by decide +kernel

/-- The table gives no row bits, so a word spells no command. -/
theorem test_no_word : decodeTableWord 8 0 = none ∧ State.reset.withFetchWord 8 0 = State.reset := ⟨rfl, rfl⟩

/-! ### Poisoned memory (R400) -/

/-- The transfer of the first 16 bytes meets a dirty line of cache slice 0 that fails both reads: its unit is poisoned, its core
faults and the slice goes; a write of the whole unit ends the poison. -/
theorem test_line_lost_poisons :
    (∃ t, exec (.xferComplete 0 ⟨.lineLost, 15⟩ true) cached = .next t ∧
      (t.mem, (coreOf t 0).phase, touchesPoison t 255 1 false, touchesPoison t 256 1 false, cacheSlice t 15) =
        (tput 0 cached.mem (2 ^ 48) 1, .faulted, true, false, none)) ∧
    touchesPoison (poison cached 1) 256 255 true = true ∧ touchesPoison (poison cached 1) 256 256 true = false ∧
    (wrMem (poison cached 1) 256 (List.replicate 256 0)).mem = cached.mem :=
  ⟨⟨_, rfl, by decide +kernel⟩, by decide +kernel⟩

end Sys2Proof.Tests
end

section
/-! SUPPORT. The serial comparison of postmarks (R26): `pmLt` in terms of the distance from the first postmark to the second, its
asymmetry, and the order of a postmark and one that follows it. -/

namespace Sys2Proof.Machine

/-- R26's comparison, on the 64-bit difference: its distance as a number is positive and below half the range. -/
theorem pmLt_iff_toNat_sub (a b : Pm) : pmLt a b = true ↔ 1 ≤ (b - a).toNat ∧ (b - a).toNat ≤ 2 ^ 63 - 1 := by
  have hpos : b - a ≠ 0 ↔ 1 ≤ (b - a).toNat := by bv_omega
  rw [pmLt, Bool.and_eq_true, bne_iff_ne, decide_eq_true_iff, hpos]
  omega

/-- The 64-bit difference is R26's (b − a) mod 2^64. -/
theorem toNat_pm_sub (a b : Pm) : (b - a).toNat = (b.toNat + 2 ^ 64 - a.toNat) % 2 ^ 64 := by
  have ha := a.isLt
  rw [BitVec.toNat_sub]
  congr 1
  omega

/-- The way back is the rest of the range, so it is more than half of it. -/
theorem pmLt_asymm {a b : Pm} (h : pmLt a b = true) : pmLt b a = false := by
  rw [pmLt_iff_toNat_sub] at h
  rw [← Bool.not_eq_true, pmLt_iff_toNat_sub]
  have hback : (a - b).toNat = 2 ^ 64 - (b - a).toNat := by bv_omega
  omega

/-- The sum may wrap: the distance is `n` all the same. -/
theorem pmLt_add_ofNat (a : Pm) {n : Nat} (hpos : 0 < n) (hlt : n < 2 ^ 63) : pmLt a (a + BitVec.ofNat 64 n) = true := by
  have hdist : (a + BitVec.ofNat 64 n - a).toNat = n := by
    rw [BitVec.add_comm, BitVec.add_sub_cancel, BitVec.toNat_ofNat, Nat.mod_eq_of_lt (by omega)]
  rw [pmLt_iff_toNat_sub, hdist]
  omega

/-- Settles O58: R26's range is `pmLt` on the difference, and fewer than 2^39 beats are fewer than 2^63 sub-ticks. -/
theorem postmarksCompareInSerialArithmetic : Obligations.PostmarksCompareInSerialArithmetic := by
  unfold Obligations.PostmarksCompareInSerialArithmetic
  intro a b
  refine ⟨?_, fun n hpos hlt => ?_⟩
  · rw [← toNat_pm_sub]
    exact pmLt_iff_toNat_sub a b
  · have hfollows : pmLt a (a + BitVec.ofNat 64 n) = true := pmLt_add_ofNat a hpos hlt
    exact ⟨hfollows, pmLt_asymm hfollows⟩

end Sys2Proof.Machine
end

section
/-! SUPPORT. Long commands (R345, R346): what a descriptor whose turn has come does, with its failing check or without one, and what a
check of the command's own adds to the others. Then MB_STATE in Halted-Coolant (R394), and its conditions. -/

namespace Sys2Proof.Machine

variable (s : State) (c : Fin 64) (d : BitVec 504) (op : BitVec 8)

/-! ### Completions and long commands -/

/-- The command unit writes the descriptor to host memory and moves the round robin on. -/
@[simp] theorem served_frame :
    (served s c op d).dev = s.dev ∧ (served s c op d).doors = s.doors := by
  simp [served]

/-- A descriptor whose mailbag was not reset meanwhile (R338) leaves a completion record. -/
theorem completeCmd_posts {s : State} {c : Fin 64} (tag : BitVec 32) (irq : Bool) (index : BitVec 32) (op : BitVec 8) (err : Err)
    (result : BitVec 64) (hmute : (doorOf s c.val).mbMute = false) :
    ∃ r ∈ (completeCmd s c tag irq index op err result).paths.posted, r.cls = .completion ∧ r.err = err := by
  have hposts : completeCmd s c tag irq index op err result = postRec (modDoor s c.val (doorDone index))
      (completion s c tag irq index op err result) := by
    simp [completeCmd, hmute]
  rw [hposts]
  exact ⟨_, List.mem_append_right _ (List.mem_singleton_self _), rfl, rfl⟩

/-- A descriptor that is served and starts a long command puts it last among the long commands. -/
theorem startLong_served_longs (lk : Lock) (cmd : LongCmd) :
    (startLong (served s c op d) c d op lk cmd).paths.longs =
      s.paths.longs ++ [⟨c, dscTag d, dscIrq d, (doorOf s c.val).mbHead, op, lk, cmd, s.ns⟩] := by
  simp [startLong, served, doorOf]

/-- The package's state is not what a start of a long command changes. -/
@[simp] theorem startLong_dev (lk : Lock) (cmd : LongCmd) : (startLong s c d op lk cmd).dev = s.dev := by
  simp [startLong]

/-- A long command whose turn has come, with fewer than 16 running, completes at once or begins (R345). -/
theorem longCmd_of_turn {s : State} {c : Fin 64} (why : Option Err) (lk : Lock) (cmd : LongCmd) (begin_ : State → State)
    (hturn : myTurn s c = true) (hroom : s.paths.longs.length < 16) :
    (∀ e, why = some e → longCmd s c d op why lk cmd begin_ =
      .next (completeCmd (served s c op d) c (dscTag d) (dscIrq d) (doorOf s c.val).mbHead op e 0)) ∧
    (why = none → longCmd s c d op why lk cmd begin_ = .next (begin_ (startLong (served s c op d) c d op lk cmd))) := by
  have hserves : (myTurn s c && decide (s.paths.longs.length < longMax)) = true := by simp [hturn, longMax, hroom]
  constructor
  · rintro e rfl
    rw [longCmd, hserves, whenever, if_pos rfl]
  · rintro rfl
    rw [longCmd, hserves, whenever, if_pos rfl]

/-- The command's own check comes last (R346): where the others pass, it decides. -/
theorem judge_eq_own {s : State} {c : Fin 64} {d : BitVec 504} {op : BitVec 8} {rsvOk pkg locked : Bool} {states : List Sched}
    (own : Option Err) (hothers : judge s c d op rsvOk pkg states locked none = none) :
    judge s c d op rsvOk pkg states locked own = own := by
  unfold judge at hothers ⊢
  split at hothers
  · contradiction
  · rfl

/-! ### The way out of Halted-Coolant (R394) -/

variable {s d}

theorem flowHeld_iff : flowHeld s = true ↔
    s.pwr.flowOk = true ∧ ∃ n, s.pwr.flowSince = some n ∧ n + 1000000000 ≤ s.ns := by
  unfold flowHeld
  cases s.pwr.flowSince <;> simp

/-- A sensor is one of a die or Teasel, or one of a hub's stacks (LOG 69). -/
theorem sensorsCool_iff : sensorsCool s = true ↔
    (∀ x ∈ s.pwr.temps, x.2 < 97) ∧ ∀ h ∈ s.hubs, ∀ x ∈ h.2.temp, x.2 < 82 := by
  simp only [sensorsCool, Bool.and_eq_true, List.all_eq_true, decide_eq_true_eq]

/-- R394's three conditions: the flow, the trip input at its pin and as the package holds it, the sensors. -/
theorem coolAgain_iff : coolAgain s = true ↔
    s.pwr.flowOk = true ∧ (∃ n, s.pwr.flowSince = some n ∧ n + 1000000000 ≤ s.ns) ∧
      (s.pwr.trip = false ∧ s.pins.thermTripN = true) ∧
      ((∀ x ∈ s.pwr.temps, x.2 < 97) ∧ ∀ h ∈ s.hubs, ∀ x ∈ h.2.temp, x.2 < 82) := by
  rw [← sensorsCool_iff, coolAgain, flowSteady, Bool.and_eq_true, Bool.and_eq_true, Bool.and_eq_true, Bool.not_eq_true', flowHeld_iff]
  tauto

/-- MB_STATE's own checks in Halted-Coolant, for the targets Ready and Dormant: R394's conditions. -/
theorem stateErr_haltedCoolant (hdev : s.dev = .haltedCoolant) (htarget : (fld d 382 2).toNat < 2) :
    stateErr s d = if coolAgain s then none else some eState := by
  have hnamed : ¬ 2 ≤ (fld d 382 2).toNat := by omega
  cases hcool : coolAgain s <;> simp [stateErr, firstErr, hdev, hnamed, hcool]

/-- Stage 3 of a return touches no path of the host. -/
theorem beginReturn_paths : (beginReturn s).paths = s.paths := by
  have hspares : ∀ t : State, (powerSpares t).paths = t.paths := fun t =>
    (powerSpares_keeps (M := 0x200) rfl (Keeps.refl t)).paths.resolve_left (by decide)
  simp [beginReturn, beginStage3, enterStage, hspares]

/-- A return to Ready begins with stage 3 (R452). -/
theorem beginReturn_start : (beginReturn s).start.stage = 3 ∧ (beginReturn s).start.retMode = true := by
  simp [beginReturn, beginStage3, enterStage]

/-- A long MB_STATE of Halted-Coolant whose other checks pass: E_STATE while R394's conditions do not hold, and its beginning where
they do. -/
theorem longCmd_state_haltedCoolant {c : Fin 64} (lk : Lock) (cmd : LongCmd) (begin_ : State → State)
    (hdev : s.dev = .haltedCoolant) (hturn : myTurn s c = true) (hroom : s.paths.longs.length < 16)
    (hothers : judge s c d 0x10 (bodyZero d 382) true [.none] (pkgLocked s) none = none) (htarget : (fld d 382 2).toNat < 2) :
    (¬coolAgain s = true →
      longCmd s c d 0x10 (judge s c d 0x10 (bodyZero d 382) true [.none] (pkgLocked s) (stateErr s d)) lk cmd begin_ =
        .next (completeCmd (served s c 0x10 d) c (dscTag d) (dscIrq d) (doorOf s c.val).mbHead 0x10 eState 0)) ∧
    (coolAgain s = true →
      longCmd s c d 0x10 (judge s c d 0x10 (bodyZero d 382) true [.none] (pkgLocked s) (stateErr s d)) lk cmd begin_ =
        .next (begin_ (startLong (served s c 0x10 d) c d 0x10 lk cmd))) := by
  obtain ⟨hfails, hbegins⟩ := longCmd_of_turn d 0x10 (if coolAgain s then none else some eState) lk cmd begin_ hturn hroom
  rw [judge_eq_own _ hothers, stateErr_haltedCoolant hdev htarget]
  exact ⟨fun hwarm => hfails eState (if_neg hwarm), fun hcool => hbegins (if_pos hcool)⟩

/-- MB_STATE to Ready from Halted-Coolant is long, and its beginning is a return. -/
theorem exec_mbStateReady_haltedCoolant (c : Fin 64) (hdev : s.dev = .haltedCoolant) (htarget : fld d 382 2 = 0) :
    exec (.mbStateReady c d) s = longCmd s c d 0x10 (judge s c d 0x10 (bodyZero d 382) true [.none] (pkgLocked s) (stateErr s d))
      .package (.toState false) beginReturn := by
  simp [exec, execMbStateReady, ofRow, hdev, htarget]

/-- MB_STATE to Dormant from Halted-Coolant is long, and nothing else happens as it begins. -/
theorem exec_mbStateDormant_haltedCoolant (c : Fin 64) (hdev : s.dev = .haltedCoolant) (htarget : fld d 382 2 = 1) :
    exec (.mbStateDormant c d) s = longCmd s c d 0x10 (judge s c d 0x10 (bodyZero d 382) true [.none] (pkgLocked s) (stateErr s d))
      .package (.toState true) id := by
  simp [exec, execMbStateDormant, ofRow, hdev, htarget]

/-- Settles O60: with the other checks passed, `coolAgain` alone decides whether MB_STATE begins. -/
theorem haltedCoolantEndsOnceCool : Obligations.HaltedCoolantEndsOnceCool := by
  unfold Obligations.HaltedCoolantEndsOnceCool
  intro s c d hdev hturn hmute hroom hothers cool hcool ends hends
  rw [← coolAgain_iff] at hcool
  subst hcool hends
  refine ⟨?_, fun hready => ?_, fun hdormant => ?_⟩
  · have hmute' : (doorOf (served s c 0x10 d) c.val).mbMute = false := by simpa [doorOf] using hmute
    exact completeCmd_posts (dscTag d) (dscIrq d) (doorOf s c.val).mbHead 0x10 eState 0 hmute'
  · have htarget : fld d 382 2 = 0 := hready
    obtain ⟨hstage, hret⟩ := beginReturn_start (s := startLong (served s c 0x10 d) c d 0x10 .package (.toState false))
    obtain ⟨hfails, hbegins⟩ :=
      longCmd_state_haltedCoolant .package (.toState false) beginReturn hdev hturn hroom hothers (by simp [htarget])
    rw [exec_mbStateReady_haltedCoolant c hdev htarget]
    have hlongs := startLong_served_longs s c d 0x10 .package (.toState false)
    rw [← beginReturn_paths] at hlongs
    exact ⟨hfails, fun hcool => ⟨_, _, hbegins hcool, hstage, hret, hlongs, rfl, rfl⟩⟩
  · have htarget : fld d 382 2 = 1 := hdormant
    obtain ⟨hfails, hbegins⟩ := longCmd_state_haltedCoolant .package (.toState true) id hdev hturn hroom hothers (by simp [htarget])
    rw [exec_mbStateDormant_haltedCoolant c hdev htarget]
    have hstays : (startLong (served s c 0x10 d) c d 0x10 .package (.toState true)).dev = .haltedCoolant := by simpa using hdev
    exact ⟨hfails, fun hcool =>
      ⟨_, _, hbegins hcool, hstays, startLong_served_longs s c d 0x10 .package (.toState true), rfl, rfl⟩⟩

end Sys2Proof.Machine
end

section
/-! SUPPORT. The choice of the firmware slot (R419): what `bootSlot` answers in each row of R419's table and what SEC.STATUS then
holds, and the parts of the state after SHORDO_BOOT that the choice decides. -/

namespace Sys2Proof.Machine

variable {h : Shordo} {x y : FwSlot}

/-! ### The table of R419 -/

/-- A slot that the ROM accepts stands for selection. -/
theorem slot_filter_good {o : Option FwSlot} (hx : o = some x) (hgood : slotGood h x = true) :
    o.filter (slotGood h) = some x := by
  rw [hx, Option.filter_some_pos hgood]

/-- A slot that is rejected or empty does not stand for selection. -/
theorem slot_filter_rejected {o : Option FwSlot} (hbad : ∀ z, o = some z → slotGood h z = false) :
    o.filter (slotGood h) = none :=
  Option.filter_eq_none_iff.mpr fun z hz => Bool.eq_false_iff.mp (hbad z hz)

theorem bootSlot_of_both (hA : h.fwA = some x) (hB : h.fwB = some y) (hx : slotGood h x = true) (hy : slotGood h y = true) :
    bootSlot h = if x.version.toNat < y.version.toNat then some (true, y) else some (false, x) := by
  simp only [bootSlot, slot_filter_good hA hx, slot_filter_good hB hy]

theorem bootSlot_of_onlyA (hA : h.fwA = some x) (hx : slotGood h x = true) (hB : ∀ z, h.fwB = some z → slotGood h z = false) :
    bootSlot h = some (false, x) := by
  simp only [bootSlot, slot_filter_good hA hx, slot_filter_rejected hB]

theorem bootSlot_of_onlyB (hB : h.fwB = some y) (hy : slotGood h y = true) (hA : ∀ z, h.fwA = some z → slotGood h z = false) :
    bootSlot h = some (true, y) := by
  simp only [bootSlot, slot_filter_good hB hy, slot_filter_rejected hA]

theorem bootSlot_of_neither (hA : ∀ z, h.fwA = some z → slotGood h z = false) (hB : ∀ z, h.fwB = some z → slotGood h z = false) :
    bootSlot h = none := by
  simp only [bootSlot, slot_filter_rejected hA, slot_filter_rejected hB]

/-! ### SEC.STATUS (R433) and SHORDO_BOOT -/

theorem bootSec_of_selected {onB : Bool} (hsel : bootSlot h = some (onB, x)) :
    (bootSec h).slot = onB ∧ (bootSec h).fwVersion = x.version := by
  simp [bootSec, hsel]

theorem bootSec_of_none (hsel : bootSlot h = none) : (bootSec h).boot = 1 := by
  simp [bootSec, hsel]

/-- Without a slot to boot, no start-up follows. -/
theorem afterBoot_of_none {s : State} (hsel : bootSlot s.sh = none) : afterBoot s = .up := by
  simp [afterBoot, hsel]

/-- An event leaves the package's state, its start-up, SEC.STATUS and Shordo's store alone. -/
@[simp] theorem post_boot_frame (s : State) (src : BitVec 32) (pm : Pm) (code : BitVec 16) (ctx : Option (BitVec 6)) (err : Err)
    (items : List (Nat × Nat)) :
    (post s src pm code ctx err items).dev = s.dev ∧ (post s src pm code ctx err items).start = s.start ∧
    (post s src pm code ctx err items).sec = s.sec ∧ (post s src pm code ctx err items).sh = s.sh := by
  simp [post, postB]

/-- The parts of a state after SHORDO_BOOT that follow from the slots its store holds. -/
structure Booted (t : State) : Prop where
  dev : t.dev = .standby
  sec : t.sec = bootSec t.sh
  recovery : t.sh.recovery = (bootSlot t.sh).isNone
  stays : bootSlot t.sh = none → t.start.shordo = .up

/-- The event that SHORDO_BOOT may post (no readable repair record, R404) decides none of it. -/
theorem Booted.ite_post {t : State} (ht : Booted t) (c : Prop) [Decidable c] (src : BitVec 32) (pm : Pm) (code : BitVec 16)
    (ctx : Option (BitVec 6)) (err : Err) (items : List (Nat × Nat)) :
    Booted (if c then t else post t src pm code ctx err items) := by
  obtain ⟨hdev, hsec, hrecovery, hstays⟩ := ht
  split
  · exact ⟨hdev, hsec, hrecovery, hstays⟩
  · constructor <;> simpa only [post_boot_frame]

theorem whenever_of_true {c : Bool} {s t : State} (hc : c = true) : whenever c s t = .next t := if_pos hc

/-- SHORDO_BOOT where a boot is due: the store that it reads decides the rest. -/
theorem exec_shordoBoot_booted (s : State) (b : BootRead) (hdev : s.dev = .standby)
    (hdue : s.start.shordo = .boot ∨ s.start.shordo = .bootAsked) :
    ∃ t, exec (.shordoBoot b) s = .next t ∧ Booted t := by
  refine ⟨_, whenever_of_true (by simp [hdev, hdue]), Booted.ite_post ?_ ..⟩
  exact ⟨hdev, rfl, rfl, fun hnone => show afterBoot _ = .up from afterBoot_of_none hnone⟩

/-- Settles O59: the table of R419, row by row, on the slots that the store holds after the boot. -/
theorem theHigherAcceptedFirmwareBoots : Obligations.TheHigherAcceptedFirmwareBoots := by
  unfold Obligations.TheHigherAcceptedFirmwareBoots
  intro s b hdev hdue
  obtain ⟨t, hexec, hstandby, hsec, hrecovery, hstays⟩ := exec_shordoBoot_booted s b hdev hdue
  refine ⟨t, hexec, fun x y hA hB hx hy => ⟨fun hle => ?_, fun hlt => ?_⟩, fun x hA hx hB => ?_, fun y hB hy hA => ?_,
    fun hA hB => ?_⟩
  · have hsel : bootSlot t.sh = some (false, x) := by rw [bootSlot_of_both hA hB hx hy, if_neg (Nat.not_lt.mpr hle)]
    exact ⟨hsel, hsec ▸ (bootSec_of_selected hsel).1⟩
  · have hsel : bootSlot t.sh = some (true, y) := by rw [bootSlot_of_both hA hB hx hy, if_pos hlt]
    exact ⟨hsel, hsec ▸ (bootSec_of_selected hsel).1⟩
  · have hsel := bootSlot_of_onlyA hA hx hB
    exact ⟨hsel, hsec ▸ bootSec_of_selected hsel⟩
  · have hsel := bootSlot_of_onlyB hB hy hA
    exact ⟨hsel, hsec ▸ bootSec_of_selected hsel⟩
  · have hsel := bootSlot_of_neither hA hB
    exact ⟨hsel, by rw [hrecovery, hsel]; rfl, hsec ▸ bootSec_of_none hsel, hstandby, hstays hsel⟩

end Sys2Proof.Machine
end
